-- ==== Sys2Proof/Word.lean ====
section
/-! DEFINITION. The byte and the index types of the FW2840: what its framed messages are made of and what its
records are numbered by (00_scope.md, "IDENTIFIERS"). Quantities that the manual counts or does arithmetic on are
`Nat` or `Int`; only bytes, masks and the 16-bit check are bit vectors. -/

namespace Sys2Proof

/-- One byte of a port transaction, label message or drop message. -/
abbrev Byte := BitVec 8

/-- Control ports CP0 to CP3. -/
abbrev Port := Fin 4

/-- Reference slots: TA0, TA1, FQ0, FQ1, OF0 to OF3. -/
abbrev Slot := Fin 8

/-- Radio drops D0 to D7. -/
abbrev DropIx := Fin 8

/-- Pulse outputs PX0 to PX5. -/
abbrev Px := Fin 6

/-- Emission entries 0 to 63. -/
abbrev EntryIx := Fin 64

/-- Drop profiles 0 to 7. -/
abbrev ProfileIx := Fin 8

/-- Alarm records 0 to 31. -/
abbrev AlarmIx := Fin 32

/-- The two TA inputs, and the two FQ inputs. -/
abbrev InputIx := Fin 2

end Sys2Proof
end

