-- ==== Sys2Proof/Config.lean ====
section
/-! DEFINITION. What is fixed for the part: the spans of its two time bases, the limits its rules name, and the two
values the manual leaves open (the rate of the monitor oscillator against LO_IN, and how much of a segment a PULL has
sent at an instant). -/

namespace Sys2Proof.Config

/-- The seconds field counts modulo this (R1). -/
def siteSeconds : Nat := 2 ^ 48

/-- Picoseconds in a second (R1). -/
def psPerSecond : Nat := 1000000000000

/-- Picoseconds in a millisecond; a window is one of them (R117). -/
def psPerMs : Nat := 1000000000

/-- The span of the counter in picoseconds, after which its reading comes again (R1). -/
def siteSpan : Nat := siteSeconds * psPerSecond

/-- Cycles of LO_IN in a nominal second (R2). -/
def cyclesPerSecond : Nat := 10000000

/-- A cycle of LO_IN at its nominal frequency, in ns (R2). -/
def cycleNs : Nat := 100

/-- Units of the sub-picosecond fraction in a picosecond (R1). -/
def fracPerPs : Nat := 65536

/-- FREE VALUE. The monitor time, in ns, that passes with the n-th LO_IN cycle since the release of reset. The
monitor oscillator "does not depend on LO_IN" (00_scope.md) and no rule gives its rate, so nothing is known of it.
See notes/assumptions/3.md. -/
opaque monitorNanos : Nat → Nat

/-- FREE VALUE. How many bytes of a segment a PULL on a port has sent at an instant of monitor time at which the port is
cleared: no rule gives the rate of a port's bytes. See notes/assumptions/20.md. -/
opaque segmentSent : Nat → Nat → Nat

/-- Monitor nanoseconds in a second, and in a millisecond. -/
def nsPerSecond : Nat := 1000000000
def nsPerMs : Nat := 1000000

/-- A gate of the oscillator monitor is 100 ms of monitor time (R4). -/
def gateNs : Nat := 100000000

/-- A gate's count is in range from here (R4). -/
def gateLow : Nat := 999000

/-- ... to here (R4). -/
def gateHigh : Nat := 1001000

/-- An interval of this much monitor time without an LO_IN edge is a gap (R4). -/
def gapNs : Nat := 10000

/-- Good gates in a row that make the judgement GOOD again (R4). -/
def goodGates : Nat := 10

/-- Each TA activity timer is 3 s of monitor time (R35). -/
def taActivityNs : Nat := 3 * nsPerSecond

/-- Each FQ activity timer is 1 s of monitor time (R40). -/
def fqActivityNs : Nat := nsPerSecond

/-- More than 2 ms of monitor time between two label bytes cuts the message short (R29). -/
def labelGapNs : Nat := 2 * nsPerMs

/-- The label window opens 10 ms after the period edge (R29) and closes after 900 ms (R30). -/
def labelOpenPs : Nat := 10 * psPerMs
def labelClosePs : Nat := 900 * psPerMs

/-- The least width in range of a TA period, 1 µs (R28). -/
def widthLowPs : Nat := 1000000

/-- The budget of a window, and the items a drop may carry in one (R120). -/
def windowBudget : Nat := 24
def dropItems : Nat := 4

/-- The EMIT_OVERRUN hold is 10 s of monitor time (R121). -/
def overrunHoldNs : Nat := 10 * nsPerSecond

/-- One byte of a drop message takes 10 ns of counter time (R132). -/
def bytePs : Nat := 10000

/-- Saturation of the 32-bit and 16-bit counts (R47, R105, R128, R155). -/
def max32 : Nat := 4294967295
def max16 : Nat := 65535

/-- Sizes of the lists of the part (R88, R168, R170, R144). -/
def historyMax : Nat := 64
def noticeMax : Nat := 16
def shortMax : Nat := 8
def longMax : Nat := 2
def replyMax : Nat := 4
def ringMax : Nat := 8

/-- The greatest site minute index (R88). -/
def maxMinuteIndex : Int := 2147483647

/-- Warm-up periods selected by WARM_SEL[1:0], in seconds (R5). -/
def warmupSeconds (sel : Fin 4) : Nat :=
  match sel with
  | 0 => 0
  | 1 => 60
  | 2 => 300
  | 3 => 900

end Sys2Proof.Config
end

