-- ==== Sys2Proof/Syntax.lean ====
section
/-! DEFINITION. The commands of the FW2840: one constructor for each row of spec/opcode_table.json. A row that names
an event coming from outside the part carries the time that passed before it; a row that names a request carries the
port whose oldest request is executed (R176): the request's own bytes wait in that port's queue. -/

namespace Sys2Proof

/-- How long after the command before it an outside event comes: by the counter's own running, in ps of counter
time, and by the monitor oscillator, in ns of monitor time (00_scope.md, "TWO TIME BASES"). Model's own operand,
DESIGN CHOICE, notes/assumptions/1.md. -/
structure Elapsed where
  counter : Nat
  monitor : Nat
  deriving DecidableEq, Repr

/-- No time between two commands. -/
def Elapsed.none : Elapsed := { counter := 0, monitor := 0 }

/-- The commands, in the table's order. -/
inductive Instr where
  /-- RESET_RELEASE (R6). -/
  | resetRelease (authSel : Fin 8) (warmSel : Fin 4)
  /-- COUNTER_SECOND_BOUNDARY (R1). -/
  | counterSecondBoundary
  /-- COUNTER_MILLISECOND_BOUNDARY (R117). -/
  | counterMillisecondBoundary
  /-- MONITOR_GATE_END (R4). -/
  | monitorGateEnd (edges : Nat)
  /-- LO_IN_GAP (R4). -/
  | loInGap (e : Elapsed)
  /-- WARMUP_EXPIRY (R8). -/
  | warmupExpiry
  /-- TA_ACTIVE_EDGE (R27). -/
  | taActiveEdge (e : Elapsed) (i : InputIx)
  /-- TA_TRAILING_EDGE (R28). -/
  | taTrailingEdge (e : Elapsed) (i : InputIx)
  /-- TA_LABEL_COMPLETE (R29). -/
  | taLabelComplete (e : Elapsed) (i : InputIx) (bytes : List Byte)
  /-- LABEL_BYTE_GAP (R29). -/
  | labelByteGap (i : InputIx)
  /-- LABEL_FRAMING_ERROR (R29). -/
  | labelFramingError (e : Elapsed) (i : InputIx)
  /-- TA_LABEL_WINDOW_CLOSE (R30). -/
  | taLabelWindowClose (i : InputIx)
  /-- TA_GLITCH_GUARD_END (R27). -/
  | taGlitchGuardEnd (i : InputIx)
  /-- TA_ACTIVITY_TIMEOUT (R35). -/
  | taActivityTimeout (i : InputIx)
  /-- FQ_EDGE (R36). -/
  | fqEdge (e : Elapsed) (i : InputIx) (n : Nat)
  /-- FQ_ACTIVITY_TIMEOUT (R40). -/
  | fqActivityTimeout (i : InputIx)
  /-- OF_ACTIVITY_TIMEOUT (R43). -/
  | ofActivityTimeout (p : Port)
  /-- HOLDOFF_EXPIRY (R54). -/
  | holdoffExpiry (slot : Slot)
  /-- QUALIFIED_HOUR (R54). -/
  | qualifiedHour (slot : Slot)
  /-- REVERTIVE_WAIT_EXPIRY (R60). -/
  | revertiveWaitExpiry (slot : Slot)
  /-- HARD_INSTANCE_RELEASE (R123). -/
  | hardInstanceRelease (n : EntryIx)
  /-- PULSE_END (R124). -/
  | pulseEnd (x : Px)
  /-- EMIT_OVERRUN_HOLD_EXPIRY (R121). -/
  | emitOverrunHoldExpiry
  /-- SOFT_ITEM_RELEASE (R133). -/
  | softItemRelease (d : DropIx)
  /-- TURN_OUT (R134). -/
  | turnOut (d : DropIx)
  /-- TURN_LIMIT_EXPIRY (R134). -/
  | turnLimitExpiry (d : DropIx)
  /-- DROP_MESSAGE_COMPLETE (R193). -/
  | dropMessageComplete (e : Elapsed) (d : DropIx) (bytes : List Byte)
  /-- DROP_CONTENTION (R135). -/
  | dropContention (e : Elapsed) (d : DropIx)
  /-- DROP_LINE_IDLE (R134). -/
  | dropLineIdle (e : Elapsed) (d : DropIx)
  /-- OFFER_TIMER_EXPIRY (R136). -/
  | offerTimerExpiry (d : DropIx)
  /-- PROBE_TIMER_EXPIRY (R140). -/
  | probeTimerExpiry (d : DropIx)
  /-- ANNOUNCEMENT_TIMER_EXPIRY (R146). -/
  | announcementTimerExpiry (d : DropIx)
  /-- ALARM_PERSISTENCE_EXPIRY (R158). -/
  | alarmPersistenceExpiry (a : AlarmIx)
  /-- PEEK (R173). -/
  | peek (e : Elapsed) (p : Port)
  /-- PUSH (R174). -/
  | push (e : Elapsed) (p : Port)
  /-- REQUEST_ARRIVAL (R174). -/
  | requestArrival (e : Elapsed) (p : Port) (code : Byte) (tag : BitVec 16) (body : List Byte)
  /-- TRANSACTION_CUT_SHORT (R174). -/
  | transactionCutShort (e : Elapsed) (p : Port)
  /-- PULL (R175). -/
  | pull (e : Elapsed) (p : Port)
  /-- SEGMENT_PULLED (R175). -/
  | segmentPulled (e : Elapsed) (p : Port)
  /-- UNKNOWN_TRANSACTION_TYPE (R171). -/
  | unknownTransactionType (e : Elapsed) (p : Port)
  /-- SILENCE_TIMER_EXPIRY (R180). -/
  | silenceTimerExpiry (p : Port)
  /-- TIME_READ (R24). -/
  | timeRead (p : Port)
  /-- STATE_READ (R24). -/
  | stateRead (p : Port)
  /-- TIME_STEP (R17). -/
  | timeStep (p : Port)
  /-- LEAP_SET (R22). -/
  | leapSet (p : Port)
  /-- OFFSET_REPORT (R41). -/
  | offsetReport (p : Port)
  /-- REF_SET (R48). -/
  | refSet (p : Port)
  /-- REF_READ (R70). -/
  | refRead (p : Port)
  /-- SELECT_SET (R63). -/
  | selectSet (p : Port)
  /-- SELECT_FORCE (R63). -/
  | selectForce (p : Port)
  /-- LOOP_SET (R84). -/
  | loopSet (p : Port)
  /-- HISTORY_READ (R90). -/
  | historyRead (p : Port)
  /-- HISTORY_RESTORE (R91). -/
  | historyRestore (p : Port)
  /-- HOLDOVER_FORCE (R100). -/
  | holdoverForce (p : Port)
  /-- OUTPUT_ASSIGN (R109). -/
  | outputAssign (p : Port)
  /-- ENTRY_DEFINE (R111). -/
  | entryDefine (p : Port)
  /-- ENTRY_CHANGE (R112). -/
  | entryChange (p : Port)
  /-- ENTRY_START (R113). -/
  | entryStart (p : Port)
  /-- ENTRY_STOP (R114). -/
  | entryStop (p : Port)
  /-- ENTRY_FREE (R116). -/
  | entryFree (p : Port)
  /-- ENTRY_READ (R127). -/
  | entryRead (p : Port)
  /-- PROFILE_SET (R130). -/
  | profileSet (p : Port)
  /-- DROP_SET (R131). -/
  | dropSet (p : Port)
  /-- DROP_READ (R154). -/
  | dropRead (p : Port)
  /-- ALARM_SEVERITY (R161). -/
  | alarmSeverity (p : Port)
  /-- ALARM_READ (R166). -/
  | alarmRead (p : Port)
  /-- ALARM_SEEN (R164). -/
  | alarmSeen (p : Port)
  /-- ALARM_MASK (R163). -/
  | alarmMask (p : Port)
  /-- NOTICE_READ (R169). -/
  | noticeRead (p : Port)
  /-- AUTH_TAKE (R185). -/
  | authTake (p : Port)
  /-- AUTH_RELEASE (R186). -/
  | authRelease (p : Port)
  /-- PORT_SET (R179). -/
  | portSet (p : Port)
  /-- PORT_RESET (R182). -/
  | portReset (p : Port)
  /-- UNKNOWN_REQUEST (R177). -/
  | unknownRequest (p : Port)
  /-- LABEL_START_BYTE (R192). -/
  | labelStartByte (e : Elapsed) (i : InputIx)
  /-- UNIT_MESSAGE_FIRST_BYTE (R142). -/
  | unitMessageFirstByte (e : Elapsed) (d : DropIx)
  deriving DecidableEq, Repr

end Sys2Proof
end

