-- ==== Sys2Proof/WellFormed.lean ====
section
/-! DEFINITION. The checks on a command that its types do not already make: the bounds that the formats give the
operands that are lists or counts. A command that fails them is not one the outside can send. -/

namespace Sys2Proof

/-- A label message is 20 bytes (R192), so at most 20 bytes come at once, and at least one. -/
def Instr.labelBytesOk (bytes : List Byte) : Bool :=
  0 < bytes.length && bytes.length ≤ 20

/-- A request header holds its body's length in 16 bits (10, "Headers"). -/
def Instr.bodyOk (body : List Byte) : Bool :=
  body.length ≤ Config.max16

/-- The command is one that the outside can send. -/
def Instr.wellFormed : Instr → Bool
  | .resetRelease _ _ => true
  | .counterSecondBoundary => true
  | .counterMillisecondBoundary => true
  | .monitorGateEnd _ => true
  | .loInGap _ => true
  | .warmupExpiry => true
  | .taActiveEdge _ _ => true
  | .taTrailingEdge _ _ => true
  | .taLabelComplete _ _ bytes => Instr.labelBytesOk bytes
  | .labelByteGap _ => true
  | .labelFramingError _ _ => true
  | .taLabelWindowClose _ => true
  | .taGlitchGuardEnd _ => true
  | .taActivityTimeout _ => true
  | .fqEdge _ _ n => 0 < n
  | .fqActivityTimeout _ => true
  | .ofActivityTimeout _ => true
  | .holdoffExpiry _ => true
  | .qualifiedHour _ => true
  | .revertiveWaitExpiry _ => true
  | .hardInstanceRelease _ => true
  | .pulseEnd _ => true
  | .emitOverrunHoldExpiry => true
  | .softItemRelease _ => true
  | .turnOut _ => true
  | .turnLimitExpiry _ => true
  | .dropMessageComplete _ _ bytes => 0 < bytes.length
  | .dropContention _ _ => true
  | .dropLineIdle _ _ => true
  | .offerTimerExpiry _ => true
  | .probeTimerExpiry _ => true
  | .announcementTimerExpiry _ => true
  | .alarmPersistenceExpiry _ => true
  | .peek _ _ => true
  | .push _ _ => true
  | .requestArrival _ _ _ _ body => Instr.bodyOk body
  | .transactionCutShort _ _ => true
  | .pull _ _ => true
  | .segmentPulled _ _ => true
  | .unknownTransactionType _ _ => true
  | .silenceTimerExpiry _ => true
  | .timeRead _ => true
  | .stateRead _ => true
  | .timeStep _ => true
  | .leapSet _ => true
  | .offsetReport _ => true
  | .refSet _ => true
  | .refRead _ => true
  | .selectSet _ => true
  | .selectForce _ => true
  | .loopSet _ => true
  | .historyRead _ => true
  | .historyRestore _ => true
  | .holdoverForce _ => true
  | .outputAssign _ => true
  | .entryDefine _ => true
  | .entryChange _ => true
  | .entryStart _ => true
  | .entryStop _ => true
  | .entryFree _ => true
  | .entryRead _ => true
  | .profileSet _ => true
  | .dropSet _ => true
  | .dropRead _ => true
  | .alarmSeverity _ => true
  | .alarmRead _ => true
  | .alarmSeen _ => true
  | .alarmMask _ => true
  | .noticeRead _ => true
  | .authTake _ => true
  | .authRelease _ => true
  | .portSet _ => true
  | .portReset _ => true
  | .unknownRequest _ => true
  | .labelStartByte _ _ => true
  | .unitMessageFirstByte _ _ => true

end Sys2Proof
end

