-- ==== Sys2Proof/Machine/State.lean ====
section
/-! DEFINITION. The state of the FW2840, block by block (00_scope.md, "Blocks and how they are joined"), as plain
data, and its value after reset. Timers counted in monitor time are held as the instant of monitor time at which
they run out (or began), so that their count is the distance from `OscMonitor.now`. -/

namespace Sys2Proof.Machine

/-! ### Names -/

/-- The timebase states (R6). -/
inductive TbState where
  | warmup | freerun | acquiring | locked | holdover | assisted | fault
  deriving DecidableEq, Repr

/-- Time quality grades, best first; also squelch levels (R15, R105). -/
inductive Grade where
  | lock | hold1 | hold2 | hold3 | hold4 | free
  deriving DecidableEq, Repr

/-- The mark of a holdover episode (R7). -/
inductive EpisodeMark where
  | untraced | traced
  deriving DecidableEq, Repr

/-- Where a pending step came from (R6). -/
inductive StepOrigin where
  | automatic | manual | label
  deriving DecidableEq, Repr

/-- The oscillator monitor's judgement of LO_IN (R4). -/
inductive Judgement where
  | good | lost
  deriving DecidableEq, Repr

/-- The step policies (R74). -/
inductive StepPolicy where
  | always | firstOnly | never
  deriving DecidableEq, Repr

/-- States of a reference record (R47). -/
inductive RefState where
  | disabled | absent | qualifying | qualified | holdoff
  deriving DecidableEq, Repr

/-- Selection modes (R59, R60). -/
inductive SelectMode where
  | nonRevertive | revertive
  deriving DecidableEq, Repr

/-- Receiver status of a TA label (R29). -/
inductive ReceiverStatus where
  | tracking | degraded | noFix
  deriving DecidableEq, Repr

/-- Leap field of a TA label (R29). -/
inductive LeapField where
  | none | plus | minus
  deriving DecidableEq, Repr

/-- Active edge of a TA input (R26). -/
inductive ActiveEdge where
  | rising | falling
  deriving DecidableEq, Repr

/-- Causes for which a measurement period is BAD (R32, R39, R42). -/
inductive Cause where
  | period | width | glitch | labelMissing | labelCheck | labelSecond | noFix | jump
  | freqWindow | countStep | noise | quality
  deriving DecidableEq, Repr

/-- Stages of an FQ input (R36): activity lost; waiting for a whole second; in an opening second; holding an origin. -/
inductive FqStage where
  | lost | waiting | opening | running
  deriving DecidableEq, Repr

/-- States of an emission entry that is not FREE (R105). -/
inductive EntryState where
  | idle | waiting | running | ended
  deriving DecidableEq, Repr

/-- Kinds of emission entry (R105). -/
inductive EntryKind where
  | mark | pulse
  deriving DecidableEq, Repr

/-- An output: a radio drop or a pulse output (R109). -/
inductive Output where
  | drop (d : DropIx)
  | px (x : Px)
  deriving DecidableEq, Repr

/-- States of a drop (R128). -/
inductive DropState where
  | disabled | seeking | calibrating | serving
  deriving DecidableEq, Repr

/-- Status that a radio unit reports (R128). -/
inductive UnitStatus where
  | ok | syncLost | bufferFault | restarting
  deriving DecidableEq, Repr

/-- Causes of an exchange failure (R143). -/
inductive FailCause where
  | noEcho | check | range | wrongReply | contention
  deriving DecidableEq, Repr

/-- States of an alarm record (R155). -/
inductive AlarmState where
  | clear | raising | active | clearing
  deriving DecidableEq, Repr

/-- Severities (R155). -/
inductive Severity where
  | critical | major | minor | warning | none
  deriving DecidableEq, Repr

/-- The nine notice kinds (R167). -/
inductive NoticeKind where
  | alarmRaised | alarmCleared | authGranted | refSwitched | timebaseState | timeStepped | dropState
  | dropDelayJump | entryEnded
  deriving DecidableEq, Repr

/-- Reply statuses (R177). -/
inductive Status where
  | done | clamped | notHolder | notOwner | wrongState | badValue | tableFull | inUse | busy | unknownRequest | malformed
  deriving DecidableEq, Repr

/-- How many counter millisecond boundaries have been reached whose commands have not been taken, and how many of the
oldest of them have nothing left to plan, since a step application or the return from FAULT has planned (R125). Model's
own, notes/assumptions/4.md. -/
structure MsOwed where
  boundaries : Nat
  planned : Nat
  deriving DecidableEq, Repr

/-! ### Time -/

/-- A counter reading: seconds, picoseconds within the second, fraction in 2^-16 ps (R1). -/
structure Reading where
  sec : Nat
  ps : Nat
  frac : Nat
  deriving DecidableEq, Repr

/-- The oscillator monitor (R4, R5). `now` is monitor time in ns since the release of reset; `warmup` is the instant
of monitor time at which the warm-up timer runs out, absent when it is stopped. The edges of the running gate are
those of the cycles taken one by one, `gateEdges`, and those of the time that commands have let pass, `passedEdges`;
`aheadEdges` are those of time let pass beyond the gate's end (notes/assumptions/41.md). `quiet` is the monitor time
that has passed since the last edge, as far as it has passed without the next cycle (notes/assumptions/3.md). -/
structure OscMonitor where
  now : Nat
  judgement : Judgement
  goodRun : Nat
  gateEnd : Nat
  gateEdges : Nat
  passedEdges : Nat
  aheadEdges : Nat
  quiet : Nat
  gapInGate : Bool
  warmup : Option Nat
  deriving DecidableEq, Repr

/-- The straps as sampled at the last release of reset (R5, R184). -/
structure Straps where
  authSel : Fin 8
  warmSel : Fin 4
  deriving DecidableEq, Repr

/-! ### Timebase controller, discipline loop, holdover unit -/

/-- The pending step (R6, R17): amount in ps, origin, due second. -/
structure PendingStep where
  amount : Int
  origin : StepOrigin
  due : Nat
  deriving DecidableEq, Repr

/-- The leap record (R21). -/
structure Leap where
  effect : Nat
  offset : Int
  deriving DecidableEq, Repr

/-- The last adopted label (R23). -/
structure AdoptedLabel where
  offset : Int
  leap : LeapField
  deriving DecidableEq, Repr

/-- The step blank (R19): the counter instant it begins at, in ps, and its length in ps. -/
structure Blank where
  start : Nat
  length : Nat
  deriving DecidableEq, Repr

/-- The timebase controller's record (R6), with the steer value in force (R2), the site minute index (R3) and the
blank of the last step (R19). -/
structure Timebase where
  state : TbState
  grade : Grade
  traced : Bool
  episode : Option EpisodeMark
  heldGrade : Option Grade
  force : Bool
  pendingStep : Option PendingStep
  utcOffset : Int
  leap : Option Leap
  labelAdoption : Bool
  lastLabel : Option AdoptedLabel
  yFree : Int
  steer : Int
  minuteIndex : Int
  blank : Option Blank
  deriving DecidableEq, Repr

/-- The loop parameters (R71). -/
structure LoopParams where
  trackingClass : Nat
  assistClass : Nat
  yMax : Int
  stepThreshold : Int
  stepPolicy : StepPolicy
  lockThreshold : Nat
  lossThreshold : Nat
  deriving DecidableEq, Repr

/-- The holdover parameters (R103). -/
structure HoldParams where
  guardRecords : Nat
  recordCount : Nat
  spreadFloor : Int
  drift : Bool
  driftLimit : Int
  lockNoise : Nat
  aging : Int
  assistUncertainty : Int
  t1 : Nat
  t2 : Nat
  t3 : Nat
  deriving DecidableEq, Repr

/-- The discipline loop's record (R71). -/
structure Loop where
  cls : Nat
  integ : Int
  y : Int
  freqLimit : Bool
  lockRun : Nat
  lossRun : Nat
  minuteHeld : Bool
  firstAcq : Bool
  lastU : Option Int
  phi0 : Option Int
  deriving DecidableEq, Repr

/-- A minute record of the frequency history (R86). -/
structure MinuteRecord where
  index : Int
  mean : Int
  least : Int
  greatest : Int
  samples : Nat
  slot : Nat
  cls : Nat
  disturbed : Bool
  restored : Bool
  deriving DecidableEq, Repr

/-- The accumulator of the running minute (R87); `cls` is the loop class as the last sample saw it (R86). -/
structure Accumulator where
  locked : Bool
  sum : Int
  count : Nat
  least : Option Int
  greatest : Option Int
  disturbed : Bool
  carried : Bool
  cls : Nat
  deriving DecidableEq, Repr

/-- The episode record (R94, R101); `closed` holds the cause of the close, absent while the record is active. -/
structure EpisodeRecord where
  closed : Option TbState
  opening : Reading
  openingIndex : Int
  c : Nat
  yH : Int
  drift : Int
  sigma : Int
  te0 : Int
  aging : Int
  assistUncertainty : Int
  mH : Nat
  mA : Nat
  hee : Int
  deriving DecidableEq, Repr

/-- The holdover unit (R86 to R94). -/
structure Holdover where
  history : List MinuteRecord
  acc : Accumulator
  staging : List MinuteRecord
  episode : Option EpisodeRecord
  deriving DecidableEq, Repr

/-! ### Reference front end -/

/-- Measurement parameters of a TA slot (R26): compensation in ps, window in µs, jump limit in ns. -/
structure TaParams where
  edge : ActiveEdge
  compensation : Int
  window : Nat
  jumpLimit : Nat
  deriving DecidableEq, Repr

/-- What a label whose check passes carries (R29). -/
structure TaLabel where
  sec : Nat
  status : ReceiverStatus
  quality : Nat
  utc : Int
  leap : LeapField
  leapSec : Nat
  deriving DecidableEq, Repr

/-- The label of a TA period: one whose check failed, or one that passed (R29). -/
inductive HeldLabel where
  | failed
  | passed (l : TaLabel)
  deriving DecidableEq, Repr

/-- The last TA period: its timestamp in ps, its marks, its width in ps once the trailing edge has come, its label,
and whether it has been judged (R27 to R31). It stays held until its glitch guard ends. -/
structure TaPeriod where
  edge : Nat
  straddles : Bool
  glitch : Bool
  width : Option Nat
  label : Option HeldLabel
  judged : Bool
  deriving DecidableEq, Repr

/-- One TA input (R26 to R35, R192). `timer` and `rxDeadline` are instants of monitor time; `rx` holds the bytes of
the label message being assembled, after its start byte. -/
structure TaInput where
  params : TaParams
  active : Bool
  timer : Option Nat
  period : Option TaPeriod
  prevEdge : Option Nat
  carried : Bool
  jumpRef : Option Int
  jumpRun : Nat
  stray : Nat
  rx : Option (List Byte)
  rxDeadline : Option Nat
  deriving DecidableEq, Repr

/-- Measurement parameters of an FQ slot (R26): Hz and ppt. -/
structure FqParams where
  nominal : Nat
  accept : Int
  deriving DecidableEq, Repr

/-- One FQ input (R36 to R40). `total` counts the edges and `periods` the measurement periods since the origin;
`phis` is the φ history, oldest first; `skipCount` is set by a step application (R39); `renominal` by a change of the
nominal frequency until a new origin is taken (R82). -/
structure FqInput where
  params : FqParams
  active : Bool
  timer : Option Nat
  stage : FqStage
  count : Nat
  lastEdge : Option Nat
  origin : Option Nat
  total : Nat
  periods : Nat
  prevCount : Option Nat
  phis : List Int
  skipCount : Bool
  renominal : Bool
  deriving DecidableEq, Repr

/-- Measurement parameters of an OF slot (R26): ps and quality code. -/
structure OfParams where
  noiseLimit : Int
  minQuality : Nat
  deriving DecidableEq, Repr

/-- One OF slot's activity (R43). -/
structure OfSlot where
  params : OfParams
  active : Bool
  timer : Option Nat
  deriving DecidableEq, Repr

/-- A measurement (R25). It is GOOD when `causes` is empty. Fields that do not belong to the slot's kind are absent. -/
structure Measurement where
  slot : Slot
  time : Reading
  causes : List Cause
  e : Option Int
  u : Option Int
  labelSec : Option Nat
  quality : Option Nat
  status : Option ReceiverStatus
  utc : Option Int
  leap : Option LeapField
  leapSec : Option Nat
  straddles : Bool
  phi : Option Int
  freq : Option Int
  count : Option Nat
  noise : Option Nat
  interval : Option Nat
  deriving DecidableEq, Repr

/-! ### Qualifier and selector -/

/-- A pairing sample (R55): a second and an e. -/
structure PairSample where
  sec : Nat
  e : Int
  deriving DecidableEq, Repr

/-- A label sample (R67): a second and a label second. -/
structure LabelSample where
  sec : Nat
  label : Nat
  deriving DecidableEq, Repr

/-- A reference record (R47). `holdoff` is the instant of monitor time at which the hold-off timer runs out;
`qualifiedSince` and `candidateSince` are those from which the qualified and candidate times count. `pairResult` is
PASS when true. -/
structure RefRecord where
  enabled : Bool
  state : RefState
  score : Nat
  streak : Nat
  holdoff : Option Nat
  k : Nat
  qualifiedSince : Option Nat
  priority : Nat
  partner : Option Slot
  pairWindow : Nat
  pairSample : Option PairSample
  pairResult : Option Bool
  labelSample : Option LabelSample
  rankQuality : Nat
  candidateSince : Option Nat
  qualifyTime : Nat
  threshold : Nat
  latest : Option Measurement
  goodCount : Nat
  badCount : Nat
  conflictCount : Nat
  deriving DecidableEq, Repr

/-- The label conflict run and flag of an unordered pair of records, and the second of its latest comparison, since one
is counted for each shared second (R67). -/
structure PairConflict where
  run : Nat
  flag : Bool
  compared : Option Nat
  deriving DecidableEq, Repr

/-- The selector (R58 to R63): wait-to-restore in seconds. -/
structure Selector where
  phase : Option Slot
  assist : Option Slot
  mode : SelectMode
  force : Option Slot
  wtr : Nat
  deriving DecidableEq, Repr

/-! ### Emission scheduler -/

/-- The link of an entry (R105): an anchor with its period in µs, offset in ns and optional start and stop seconds,
or a relative with its anchor, signed offset in ns, divider and divider phase. -/
inductive Link where
  | anchor (period offset : Nat) (start stop : Option Nat)
  | relative (anchor : EntryIx) (offset : Int) (divider phase : Nat)
  deriving DecidableEq, Repr

/-- The fields that ENTRY_DEFINE and ENTRY_CHANGE carry (R105, R111). -/
structure EntryFields where
  kind : EntryKind
  target : Output
  link : Link
  width : Option Nat
  squelch : Option Grade
  deriving DecidableEq, Repr

/-- An emission entry that is not FREE (R105). -/
structure Entry where
  state : EntryState
  owner : Port
  fields : EntryFields
  emitted : Nat
  skipped : Nat
  suppressed : Nat
  deriving DecidableEq, Repr

/-- A drop profile (R129), in the units of its table. -/
structure Profile where
  squelch : Grade
  announceInterval : Nat
  fullEvery : Nat
  asymmetry : Int
  fixedDelay : Int
  tolerance : Nat
  maxRtt : Int
  probeInterval : Nat
  offerInterval : Nat
  turnLimit : Nat
  deriving DecidableEq, Repr

/-- A pulse output (R109, R124): its active period ends at the counter instant `until_`, absent when negated. -/
structure PulseOut where
  owner : Option Port
  compensation : Nat
  until_ : Option Nat
  deriving DecidableEq, Repr

/-- A hard instance placed in a plan and not yet released (R117, R121): instants in ps, with the squelch level and the
width (ns) that its window was planned with. -/
structure HardItem where
  entry : EntryIx
  target : Output
  due : Nat
  transmit : Nat
  window : Nat
  squelch : Grade
  width : Nat
  deriving DecidableEq, Repr

/-- The contents of a time announcement, fixed at its placement (R149). -/
structure Announcement where
  full : Bool
  stampSec : Nat
  stampNs : Nat
  grade : Grade
  utc : Int
  leapPending : Bool
  stepFlag : Bool
  urgent : Bool
  deriving DecidableEq, Repr

/-- What a soft item carries (R120). -/
inductive SoftKind where
  | announce (a : Announcement)
  | probe
  | offer
  deriving DecidableEq, Repr

/-- A soft item placed in a plan and not yet released (R132). -/
structure SoftItem where
  drop : DropIx
  kind : SoftKind
  transmit : Nat
  window : Nat
  deriving DecidableEq, Repr

/-- The emission scheduler beside its tables (R118 to R127). `overrunHold` is the instant of monitor time at which the
EMIT_OVERRUN hold runs out. The units spent and the items of each drop are those of the window that runs and of the one
after it (R120). -/
structure Scheduler where
  hardPlan : List HardItem
  softPlan : List SoftItem
  dropHorizon : Vector Nat 8
  pxHorizon : Vector Nat 6
  pointer : DropIx
  overrunHold : Option Nat
  gradeUsed : Grade
  unitsNow : Nat
  unitsNext : Nat
  itemsNow : Vector Nat 8
  itemsNext : Vector Nat 8
  squelched : Bool
  deriving DecidableEq, Repr

/-! ### Drop controllers -/

/-- The message that handed the turn out (R134). -/
inductive TurnMessage where
  | probe | offer
  deriving DecidableEq, Repr

/-- The turn of a drop line (R128, R134). An exchange keeps the turn limit (ps) and maximum round trip (ps) it began
with (R130). Instants in ps; t1 is the timestamp of the PROBE's first byte (R142). -/
inductive Turn where
  | isIn
  | out (start : Nat) (message : TurnMessage) (limit : Nat) (t1 : Nat) (maxRtt : Int)
  deriving DecidableEq, Repr

/-- What the chip is putting on a drop line, or last put there, with what a contention that stops it gives back
(R135): for a PROBE or OFFER the due mark, its since and the timer as they stood; the count as it stood. -/
inductive SentKind where
  | mark
  | announce (a : Announcement) (prior : Nat)
  | probe (dueSince : Option Reading) (timer : Option Nat) (prior : Nat)
  | offer (timer : Option Nat) (prior : Nat)
  deriving DecidableEq, Repr

/-- A message put on a drop line: its bytes, the counter instant of its first byte in ps, its line time in ps, and,
for a PROBE or OFFER, the turn limit (ps) and maximum round trip (ps) of the exchange that it begins (R130). -/
structure LineMessage where
  kind : SentKind
  bytes : List Byte
  start : Nat
  length : Nat
  limit : Nat
  maxRtt : Int
  deriving DecidableEq, Repr

/-- A drop record with its counts (R128, R154). Delays in ps, timers in counter milliseconds. `line` is the message on
the line; `lineActive` says that the unit is driving the line (R134, R135); `arriving` holds t4 of a unit message whose
first byte came while the turn was OUT (R142). -/
structure DropRec where
  owner : Option Port
  enabled : Bool
  state : DropState
  profile : ProfileIx
  expected : Option Nat
  joined : Option Nat
  refused : Option Nat
  compact : Bool
  ring : List Int
  delay : Int
  failRun : Nat
  turn : Turn
  backlog : Nat
  placed : Nat
  lastFullUpper : Option Nat
  lastFullOffset : Option Int
  annCounter : Nat
  stepFlag : Bool
  annTimer : Option Nat
  probeTimer : Option Nat
  offerTimer : Option Nat
  probeDue : Bool
  offerDue : Bool
  probeDueSince : Option Reading
  unitStatus : Option UnitStatus
  newestResult : Option Nat
  offersSent : Nat
  joinsAccepted : Nat
  joinsRefused : Nat
  probesSent : Nat
  validExchanges : Nat
  failNoEcho : Nat
  failCheck : Nat
  failRange : Nat
  failWrongReply : Nat
  failContention : Nat
  contentions : Nat
  aborted : Nat
  fullSent : Nat
  shortSent : Nat
  unsent : Nat
  line : Option LineMessage
  lineActive : Bool
  arriving : Option Nat
  deriving DecidableEq, Repr

/-! ### Alarm unit -/

/-- An alarm record (R155). Persistences in seconds; `timer` is an instant of monitor time. -/
structure AlarmRec where
  condition : Bool
  state : AlarmState
  severity : Severity
  raisePersistence : Nat
  clearPersistence : Nat
  timer : Option Nat
  raiseCount : Nat
  lastRaise : Option Reading
  lastClear : Option Reading
  deriving DecidableEq, Repr

/-- A notice (R167). -/
structure Notice where
  kind : NoticeKind
  sec : Nat
  ns : Nat
  subject : Nat
  old : Int
  new : Int
  deriving DecidableEq, Repr

/-- A port's view of the alarms and its notice queue (R162, R168). Bit n of a mask stands for record or kind n. -/
structure View where
  mask : BitVec 32
  unseen : BitVec 32
  lineEnable : Bool
  eventMask : BitVec 9
  notices : List Notice
  overflow : Bool
  deriving DecidableEq, Repr

/-! ### Port controllers and authority unit -/

/-- A request in a queue (R170, R174), with its arrival order. -/
structure Request where
  code : Byte
  tag : BitVec 16
  body : List Byte
  order : Nat
  deriving DecidableEq, Repr

/-- A reply in the reply queue (R178). -/
structure Reply where
  tag : BitVec 16
  code : Byte
  status : Status
  body : List Byte
  deriving DecidableEq, Repr

/-- The reply in progress (R170): its segment size and the bytes already pulled. -/
structure Progress where
  segment : Nat
  pulled : Nat
  deriving DecidableEq, Repr

/-- The transaction under way on a port: none, a PUSH whose request has not arrived, or a PULL sending a segment of a
reply begun with the given segment size (R174, R175). -/
inductive Transaction where
  | idle
  | pushing
  | pulling (segment length : Nat)
  deriving DecidableEq, Repr

/-- A port record (R170). `silence` is the instant of monitor time at which the silence timer runs out, absent while
the port is OFFLINE; `silenceTime` in seconds. `dataOut` holds the bytes the chip returns in the last transaction. -/
structure PortRec where
  online : Bool
  shortQueue : List Request
  longQueue : List Request
  nextOrder : Nat
  replies : List Reply
  progress : Option Progress
  overrun : Bool
  silence : Option Nat
  maxSegment : Nat
  silenceTime : Nat
  transaction : Transaction
  dataOut : List Byte
  deriving DecidableEq, Repr

/-- An entry of the wait list (R184). -/
structure Waiter where
  port : Port
  urgency : Nat
  deriving DecidableEq, Repr

/-! ### The whole -/

/-- The part, and the queue of the commands that wait, first in first out. `secondOwed` counts the counter second
boundaries reached whose commands have not been taken (notes/assumptions/4.md). -/
structure State where
  counter : Reading
  residue : Nat
  secondOwed : Nat
  msOwed : MsOwed
  loCycles : Nat
  osc : OscMonitor
  straps : Straps
  tb : Timebase
  lp : LoopParams
  hp : HoldParams
  loop : Loop
  hold : Holdover
  ta : Vector TaInput 2
  fq : Vector FqInput 2
  ofs : Vector OfSlot 4
  aligned : Bool
  refs : Vector RefRecord 8
  conflicts : Vector PairConflict 64
  sel : Selector
  entries : Vector (Option Entry) 64
  profiles : Vector Profile 8
  px : Vector PulseOut 6
  sched : Scheduler
  drops : Vector DropRec 8
  alarms : Vector AlarmRec 32
  views : Vector View 4
  ports : Vector PortRec 4
  holder : Option Port
  waitList : List Waiter
  pending : List Instr
  deriving DecidableEq, Repr

/-- Reasons for a fault: none. Every command of the part has an effect that the manual gives, and entering the
timebase state FAULT is such an effect (R13); so no command stops the part. Safe: nothing is shut out. -/
inductive Fault where
  deriving DecidableEq, Repr

/-- Reasons for a refusal. -/
inductive Refusal where
  /-- An arm of exec whose command has no meaning yet; raised by exec alone, and by no arm now. Safe: it stops. -/
  | notModelled (mnemonic : String)
  deriving DecidableEq, Repr

/-! ### Reset values -/

/-- The oscillator monitor at the release of reset (R4, R5). -/
def OscMonitor.powerOn (warmSel : Fin 4) : OscMonitor :=
  { now := 0, judgement := .good, goodRun := 0, gateEnd := Config.gateNs, gateEdges := 0, passedEdges := 0,
    aheadEdges := 0, quiet := 0, gapInGate := false,
    warmup := some (Config.warmupSeconds warmSel * Config.nsPerSecond) }

/-- R6. -/
def Timebase.powerOn : Timebase :=
  { state := .warmup, grade := .free, traced := false, episode := none, heldGrade := none, force := false,
    pendingStep := none, utcOffset := 0, leap := none, labelAdoption := true, lastLabel := none, yFree := 0,
    steer := 0, minuteIndex := 0, blank := none }

/-- R71. -/
def LoopParams.powerOn : LoopParams :=
  { trackingClass := 3, assistClass := 5, yMax := 10000000, stepThreshold := 1000000, stepPolicy := .always,
    lockThreshold := 100, lossThreshold := 1000 }

/-- R103. -/
def HoldParams.powerOn : HoldParams :=
  { guardRecords := 2, recordCount := 16, spreadFloor := 50, drift := true, driftLimit := 1000, lockNoise := 20,
    aging := 100, assistUncertainty := 2, t1 := 400, t2 := 1100, t3 := 1500 }

/-- R71. -/
def Loop.powerOn : Loop :=
  { cls := 0, integ := 0, y := 0, freqLimit := false, lockRun := 0, lossRun := 0, minuteHeld := false,
    firstAcq := true, lastU := none, phi0 := none }

/-- R87; the class of a minute without samples is 0, DESIGN CHOICE, notes/assumptions/21.md. -/
def Accumulator.powerOn : Accumulator :=
  { locked := false, sum := 0, count := 0, least := none, greatest := none, disturbed := false, carried := false,
    cls := 0 }

/-- R86, R91, R94. -/
def Holdover.powerOn : Holdover :=
  { history := [], acc := Accumulator.powerOn, staging := [], episode := none }

/-- R25, R26. -/
def TaInput.powerOn : TaInput :=
  { params := { edge := .rising, compensation := 0, window := 2, jumpLimit := 500 }, active := false, timer := none,
    period := none, prevEdge := none, carried := false, jumpRef := none, jumpRun := 0, stray := 0, rx := none,
    rxDeadline := none }

/-- R25, R26. -/
def FqInput.powerOn : FqInput :=
  { params := { nominal := 10000000, accept := 4600000 }, active := false, timer := none, stage := .lost, count := 0,
    lastEdge := none, origin := none, total := 0, periods := 0, prevCount := none, phis := [], skipCount := false,
    renominal := false }

/-- R25, R26. -/
def OfSlot.powerOn : OfSlot :=
  { params := { noiseLimit := 1000000, minQuality := 6 }, active := false, timer := none }

/-- R47. -/
def RefRecord.powerOn : RefRecord :=
  { enabled := false, state := .disabled, score := 0, streak := 0, holdoff := none, k := 0, qualifiedSince := none,
    priority := 0, partner := none, pairWindow := 200, pairSample := none, pairResult := none, labelSample := none,
    rankQuality := 15, candidateSince := none, qualifyTime := 30, threshold := 16, latest := none, goodCount := 0,
    badCount := 0, conflictCount := 0 }

/-- R58, R60, R63. -/
def Selector.powerOn : Selector :=
  { phase := none, assist := none, mode := .nonRevertive, force := none, wtr := 300 }

/-- R129. -/
def Profile.powerOn : Profile :=
  { squelch := .hold3, announceInterval := 100, fullEvery := 16, asymmetry := 0, fixedDelay := 0, tolerance := 100,
    maxRtt := 200000000, probeInterval := 10, offerInterval := 50, turnLimit := 2000 }

/-- R109, R124. -/
def PulseOut.powerOn : PulseOut :=
  { owner := none, compensation := 0, until_ := none }

/-- R118, R121, R122. The grade used and the units spent before any planning are DESIGN CHOICE,
notes/assumptions/21.md. -/
def Scheduler.powerOn : Scheduler :=
  { hardPlan := [], softPlan := [], dropHorizon := Vector.replicate 8 0, pxHorizon := Vector.replicate 6 0,
    pointer := 0, overrunHold := none, gradeUsed := .free, unitsNow := 0, unitsNext := 0,
    itemsNow := Vector.replicate 8 0, itemsNext := Vector.replicate 8 0, squelched := false }

/-- R128, R154. -/
def DropRec.powerOn : DropRec :=
  { owner := none, enabled := false, state := .disabled, profile := 0, expected := none, joined := none,
    refused := none, compact := false, ring := [], delay := 0, failRun := 0, turn := .isIn, backlog := 0, placed := 0,
    lastFullUpper := none, lastFullOffset := none, annCounter := 0, stepFlag := false, annTimer := none,
    probeTimer := none, offerTimer := none, probeDue := false, offerDue := false, probeDueSince := none,
    unitStatus := none, newestResult := none, offersSent := 0, joinsAccepted := 0, joinsRefused := 0, probesSent := 0,
    validExchanges := 0, failNoEcho := 0, failCheck := 0, failRange := 0, failWrongReply := 0, failContention := 0,
    contentions := 0, aborted := 0, fullSent := 0, shortSent := 0, unsent := 0, line := none, lineActive := false,
    arriving := none }

/-- The default severity of each alarm record (R156). -/
def Severity.ofRecord (i : AlarmIx) : Severity :=
  if i.val ≤ 1 then .critical
  else if i.val ≤ 5 then .major
  else if i.val ≤ 10 then .minor
  else if i.val = 11 then .warning
  else if i.val ≤ 19 then .major
  else if i.val ≤ 27 then .minor
  else .major

/-- The conditions handed over at the release of reset: NOT_TRACEABLE and ALL_REF_LOST always, AUTHORITY_VACANT when
AUTH_SEL names no holder (R156). -/
def AlarmRec.conditionAtRelease (authSel : Fin 8) (i : AlarmIx) : Bool :=
  i.val = 2 || i.val = 4 || (i.val = 11 && 4 ≤ authSel.val)

/-- An alarm record at the release of reset (R155): CLEAR, then moved by the condition first handed over (R156,
R157). Only record 0 has a raise persistence of 0, and its condition is absent then. -/
def AlarmRec.powerOn (authSel : Fin 8) (i : AlarmIx) : AlarmRec :=
  { condition := AlarmRec.conditionAtRelease authSel i,
    state := if AlarmRec.conditionAtRelease authSel i then .raising else .clear,
    severity := Severity.ofRecord i,
    raisePersistence := if i.val = 0 then 0 else 2,
    clearPersistence := 10,
    timer := if AlarmRec.conditionAtRelease authSel i then some (2 * Config.nsPerSecond) else none,
    raiseCount := 0, lastRaise := none, lastClear := none }

/-- R162, R168. -/
def View.powerOn : View :=
  { mask := BitVec.allOnes 32, unseen := 0, lineEnable := false, eventMask := BitVec.allOnes 9, notices := [],
    overflow := false }

/-- R170. -/
def PortRec.powerOn : PortRec :=
  { online := true, shortQueue := [], longQueue := [], nextOrder := 0, replies := [], progress := none,
    overrun := false, silence := some (5 * Config.nsPerSecond), maxSegment := 64, silenceTime := 5,
    transaction := .idle, dataOut := [] }

/-- The first holder that AUTH_SEL[2:0] names (R184). -/
def Straps.holder (authSel : Fin 8) : Option Port :=
  if h : authSel.val < 4 then some ⟨authSel.val, h⟩ else none

/-- The part right after the release of reset with the straps sampled as given, and nothing waiting. -/
def State.released (authSel : Fin 8) (warmSel : Fin 4) : State :=
  { counter := { sec := 0, ps := 0, frac := 0 }, residue := 0, secondOwed := 0
    msOwed := { boundaries := 0, planned := 0 }, loCycles := 0,
    osc := OscMonitor.powerOn warmSel, straps := { authSel := authSel, warmSel := warmSel },
    tb := Timebase.powerOn, lp := LoopParams.powerOn, hp := HoldParams.powerOn, loop := Loop.powerOn,
    hold := Holdover.powerOn, ta := Vector.replicate 2 TaInput.powerOn, fq := Vector.replicate 2 FqInput.powerOn,
    ofs := Vector.replicate 4 OfSlot.powerOn, aligned := false, refs := Vector.replicate 8 RefRecord.powerOn,
    conflicts := Vector.replicate 64 { run := 0, flag := false, compared := none }, sel := Selector.powerOn,
    entries := Vector.replicate 64 none, profiles := Vector.replicate 8 Profile.powerOn,
    px := Vector.replicate 6 PulseOut.powerOn, sched := Scheduler.powerOn,
    drops := Vector.replicate 8 DropRec.powerOn, alarms := Vector.ofFn (AlarmRec.powerOn authSel),
    views := Vector.replicate 4 View.powerOn, ports := Vector.replicate 4 PortRec.powerOn,
    holder := Straps.holder authSel, waitList := [], pending := [] }

/-- The part right after reset. The straps are pins, for which the manual gives no value: AUTH_SEL is 0 and WARM_SEL
is 1, as in 11_site_sequences.md, sequence 1. DESIGN CHOICE, notes/assumptions/6.md. -/
def State.reset : State := State.released 0 1

end Sys2Proof.Machine
end

