-- ==== Sys2Proof/Machine/Codes.lean ====
section
/-! DEFINITION. The numeric codes of the part's named sets (10_message_and_record_formats.md, "Numeric codes",
"Headers" and "Request codes"), and the sets read back from their codes. -/

namespace Sys2Proof.Machine

def TbState.code : TbState → Nat
  | .warmup => 0 | .freerun => 1 | .acquiring => 2 | .locked => 3 | .holdover => 4 | .assisted => 5 | .fault => 6

/-- A greater code is a worse grade (10, "Numeric codes"). -/
def Grade.code : Grade → Nat
  | .lock => 0 | .hold1 => 1 | .hold2 => 2 | .hold3 => 3 | .hold4 => 4 | .free => 5

def Grade.ofCode (n : Int) : Option Grade :=
  if n = 0 then some .lock else if n = 1 then some .hold1 else if n = 2 then some .hold2
  else if n = 3 then some .hold3 else if n = 4 then some .hold4 else if n = 5 then some .free else none

/-- "Worse than" compares codes (R15). -/
def Grade.worseThan (a b : Grade) : Bool := b.code < a.code

def RefState.code : RefState → Nat
  | .disabled => 0 | .absent => 1 | .qualifying => 2 | .qualified => 3 | .holdoff => 4

def SelectMode.code : SelectMode → Nat
  | .nonRevertive => 0 | .revertive => 1

def StepPolicy.code : StepPolicy → Nat
  | .always => 0 | .firstOnly => 1 | .never => 2

def StepPolicy.ofCode (n : Int) : Option StepPolicy :=
  if n = 0 then some .always else if n = 1 then some .firstOnly else if n = 2 then some .never else none

def StepOrigin.code : StepOrigin → Nat
  | .automatic => 0 | .manual => 1 | .label => 2

def EntryState.code : EntryState → Nat
  | .idle => 1 | .waiting => 2 | .running => 3 | .ended => 4

def EntryKind.code : EntryKind → Nat
  | .mark => 0 | .pulse => 1

def EntryKind.ofCode (n : Int) : Option EntryKind :=
  if n = 0 then some .mark else if n = 1 then some .pulse else none

/-- D0 to D7 as 0 to 7, PX0 to PX5 as 8 to 13. -/
def Output.code : Output → Nat
  | .drop d => d.val | .px x => 8 + x.val

def Output.ofCode (n : Int) : Option Output :=
  if h : 0 ≤ n ∧ n < 8 then some (.drop ⟨n.toNat, by omega⟩)
  else if h : 8 ≤ n ∧ n < 14 then some (.px ⟨n.toNat - 8, by omega⟩)
  else none

def DropState.code : DropState → Nat
  | .disabled => 0 | .seeking => 1 | .calibrating => 2 | .serving => 3

def UnitStatus.code : UnitStatus → Nat
  | .ok => 0 | .syncLost => 1 | .bufferFault => 2 | .restarting => 3

def UnitStatus.ofByte (b : Byte) : Option UnitStatus :=
  if b.toNat = 0 then some .ok else if b.toNat = 1 then some .syncLost
  else if b.toNat = 2 then some .bufferFault else if b.toNat = 3 then some .restarting else none

def AlarmState.code : AlarmState → Nat
  | .clear => 0 | .raising => 1 | .active => 2 | .clearing => 3

def Severity.code : Severity → Nat
  | .critical => 0 | .major => 1 | .minor => 2 | .warning => 3 | .none => 4

def Severity.ofCode (n : Int) : Option Severity :=
  if n = 0 then some .critical else if n = 1 then some .major else if n = 2 then some .minor
  else if n = 3 then some .warning else if n = 4 then some .none else Option.none

def NoticeKind.code : NoticeKind → Nat
  | .alarmRaised => 0 | .alarmCleared => 1 | .authGranted => 2 | .refSwitched => 3 | .timebaseState => 4
  | .timeStepped => 5 | .dropState => 6 | .dropDelayJump => 7 | .entryEnded => 8

def Status.code : Status → Nat
  | .done => 0 | .clamped => 1 | .notHolder => 2 | .notOwner => 3 | .wrongState => 4 | .badValue => 5
  | .tableFull => 6 | .inUse => 7 | .busy => 8 | .unknownRequest => 9 | .malformed => 10

def ReceiverStatus.code : ReceiverStatus → Nat
  | .tracking => 0 | .degraded => 1 | .noFix => 2

def ReceiverStatus.ofByte (b : Byte) : Option ReceiverStatus :=
  if b.toNat = 0 then some .tracking else if b.toNat = 1 then some .degraded
  else if b.toNat = 2 then some .noFix else none

/-- 0 none, 1 for +1, 255 for −1 (10, "TA label message"). -/
def LeapField.code : LeapField → Nat
  | .none => 0 | .plus => 1 | .minus => 255

def LeapField.ofByte (b : Byte) : Option LeapField :=
  if b.toNat = 0 then some .none else if b.toNat = 1 then some .plus
  else if b.toNat = 255 then some .minus else Option.none

def ActiveEdge.code : ActiveEdge → Nat
  | .rising => 0 | .falling => 1

def ActiveEdge.ofCode (n : Int) : Option ActiveEdge :=
  if n = 0 then some .rising else if n = 1 then some .falling else none

def Judgement.code : Judgement → Nat
  | .good => 0 | .lost => 1

def EpisodeMark.code : EpisodeMark → Nat
  | .untraced => 0 | .traced => 1

/-- The bit of each cause in the set shown by REF_READ; DESIGN CHOICE, notes/assumptions/10.md. -/
def Cause.bit : Cause → Nat
  | .period => 0 | .width => 1 | .glitch => 2 | .labelMissing => 3 | .labelCheck => 4 | .labelSecond => 5
  | .noFix => 6 | .jump => 7 | .freqWindow => 8 | .countStep => 9 | .noise => 10 | .quality => 11

/-- A code of on or off, true or false, enabled or disabled (10, "Conventions of the layouts"). -/
def switchOfCode (n : Int) : Option Bool :=
  if n = 0 then some false else if n = 1 then some true else none

/-- A port as 0 to 3 with 4 for none (10, "Records"). -/
def portCode : Option Port → Nat
  | some p => p.val
  | none => 4

/-- A slot with 8 for none (R65). -/
def slotCode : Option Slot → Nat
  | some i => i.val
  | none => 8

/-- An index below n that an integer names. -/
def indexOf (n : Nat) (v : Int) : Option (Fin n) :=
  if h : 0 ≤ v ∧ v < n then some ⟨v.toNat, by omega⟩ else none

end Sys2Proof.Machine
end

