-- ==== Sys2Proof/Machine/Ops.lean ====
section
/-! DEFINITION. The operations that every block uses: on tables, on counter readings and instants, on the two time
bases, on the blocks of State, and the delivery of notices. -/

namespace Sys2Proof.Machine

/-! ### Tables and counts -/

/-- Change one element of a table. -/
def modifyAt {α : Type} {n : Nat} (v : Vector α n) (i : Fin n) (f : α → α) : Vector α n := v.set i (f v[i])

/-- Change every element of a table, each by its index. -/
def mapAll {α : Type} {n : Nat} (v : Vector α n) (f : Fin n → α → α) : Vector α n := Vector.ofFn fun i => f i v[i]

/-- Do something for each index in order. -/
def forEach {σ : Type} (n : Nat) (s : σ) (f : Fin n → σ → σ) : σ := (List.finRange n).foldl (fun t i => f i t) s

/-- Is there an index at which p holds? -/
def anyIndex (n : Nat) (p : Fin n → Bool) : Bool := (List.finRange n).any p

/-- Count up by one, saturating. -/
def countUp (limit n : Nat) : Nat := min (n + 1) limit

/-- Hold a value within ±bound. -/
def clampTo (bound v : Int) : Int := max (-bound) (min bound v)

/-- Append to a list that holds at most `size`, dropping from the oldest end. -/
def pushBounded {α : Type} (size : Nat) (l : List α) (a : α) : List α := (l ++ [a]).drop (l.length + 1 - size)

/-! ### Instants and readings -/

/-- An instant is a number of picoseconds of the counter, modulo its span. -/
def wrapInstant (i : Int) : Nat := (i % (Config.siteSpan : Int)).toNat

/-- The instant of a reading, less its fraction. -/
def Reading.instant (r : Reading) : Nat := r.sec * Config.psPerSecond + r.ps

/-- The reading at an instant, with a given fraction. -/
def Reading.at (i frac : Nat) : Reading :=
  { sec := i / Config.psPerSecond % Config.siteSeconds, ps := i % Config.psPerSecond, frac := frac }

/-- A reading moved by an amount, with carries and borrows, seconds modulo 2^48, the fraction kept (R19). -/
def Reading.moved (r : Reading) (amount : Int) : Reading := Reading.at (wrapInstant (r.instant + amount)) r.frac

/-- An instant moved by an amount. -/
def moveInstant (amount : Int) (i : Nat) : Nat := wrapInstant (i + amount)

/-- Counter time from one instant to another. -/
def elapsed (a b : Nat) : Nat := wrapInstant ((b : Int) - a)

/-- Counter time from one instant to another, negative when the other lies behind within half the span. -/
def signedElapsed (a b : Nat) : Int :=
  if elapsed a b * 2 < Config.siteSpan then elapsed a b else (elapsed a b : Int) - Config.siteSpan

/-- The seconds count of the counter second boundary nearest an instant (R18, R31). -/
def nearestSecond (i : Nat) : Nat := (i + Config.psPerSecond / 2) / Config.psPerSecond % Config.siteSeconds

/-- Timestamps of edges are rounded down to a whole multiple of 125 ps (R27). -/
def floor125 (i : Nat) : Nat := i / 125 * 125

/-- A timestamp as a reading, its fraction dropped (R27). -/
def stampReading (i : Nat) : Reading := Reading.at i 0

/-! ### Blocks of State -/

def State.setOsc (s : State) (x : OscMonitor) : State := { s with osc := x }
def State.setTb (s : State) (x : Timebase) : State := { s with tb := x }
def State.setLoop (s : State) (x : Loop) : State := { s with loop := x }
def State.setHold (s : State) (x : Holdover) : State := { s with hold := x }
def State.setSel (s : State) (x : Selector) : State := { s with sel := x }
def State.setSched (s : State) (x : Scheduler) : State := { s with sched := x }
def State.setTa (s : State) (i : InputIx) (x : TaInput) : State := { s with ta := s.ta.set i x }
def State.setFq (s : State) (i : InputIx) (x : FqInput) : State := { s with fq := s.fq.set i x }
def State.setOf (s : State) (p : Port) (x : OfSlot) : State := { s with ofs := s.ofs.set p x }
def State.setRef (s : State) (i : Slot) (x : RefRecord) : State := { s with refs := s.refs.set i x }
def State.setEntry (s : State) (i : EntryIx) (x : Option Entry) : State := { s with entries := s.entries.set i x }
def State.setProfile (s : State) (i : ProfileIx) (x : Profile) : State := { s with profiles := s.profiles.set i x }
def State.setPx (s : State) (i : Px) (x : PulseOut) : State := { s with px := s.px.set i x }
def State.setDrop (s : State) (d : DropIx) (x : DropRec) : State := { s with drops := s.drops.set d x }
def State.setAlarm (s : State) (a : AlarmIx) (x : AlarmRec) : State := { s with alarms := s.alarms.set a x }
def State.setView (s : State) (p : Port) (x : View) : State := { s with views := s.views.set p x }
def State.setPort (s : State) (p : Port) (x : PortRec) : State := { s with ports := s.ports.set p x }
def State.setPending (s : State) (q : List Instr) : State := { s with pending := q }

/-- The profile that a drop names (R128). -/
def State.profileOf (s : State) (d : DropIx) : Profile := s.profiles[s.drops[d].profile]

/-! ### The two time bases -/

/-- The second boundaries that a lapse of counter time passes (R1). -/
def Reading.secondsPassed (r : Reading) (d : Nat) : Nat := (r.ps + d) / Config.psPerSecond

/-- The millisecond boundaries that a lapse of counter time passes (R117). -/
def Reading.millisPassed (r : Reading) (d : Nat) : Nat := (r.ps % Config.psPerMs + d) / Config.psPerMs

/-- So many more millisecond boundaries are owed. -/
def MsOwed.owe (m : MsOwed) (n : Nat) : MsOwed := { m with boundaries := m.boundaries + n }

/-- Nothing is left to plan for the boundaries owed (R125). -/
def MsOwed.allPlanned (m : MsOwed) : MsOwed := { m with planned := m.boundaries }

/-- The newest boundaries owed are taken out. -/
def MsOwed.without (m : MsOwed) (n : Nat) : MsOwed :=
  { boundaries := m.boundaries - n, planned := min m.planned (m.boundaries - n) }

/-- The counter runs on by `d` ps of counter time, unless it is frozen (R13), and each second or millisecond boundary
that it passes is owed its command (R1, R117; notes/assumptions/4.md). -/
def State.runCounter (s : State) (d : Nat) : State :=
  if s.tb.state = .fault then s else
    { s with
      counter := Reading.at (s.counter.instant + d) s.counter.frac
      secondOwed := s.secondOwed + s.counter.secondsPassed d
      msOwed := s.msOwed.owe (s.counter.millisPassed d) }

/-- The counter runs on to an instant, if that still lies ahead. -/
def State.reachInstant (s : State) (i : Nat) : State :=
  s.runCounter (signedElapsed s.counter.instant i).toNat

/-- The edges of LO_IN in a span of monitor time that a command lets pass: those of its nominal 10 MHz (DESIGN CHOICE,
notes/assumptions/41.md). -/
def nominalEdges (a b : Nat) : Nat := b / Config.cycleNs - a / Config.cycleNs

/-- Monitor time that a command lets pass, with its edges shared out to the running gate and to the time beyond its end
(R4). The last edge in it ends the time without any. -/
def OscMonitor.lapse (o : OscMonitor) (d : Nat) : OscMonitor :=
  { o with
    now := o.now + d
    passedEdges := o.passedEdges + nominalEdges o.now (min (o.now + d) o.gateEnd)
    aheadEdges := o.aheadEdges + nominalEdges (max o.now o.gateEnd) (o.now + d)
    quiet := if nominalEdges o.now (o.now + d) = 0 then o.quiet + d else (o.now + d) % Config.cycleNs }

/-- Monitor time runs on by `d` ns. -/
def State.runMonitor (s : State) (d : Nat) : State := s.setOsc (s.osc.lapse d)

/-- Monitor time runs on to an instant, if that still lies ahead. -/
def State.reachMonitor (s : State) (t : Nat) : State := s.runMonitor (t - s.osc.now)

/-- The time an outside event carries passes on both time bases. -/
def State.pass (s : State) (e : Elapsed) : State := (s.runMonitor e.monitor).runCounter e.counter

/-- The instant of monitor time that lies so many seconds ahead. -/
def State.monitorIn (s : State) (seconds : Nat) : Nat := s.osc.now + seconds * Config.nsPerSecond

/-- Whole seconds of monitor time since an instant. -/
def State.secondsSince (s : State) (t : Nat) : Nat := (s.osc.now - t) / Config.nsPerSecond

/-- Whole seconds of monitor time remaining to an instant, a begun second counted whole: so the warm-up and hold-off timers
count down (R5, R54); for the EMIT_OVERRUN hold (R127) a DESIGN CHOICE, notes/assumptions/70.md. -/
def State.secondsTo (s : State) (t : Nat) : Nat := (t - s.osc.now + (Config.nsPerSecond - 1)) / Config.nsPerSecond

/-- Milliseconds of monitor time remaining to an instant, a begun millisecond counted whole (DESIGN CHOICE,
notes/assumptions/70.md). -/
def State.millisTo (s : State) (t : Nat) : Nat := (t - s.osc.now + (Config.nsPerMs - 1)) / Config.nsPerMs

/-! ### Notices (R167, R168) -/

/-- A notice of an event at the present counter reading. -/
def State.notice (s : State) (kind : NoticeKind) (subject : Nat) (old new : Int) : Notice :=
  { kind := kind, sec := s.counter.sec, ns := s.counter.ps / 1000, subject := subject, old := old, new := new }

/-- A notice handed to a port's view: blocked by the event mask, joined to the queue, or lost to the overflow flag. -/
def View.receive (v : View) (n : Notice) : View :=
  if v.eventMask.getLsbD n.kind.code then
    if v.notices.length < Config.noticeMax then { v with notices := v.notices ++ [n] }
    else { v with overflow := true }
  else v

/-- A notice for one port goes nowhere unless the port is ONLINE (R167). -/
def State.notifyPort (s : State) (p : Port) (n : Notice) : State :=
  if s.ports[p].online then s.setView p (s.views[p].receive n) else s

/-- A notice for the owner of an output. -/
def State.notifyOwner (s : State) (o : Option Port) (n : Notice) : State :=
  match o with
  | some p => s.notifyPort p n
  | none => s

/-- A notice for every ONLINE port. -/
def State.notifyAll (s : State) (n : Notice) : State := forEach 4 s fun p t => t.notifyPort p n

/-! ### Outcomes -/

/-- The outcome of every command of the part. -/
abbrev Result := Host.Outcome State Fault Refusal

end Sys2Proof.Machine
end

