-- ==== Sys2Proof/Machine/Operands.lean ====
section
/-! DEFINITION. The byte forms of 10_message_and_record_formats.md: values and the 16-bit check, the parts of a
request body (R189), and the parts that each request carries. -/

namespace Sys2Proof.Machine

/-! ### Values as bytes, most significant byte first (R189) -/

/-- An unsigned value in `k` bytes. -/
def beBytes : Nat → Nat → List Byte
  | 0, _ => []
  | k + 1, n => beBytes k (n / 256) ++ [BitVec.ofNat 8 n]

/-- A signed value in `k` bytes, in two's complement. -/
def beInt (k : Nat) (i : Int) : List Byte := beBytes k (i % (256 ^ k : Nat)).toNat

/-- The unsigned value of bytes. -/
def beNat (b : List Byte) : Nat := b.foldl (fun n x => n * 256 + x.toNat) 0

/-- The signed value of bytes. -/
def beSigned (b : List Byte) : Int :=
  if 2 * beNat b < 256 ^ b.length then beNat b else (beNat b : Int) - (256 ^ b.length : Nat)

/-- On or off, true or false, enabled or disabled, in one byte. -/
def boolBytes (b : Bool) : List Byte := beBytes 1 (if b then 1 else 0)

/-- A counter reading in 16 bytes. -/
def readingBytes (r : Reading) : List Byte := beBytes 6 r.sec ++ beBytes 8 r.ps ++ beBytes 2 r.frac

/-- An optional field of a reply: a presence byte, then the value when present (R189). -/
def optBytes {α : Type} (o : Option α) (f : α → List Byte) : List Byte :=
  match o with
  | some a => boolBytes true ++ f a
  | none => boolBytes false

/-! ### The check (R191) -/

/-- One shift of the register toward its most significant end. -/
def checkShift (r : BitVec 16) : BitVec 16 := if r.msb then (r <<< 1) ^^^ 4129#16 else r <<< 1

/-- `n` shifts. -/
def checkShifts : Nat → BitVec 16 → BitVec 16
  | 0, r => r
  | n + 1, r => checkShifts n (checkShift r)

/-- The check of a sequence of bytes. -/
def checkOf (b : List Byte) : BitVec 16 :=
  b.foldl (fun r x => checkShifts 8 (r ^^^ ((x.setWidth 16 : BitVec 16) <<< (8 : Nat)))) 65535#16

/-- A message with its check at its end. -/
def withCheck (b : List Byte) : List Byte := b ++ beBytes 2 (checkOf b).toNat

/-- A message passes its check when the last two bytes are the check of those before them. -/
def checkPasses (b : List Byte) : Bool :=
  2 ≤ b.length && decide (beNat (b.drop (b.length - 2)) = (checkOf (b.take (b.length - 2))).toNat)

/-! ### The parts of a request body (R189) -/

/-- The form of a part: a value of so many bytes, signed or not, or one of two alternatives, the second carrying
values. -/
inductive PartForm where
  | value (bytes : Nat) (signed : Bool)
  | choice (values : List (Nat × Bool))
  deriving DecidableEq, Repr

/-- A part that a rule lists, and whether a request must carry it. -/
structure PartSpec where
  form : PartForm
  required : Bool
  deriving DecidableEq, Repr

def PartSpec.need (bytes : Nat) (signed : Bool := false) : PartSpec := { form := .value bytes signed, required := true }
def PartSpec.may (bytes : Nat) (signed : Bool := false) : PartSpec := { form := .value bytes signed, required := false }

/-- Take one value off the front of the bytes. -/
def takeValue (k : Nat) (signed : Bool) (b : List Byte) : Option (Int × List Byte) :=
  if b.length < k then none
  else some (if signed then beSigned (b.take k) else (beNat (b.take k) : Int), b.drop k)

/-- Take several values in turn. -/
def takeValues : List (Nat × Bool) → List Byte → Option (List Int × List Byte)
  | [], b => some ([], b)
  | (k, sg) :: ks, b =>
    match takeValue k sg b with
    | none => none
    | some (v, rest) =>
      match takeValues ks rest with
      | none => none
      | some (vs, rest') => some (v :: vs, rest')

/-- Take one part: a value gives a list of one; an alternative gives its selector, then its values. -/
def takePart (f : PartForm) (b : List Byte) : Option (List Int × List Byte) :=
  match f with
  | .value k sg => takeValues [(k, sg)] b
  | .choice ks =>
    match b with
    | [] => none
    | x :: rest =>
      if x.toNat = 0 then some ([0], rest)
      else if x.toNat = 1 then
        match takeValues ks rest with
        | none => none
        | some (vs, rest') => some (1 :: vs, rest')
      else none

/-- Take the parts that a presence mask names, in the listed order; a required part must be named. -/
def takeParts : List (PartSpec × Bool) → List Byte → Option (List (Option (List Int)) × List Byte)
  | [], b => some ([], b)
  | (spec, present) :: more, b =>
    if present then
      match takePart spec.form b with
      | none => none
      | some (v, rest) =>
        match takeParts more rest with
        | none => none
        | some (vs, rest') => some (some v :: vs, rest')
    else if spec.required then none
    else
      match takeParts more b with
      | none => none
      | some (vs, rest') => some (none :: vs, rest')

/-- Bit `i` of a presence mask: bit 0 of its first byte stands for the first part. -/
def maskBit (mask : List Byte) (i : Nat) : Bool := ((mask.getD (i / 8) 0).toNat >>> (i % 8)) % 2 = 1

/-- The bytes of a presence mask over `n` parts. -/
def maskBytes (n : Nat) : Nat := (n + 7) / 8

/-- Parse a body against its parts and give what follows them. A body with an optional part opens with a presence mask
over all its parts (notes/assumptions/8.md). -/
def parseFront (parts : List PartSpec) (body : List Byte) : Option (List (Option (List Int)) × List Byte) :=
  if parts.all (·.required) then takeParts (parts.map fun p => (p, true)) body
  else if body.length < maskBytes parts.length then none
  else
    takeParts (parts.mapIdx fun i p => (p, maskBit (body.take (maskBytes parts.length)) i))
      (body.drop (maskBytes parts.length))

/-- The parts of one request, or none when the body does not parse: nothing may follow the last part. -/
def parseBody (parts : List PartSpec) (body : List Byte) : Option (List (Option (List Int))) :=
  match parseFront parts body with
  | some (vs, []) => some vs
  | _ => none

/-! ### A body made of its parts (R189) -/

/-- A value fits its width. -/
def valueFits (f : Nat × Bool) (v : Int) : Bool :=
  if f.2 then decide (-(256 ^ f.1 : Int) ≤ 2 * v ∧ 2 * v < (256 ^ f.1 : Int)) else decide (0 ≤ v ∧ v < (256 ^ f.1 : Int))

/-- Values fit their widths, one for one. -/
def valuesFit : List (Nat × Bool) → List Int → Bool
  | [], [] => true
  | f :: fs, v :: vs => valueFits f v && valuesFit fs vs
  | _, _ => false

/-- The values of a part fit its form: those of a value, or a selector and what it calls for. -/
def PartForm.fits (f : PartForm) (vs : List Int) : Bool :=
  match f, vs with
  | .value k sg, l => valuesFit [(k, sg)] l
  | .choice _, [0] => true
  | .choice ks, 1 :: l => valuesFit ks l
  | .choice _, _ => false

/-- Parts fit their specifications, and the required ones are present. -/
def partsFit : List PartSpec → List (Option (List Int)) → Bool
  | [], [] => true
  | p :: ps, some v :: vs => p.form.fits v && partsFit ps vs
  | p :: ps, none :: vs => !p.required && partsFit ps vs
  | _, _ => false

/-- The bytes of values in their widths. -/
def encodeValues : List (Nat × Bool) → List Int → List Byte
  | f :: fs, v :: vs => beInt f.1 v ++ encodeValues fs vs
  | _, _ => []

/-- The bytes of a part. -/
def PartForm.encode (f : PartForm) (vs : List Int) : List Byte :=
  match f, vs with
  | .value k sg, l => encodeValues [(k, sg)] l
  | .choice ks, 1 :: l => 1#8 :: encodeValues ks l
  | .choice _, _ => [0#8]

/-- The bytes of the present parts, in order. -/
def encodeParts : List PartSpec → List (Option (List Int)) → List Byte
  | p :: ps, some v :: vs => p.form.encode v ++ encodeParts ps vs
  | _ :: ps, none :: vs => encodeParts ps vs
  | _, _ => []

/-- A byte of a presence mask: its bit 0 stands for the first of its parts. -/
def maskByte : List (Option (List Int)) → Nat
  | [] => 0
  | v :: vs => (if v.isSome then 1 else 0) + 2 * maskByte vs

/-- The presence mask of so many bytes. -/
def encodeMask : Nat → List (Option (List Int)) → List Byte
  | 0, _ => []
  | n + 1, vs => BitVec.ofNat 8 (maskByte (vs.take 8)) :: encodeMask n (vs.drop 8)

/-- A request body: its presence mask, when it has optional parts, then its present parts. -/
def encodeBody (parts : List PartSpec) (vs : List (Option (List Int))) : List Byte :=
  (if parts.all (·.required) then [] else encodeMask (maskBytes parts.length) vs) ++ encodeParts parts vs

/-! ### Reading the parts -/

/-- The value of the i-th part, when present. -/
def partValue (vs : List (Option (List Int))) (i : Nat) : Option Int := (vs.getD i none).bind (·.head?)

/-- The value of a part that must be present. -/
def partNeed (vs : List (Option (List Int))) (i : Nat) : Int := (partValue vs i).getD 0

/-- The values of the i-th part, when present. -/
def partList (vs : List (Option (List Int))) (i : Nat) : Option (List Int) := vs.getD i none

/-- A value lies in a range, inclusive at both ends (00_scope.md, "ARITHMETIC"). -/
def inRange (lo hi v : Int) : Bool := lo ≤ v && v ≤ hi

/-- An absent part is in every range. -/
def optInRange (lo hi : Int) (o : Option Int) : Bool := o.all (inRange lo hi)

/-! ### The parts of each request. Widths: notes/assumptions/9.md -/

/-- TIME_STEP (R17): an amount in ps. -/
def parseTimeStep (b : List Byte) : Option Int := (parseBody [.need 8 true] b).map fun v => partNeed v 0

/-- The leap part of LEAP_SET (R22). -/
inductive LeapPart where
  | cancel
  | set (effect : Nat) (offset : Int)
  deriving DecidableEq, Repr

/-- LEAP_SET (R22). The adoption setting is kept as its code. -/
structure LeapSetParts where
  utc : Option Int
  leap : Option LeapPart
  adoption : Option Int
  deriving DecidableEq, Repr

def parseLeapSet (b : List Byte) : Option LeapSetParts :=
  (parseBody [.may 2 true, { form := .choice [(6, false), (2, true)], required := false }, .may 1] b).map fun v =>
    { utc := partValue v 0
      leap := (partList v 1).map fun l => match l with
        | [_, e, o] => .set e.toNat o
        | _ => .cancel
      adoption := partValue v 2 }

/-- OFFSET_REPORT (R41). -/
structure OffsetReportParts where
  e : Int
  whole : Int
  interval : Int
  quality : Int
  noise : Int
  deriving DecidableEq, Repr

def parseOffsetReport (b : List Byte) : Option OffsetReportParts :=
  (parseBody [.need 8 true, .need 1 true, .need 1, .need 1, .need 4] b).map fun v =>
    { e := partNeed v 0, whole := partNeed v 1, interval := partNeed v 2, quality := partNeed v 3
      noise := partNeed v 4 }

/-- A partner part: a clear, or a slot as sent (R48). -/
inductive PartnerPart where
  | clear
  | slot (v : Int)
  deriving DecidableEq, Repr

def PartnerPart.ofList : List Int → PartnerPart
  | [_, v] => .slot v
  | _ => .clear

/-- REF_SET (R48, R26): record parts, then the measurement parameters in table order. -/
structure RefSetParts where
  slot : Int
  enable : Option Int
  priority : Option Int
  partner : Option PartnerPart
  pairWindow : Option Int
  qualifyTime : Option Int
  threshold : Option Int
  edge : Option Int
  compensation : Option Int
  window : Option Int
  jumpLimit : Option Int
  nominal : Option Int
  accept : Option Int
  noiseLimit : Option Int
  minQuality : Option Int
  deriving DecidableEq, Repr

def parseRefSet (b : List Byte) : Option RefSetParts :=
  (parseBody [.need 1, .may 1, .may 1, { form := .choice [(1, false)], required := false }, .may 4, .may 4, .may 1,
      .may 1, .may 8 true, .may 4, .may 4, .may 4, .may 4 true, .may 8 true, .may 1] b).map fun v =>
    { slot := partNeed v 0, enable := partValue v 1, priority := partValue v 2
      partner := (partList v 3).map PartnerPart.ofList
      pairWindow := partValue v 4, qualifyTime := partValue v 5, threshold := partValue v 6, edge := partValue v 7
      compensation := partValue v 8, window := partValue v 9, jumpLimit := partValue v 10, nominal := partValue v 11
      accept := partValue v 12, noiseLimit := partValue v 13, minQuality := partValue v 14 }

/-- One thing or all of them: REF_READ (R70), ENTRY_READ (R127), DROP_READ (R154). -/
inductive OneOrAll where
  | all
  | one (v : Int)
  deriving DecidableEq, Repr

/-- Selector 0 names all, selector 1 and a byte the one (DESIGN CHOICE, notes/assumptions/51.md). -/
def parseOneOrAll (b : List Byte) : Option OneOrAll :=
  (parseBody [{ form := .choice [(1, false)], required := true }] b).map fun v =>
    match partList v 0 with
    | some [_, x] => .one x
    | _ => .all

/-- SELECT_SET (R63): mode code and wait-to-restore. -/
structure SelectSetParts where
  mode : Option Int
  wtr : Option Int
  deriving DecidableEq, Repr

def parseSelectSet (b : List Byte) : Option SelectSetParts :=
  (parseBody [.may 1, .may 4] b).map fun v => { mode := partValue v 0, wtr := partValue v 1 }

/-- SELECT_FORCE (R63): a slot or a clear. -/
def parseSelectForce (b : List Byte) : Option PartnerPart :=
  (parseBody [{ form := .choice [(1, false)], required := true }] b).map fun v =>
    PartnerPart.ofList ((partList v 0).getD [])

/-- LOOP_SET (R84, R103). -/
structure LoopSetParts where
  tracking : Option Int
  assist : Option Int
  yMax : Option Int
  stepThreshold : Option Int
  stepPolicy : Option Int
  lockThreshold : Option Int
  lossThreshold : Option Int
  guardRecords : Option Int
  recordCount : Option Int
  spreadFloor : Option Int
  drift : Option Int
  driftLimit : Option Int
  lockNoise : Option Int
  aging : Option Int
  assistUncertainty : Option Int
  t1 : Option Int
  t2 : Option Int
  t3 : Option Int
  deriving DecidableEq, Repr

def parseLoopSet (b : List Byte) : Option LoopSetParts :=
  (parseBody [.may 1, .may 1, .may 4 true, .may 8 true, .may 1, .may 4, .may 4, .may 4, .may 4, .may 4 true, .may 1,
      .may 4 true, .may 4, .may 4 true, .may 4 true, .may 4, .may 4, .may 4] b).map fun v =>
    { tracking := partValue v 0, assist := partValue v 1, yMax := partValue v 2, stepThreshold := partValue v 3
      stepPolicy := partValue v 4, lockThreshold := partValue v 5, lossThreshold := partValue v 6
      guardRecords := partValue v 7, recordCount := partValue v 8, spreadFloor := partValue v 9
      drift := partValue v 10, driftLimit := partValue v 11, lockNoise := partValue v 12, aging := partValue v 13
      assistUncertainty := partValue v 14, t1 := partValue v 15, t2 := partValue v 16, t3 := partValue v 17 }

/-- One optional count: HISTORY_READ (R90), NOTICE_READ (R169). -/
def parseCount (b : List Byte) : Option (Option Int) := (parseBody [.may 4] b).map fun v => partValue v 0

/-- A history record in its sixteen-byte layout (10, "Records"). -/
def parseMinuteRecord (b : List Byte) : MinuteRecord :=
  { index := beSigned (b.take 4), mean := beSigned ((b.drop 4).take 4), least := beSigned ((b.drop 8).take 2)
    greatest := beSigned ((b.drop 10).take 2), samples := beNat ((b.drop 12).take 1)
    slot := beNat ((b.drop 13).take 1), cls := beNat ((b.drop 14).take 1)
    disturbed := (beNat ((b.drop 15).take 1)) % 2 = 1, restored := (beNat ((b.drop 15).take 1)) / 2 % 2 = 1 }

/-- So many records of sixteen bytes each. -/
def parseMinuteRecords : Nat → List Byte → List MinuteRecord
  | 0, _ => []
  | n + 1, b => parseMinuteRecord (b.take 16) :: parseMinuteRecords n (b.drop 16)

/-- HISTORY_RESTORE (R91): part marker and records, as sent. -/
structure RestoreParts where
  marker : Int
  records : List MinuteRecord
  deriving DecidableEq, Repr

/-- A whole number of records, at least 1 and no more than 31, after the marker; anything else does not parse (R91). -/
def parseRestore (b : List Byte) : Option RestoreParts :=
  match b with
  | [] => none
  | m :: rest =>
    if rest.length % 16 = 0 ∧ 16 ≤ rest.length ∧ rest.length ≤ 31 * 16 then
      some { marker := m.toNat, records := parseMinuteRecords (rest.length / 16) rest }
    else none

/-- One byte: HOLDOVER_FORCE (R100), ENTRY_START, ENTRY_STOP, ENTRY_FREE (R113 to R116), AUTH_TAKE (R185). -/
def parseByte (b : List Byte) : Option Int := (parseBody [.need 1] b).map fun v => partNeed v 0

/-- OUTPUT_ASSIGN (R109): output code, owner code, reclaim flag, cable compensation. -/
structure AssignParts where
  output : Int
  owner : Int
  reclaim : Int
  compensation : Option Int
  deriving DecidableEq, Repr

/-- The owner part is an output owner code, 4 for none (DEDUCED, notes/assumptions/61.md). -/
def parseOutputAssign (b : List Byte) : Option AssignParts :=
  (parseBody [.need 1, .need 1, .need 1, .may 4] b).map fun v =>
    { output := partNeed v 0, owner := partNeed v 1, reclaim := partNeed v 2, compensation := partValue v 3 }

/-- The fields of an entry as sent (R105, R111): every one after the link may be absent. -/
structure EntryParts where
  kind : Int
  target : Int
  anchor : Option Int
  period : Option Int
  offset : Option Int
  start : Option Int
  stop : Option Int
  relOffset : Option Int
  divider : Option Int
  phase : Option Int
  width : Option Int
  squelch : Option Int
  deriving DecidableEq, Repr

/-- The parts of an entry, in the order of R105's table. The link is a selector and the anchor's index (DEDUCED,
notes/assumptions/62.md). -/
def entrySpecs : List PartSpec :=
  [.need 1, .need 1, { form := .choice [(1, false)], required := true }, .may 4, .may 4, .may 6, .may 6, .may 4 true,
    .may 1, .may 1, .may 4, .may 1]

/-- Entry parts that stand from the `k`-th part of a body on. -/
def entryPartsFrom (v : List (Option (List Int))) (k : Nat) : EntryParts :=
  { kind := partNeed v k, target := partNeed v (k + 1)
    anchor := (partList v (k + 2)).bind fun l => match l with
      | [_, a] => some a
      | _ => none
    period := partValue v (k + 3), offset := partValue v (k + 4), start := partValue v (k + 5)
    stop := partValue v (k + 6), relOffset := partValue v (k + 7), divider := partValue v (k + 8)
    phase := partValue v (k + 9), width := partValue v (k + 10), squelch := partValue v (k + 11) }

/-- ENTRY_DEFINE (R111). -/
def parseEntryDefine (b : List Byte) : Option EntryParts := (parseBody entrySpecs b).map fun v => entryPartsFrom v 0

/-- ENTRY_CHANGE (R112): an index, then the fields. -/
def parseEntryChange (b : List Byte) : Option (Int × EntryParts) :=
  (parseBody (.need 1 :: entrySpecs) b).map fun v => (partNeed v 0, entryPartsFrom v 1)

/-- PROFILE_SET (R130): a profile, then R129's parameters in table order. -/
structure ProfileSetParts where
  profile : Int
  squelch : Option Int
  announceInterval : Option Int
  fullEvery : Option Int
  asymmetry : Option Int
  fixedDelay : Option Int
  tolerance : Option Int
  maxRtt : Option Int
  probeInterval : Option Int
  offerInterval : Option Int
  turnLimit : Option Int
  deriving DecidableEq, Repr

def parseProfileSet (b : List Byte) : Option ProfileSetParts :=
  (parseBody [.need 1, .may 1, .may 4, .may 1, .may 8 true, .may 8 true, .may 4, .may 8 true, .may 4, .may 4, .may 4]
      b).map fun v =>
    { profile := partNeed v 0, squelch := partValue v 1, announceInterval := partValue v 2, fullEvery := partValue v 3
      asymmetry := partValue v 4, fixedDelay := partValue v 5, tolerance := partValue v 6, maxRtt := partValue v 7
      probeInterval := partValue v 8, offerInterval := partValue v 9, turnLimit := partValue v 10 }

/-- The identity part of DROP_SET (R131). -/
inductive IdentityPart where
  | clear
  | set (id : Nat)
  deriving DecidableEq, Repr

/-- DROP_SET (R131). -/
structure DropSetParts where
  drop : Int
  enable : Option Int
  profile : Option Int
  expected : Option IdentityPart
  deriving DecidableEq, Repr

def parseDropSet (b : List Byte) : Option DropSetParts :=
  (parseBody [.need 1, .may 1, .may 1, { form := .choice [(8, false)], required := false }] b).map fun v =>
    { drop := partNeed v 0, enable := partValue v 1, profile := partValue v 2
      expected := (partList v 3).map fun l => match l with
        | [_, x] => .set x.toNat
        | _ => .clear }

/-- ALARM_SEVERITY (R161). -/
structure AlarmSeverityParts where
  record : Int
  severity : Option Int
  raisePersistence : Option Int
  clearPersistence : Option Int
  deriving DecidableEq, Repr

def parseAlarmSeverity (b : List Byte) : Option AlarmSeverityParts :=
  (parseBody [.need 1, .may 1, .may 4, .may 4] b).map fun v =>
    { record := partNeed v 0, severity := partValue v 1, raisePersistence := partValue v 2
      clearPersistence := partValue v 3 }

/-- ALARM_READ (R166): first record and count. -/
structure AlarmReadParts where
  first : Option Int
  count : Option Int
  deriving DecidableEq, Repr

def parseAlarmRead (b : List Byte) : Option AlarmReadParts :=
  (parseBody [.may 1, .may 4] b).map fun v => { first := partValue v 0, count := partValue v 1 }

/-- ALARM_SEEN (R164): the record numbers, one byte each, to the end of the body. -/
def parseAlarmSeen (b : List Byte) : List Nat := b.map (·.toNat)

/-- ALARM_MASK (R163): alarm mask, event mask, line enable code. -/
structure AlarmMaskParts where
  mask : Option Int
  eventMask : Option Int
  lineEnable : Option Int
  deriving DecidableEq, Repr

def parseAlarmMask (b : List Byte) : Option AlarmMaskParts :=
  (parseBody [.may 4, .may 2, .may 1] b).map fun v =>
    { mask := partValue v 0, eventMask := partValue v 1, lineEnable := partValue v 2 }

/-- PORT_SET (R179): maximum segment size and silence time. -/
structure PortSetParts where
  segment : Option Int
  silence : Option Int
  deriving DecidableEq, Repr

def parsePortSet (b : List Byte) : Option PortSetParts :=
  (parseBody [.may 4, .may 4] b).map fun v => { segment := partValue v 0, silence := partValue v 1 }

/-- A body of no parts, as of TIME_READ, STATE_READ and AUTH_RELEASE: it parses when it is empty. -/
def parseEmpty (b : List Byte) : Option Unit := (parseBody [] b).map fun _ => ()

end Sys2Proof.Machine
end

