-- ==== Sys2Proof/Machine/Flags.lean ====
section
/-! DEFINITION. Everything that is computed from the state: the grade, candidacy and ranking, the alarm conditions
with the persistence machine that follows them, the contacts, ATTN and the port status block. -/

namespace Sys2Proof.Machine

/-! ### Kinds of slot (00_scope.md, "IDENTIFIERS") -/

def Slot.isFq (i : Slot) : Bool := 2 ≤ i.val && i.val < 4
def Slot.isTa (i : Slot) : Bool := i.val < 2

/-- The slot of a TA input, of an FQ input, and the slot that a port reports into (R41). -/
def Slot.ofTa (i : InputIx) : Slot := ⟨i.val, by omega⟩
def Slot.ofFq (i : InputIx) : Slot := ⟨2 + i.val, by omega⟩
def Slot.ofPort (p : Port) : Slot := ⟨4 + p.val, by omega⟩

/-! ### Grades (R15, R99) -/

/-- The grade of a traced episode from its error estimate and the thresholds (R99). -/
def HoldParams.gradeOf (h : HoldParams) (hee : Int) : Grade :=
  if hee ≤ h.t1 then .hold1 else if hee ≤ h.t2 then .hold2 else if hee ≤ h.t3 then .hold3 else .hold4

/-- The estimate of the episode record, 0 when there is none. -/
def Holdover.estimate (h : Holdover) : Int :=
  match h.episode with
  | some e => e.hee
  | none => 0

/-- The grade that the timebase state, the held grade and the estimate give (R15). -/
def State.gradeOf (s : State) : Grade :=
  match s.tb.state with
  | .warmup => .free
  | .freerun => .free
  | .fault => .free
  | .locked => .lock
  | .acquiring => s.tb.heldGrade.getD .free
  | .holdover => if s.tb.episode = some .traced then s.hp.gradeOf s.hold.estimate else .free
  | .assisted => if s.tb.episode = some .traced then s.hp.gradeOf s.hold.estimate else .free

/-- The leap pending indication (R21): the counter's seconds lie from 60 to 1 before the effect second. -/
def State.leapPending (s : State) : Bool :=
  match s.tb.leap with
  | some l => 1 ≤ (l.effect : Int) - s.counter.sec && (l.effect : Int) - s.counter.sec ≤ 60
  | none => false

/-! ### Candidates and ranking (R56, R57) -/

/-- R57. -/
def State.phaseCandidate (s : State) (i : Slot) : Bool :=
  !Slot.isFq i && s.refs[i].state = .qualified && 1 ≤ s.refs[i].priority &&
    (match s.refs[i].partner with
      | none => true
      | some q => s.refs[q].state = .qualified && s.refs[i].pairResult = some true)

/-- R57. -/
def State.assistCandidate (s : State) (i : Slot) : Bool :=
  Slot.isFq i && s.refs[i].state = .qualified && 1 ≤ s.refs[i].priority

/-- Phase ranking: rank quality, then priority, then slot, lower first (R56). -/
def State.ranksBefore (s : State) (i j : Slot) : Bool :=
  s.refs[i].rankQuality < s.refs[j].rankQuality ||
    (s.refs[i].rankQuality = s.refs[j].rankQuality &&
      (s.refs[i].priority < s.refs[j].priority ||
        (s.refs[i].priority = s.refs[j].priority && i.val < j.val)))

/-- The order among FQ records: priority, then slot (R56). -/
def State.assistBefore (s : State) (i j : Slot) : Bool :=
  s.refs[i].priority < s.refs[j].priority || (s.refs[i].priority = s.refs[j].priority && i.val < j.val)

/-- The first of the slots that satisfy `p`, by an order. -/
def bestSlot (before : Slot → Slot → Bool) (p : Slot → Bool) : Option Slot :=
  (List.finRange 8).foldl
    (fun best i =>
      if p i then
        match best with
        | none => some i
        | some j => if before i j then some i else best
      else best)
    none

/-- The forced slot counts as a phase candidate while it is QUALIFIED (R69). -/
def State.forcedCandidate (s : State) : Bool :=
  match s.sel.force with
  | some f => s.refs[f].state = .qualified
  | none => false

/-! ### Alarm conditions (R156) -/

/-- The grade is one of the HOLD grades. -/
def Grade.isHold (g : Grade) : Bool := g = .hold1 || g = .hold2 || g = .hold3 || g = .hold4

/-- DROP_FAULT: enabled and not SERVING, or a unit status other than OK (R141). -/
def DropRec.faulty (d : DropRec) : Bool :=
  (d.enabled && d.state ≠ .serving) || (d.unitStatus.isSome && d.unitStatus ≠ some .ok)

/-- The port owns at least one output (R126). -/
def State.ownsOutput (s : State) (p : Port) : Bool :=
  anyIndex 8 (fun d => s.drops[d].owner = some p) || anyIndex 6 (fun x => s.px[x].owner = some p)

/-- REF_FAULT: enabled, and ABSENT or in HOLDOFF (R69). -/
def RefRecord.faulty (r : RefRecord) : Bool := r.enabled && (r.state = .absent || r.state = .holdoff)

/-- The condition of each record, as its owner hands it over (R156). -/
def State.conditionOf (s : State) (i : AlarmIx) : Bool :=
  if i.val = 0 then s.tb.state = .fault
  else if i.val = 1 then s.tb.grade = .hold4
  else if i.val = 2 then s.tb.grade = .free
  else if i.val = 3 then s.tb.grade = .hold3 || s.tb.grade = .hold4
  else if i.val = 4 then
    !(anyIndex 8 (fun k => s.phaseCandidate k || s.assistCandidate k) || s.forcedCandidate)
  else if i.val = 5 then s.sched.squelched
  else if i.val = 6 then s.tb.grade.isHold
  else if i.val = 7 then anyIndex 64 (fun k => (s.conflicts[k]).flag)
  else if i.val = 8 then s.loop.freqLimit
  else if i.val = 9 then s.sched.overrunHold.isSome
  else if i.val = 10 then anyIndex 8 (fun d => s.drops[d].state = .serving && s.drops[d].backlog = 15)
  else if i.val = 11 then s.holder.isNone
  else if h : 12 ≤ i.val ∧ i.val < 20 then (s.drops[(⟨i.val - 12, by omega⟩ : DropIx)]).faulty
  else if h : 20 ≤ i.val ∧ i.val < 28 then (s.refs[(⟨i.val - 20, by omega⟩ : Slot)]).faulty
  else if h : 28 ≤ i.val ∧ i.val < 32 then
    !(s.ports[(⟨i.val - 28, by omega⟩ : Port)]).online && s.ownsOutput ⟨i.val - 28, by omega⟩
  else false

/-! ### The persistence machine (R157 to R159) -/

/-- A record is standing while it is ACTIVE or CLEARING (R155). -/
def AlarmRec.standing (a : AlarmRec) : Bool := a.state = .active || a.state = .clearing

/-- A transition shown to a port: its unseen flag, then the notice (R159). -/
def State.showTransition (s : State) (i : AlarmIx) (n : Notice) (p : Port) : State :=
  if s.ports[p].online && (s.views[p]).mask.getLsbD i.val then
    (s.setView p { s.views[p] with unseen := (s.views[p]).unseen ||| BitVec.twoPow 32 i.val }).notifyPort p n
  else s

/-- A raise (R159). -/
def State.raiseAlarm (s : State) (i : AlarmIx) : State :=
  forEach 4
    (s.setAlarm i { s.alarms[i] with
      state := .active, timer := none, raiseCount := countUp Config.max16 (s.alarms[i]).raiseCount,
      lastRaise := some s.counter })
    fun p t => t.showTransition i (s.notice .alarmRaised i.val AlarmState.raising.code AlarmState.active.code) p

/-- A clear (R159). -/
def State.clearAlarm (s : State) (i : AlarmIx) : State :=
  forEach 4
    (s.setAlarm i { s.alarms[i] with state := .clear, timer := none, lastClear := some s.counter })
    fun p t => t.showTransition i (s.notice .alarmCleared i.val AlarmState.clearing.code AlarmState.clear.code) p

/-- A condition that appears (R157). -/
def State.conditionAppears (s : State) (i : AlarmIx) : State :=
  match (s.alarms[i]).state with
  | .clear =>
    if (s.alarms[i]).raisePersistence = 0 then
      (s.setAlarm i { s.alarms[i] with condition := true, state := .raising }).raiseAlarm i
    else
      s.setAlarm i { s.alarms[i] with
        condition := true, state := .raising, timer := some (s.monitorIn (s.alarms[i]).raisePersistence) }
  | .clearing => s.setAlarm i { s.alarms[i] with condition := true, state := .active, timer := none }
  | .raising => s.setAlarm i { s.alarms[i] with condition := true }
  | .active => s.setAlarm i { s.alarms[i] with condition := true }

/-- A condition that goes (R157). -/
def State.conditionGoes (s : State) (i : AlarmIx) : State :=
  match (s.alarms[i]).state with
  | .raising => s.setAlarm i { s.alarms[i] with condition := false, state := .clear, timer := none }
  | .active =>
    if (s.alarms[i]).clearPersistence = 0 then
      (s.setAlarm i { s.alarms[i] with condition := false, state := .clearing }).clearAlarm i
    else
      s.setAlarm i { s.alarms[i] with
        condition := false, state := .clearing, timer := some (s.monitorIn (s.alarms[i]).clearPersistence) }
  | .clear => s.setAlarm i { s.alarms[i] with condition := false }
  | .clearing => s.setAlarm i { s.alarms[i] with condition := false }

/-- A condition handed over; the value it already has changes nothing (R157). -/
def State.setCondition (s : State) (i : AlarmIx) (present : Bool) : State :=
  if (s.alarms[i]).condition = present then s
  else if present then s.conditionAppears i
  else s.conditionGoes i

/-- The condition changes of one event, in record index order, after its notices (R167). -/
def State.syncAlarms (s : State) : State := forEach 32 s fun i t => t.setCondition i (s.conditionOf i)

/-- The persistence timer of a record reaches 0 (R158). -/
def State.persistenceExpires (s : State) (i : AlarmIx) : State :=
  match (s.alarms[i]).state with
  | .raising => s.raiseAlarm i
  | .clearing => s.clearAlarm i
  | .clear => s.setAlarm i { s.alarms[i] with timer := none }
  | .active => s.setAlarm i { s.alarms[i] with timer := none }

/-! ### Contacts, ATTN and the status block -/

/-- ALM_CRIT (R160). -/
def State.almCrit (s : State) : Bool :=
  anyIndex 32 fun i => (s.alarms[i]).standing && (s.alarms[i]).severity = .critical

/-- ALM_MAJ (R160). -/
def State.almMaj (s : State) : Bool :=
  anyIndex 32 fun i => (s.alarms[i]).standing && ((s.alarms[i]).severity = .critical || (s.alarms[i]).severity = .major)

/-- The records that the mask enables and whose unseen flag is set. -/
def View.shown (v : View) : BitVec 32 := v.mask &&& v.unseen

/-- ATTN (R162). -/
def View.attn (v : View) : Bool := v.lineEnable && v.shown ≠ 0

/-- The top unseen alarm, 32 for none (R162). -/
def View.topUnseen (v : View) : Nat := ((List.range 32).find? fun i => v.shown.getLsbD i).getD 32

/-- 1 when the condition holds. -/
def bitIf (b : Bool) (weight : Nat) : Nat := if b then weight else 0

end Sys2Proof.Machine
end

