-- ==== Sys2Proof/Machine/Holdover.lean ====
section
/-! DEFINITION. The holdover unit: the running minute and the frequency history (R86 to R88), restored sets (R92), the
entry computation of a traced episode (R94 to R96) and its minutes (R97, R98). Divisors are positive throughout, so
that `/` on `Int` is the floor that the manual asks for. -/

namespace Sys2Proof.Machine

/-! ### The running minute -/

/-- Mark the running minute disturbed (R87). -/
def State.disturb (s : State) : State :=
  s.setHold { s.hold with acc := { s.hold.acc with disturbed := true } }

/-- Mark the minute not yet opened disturbed: the carried mark (R87). -/
def State.disturbNext (s : State) : State :=
  s.setHold { s.hold with acc := { s.hold.acc with carried := true } }

/-- The lesser, or the greater, of a sample and what is held. -/
def leastOf (o : Option Int) (y : Int) : Int :=
  match o with
  | some l => min l y
  | none => y
def greatestOf (o : Option Int) (y : Int) : Int :=
  match o with
  | some g => max g y
  | none => y

/-- One sample of the loop steer value, with the class it saw (R87, R86). -/
def Accumulator.sample (a : Accumulator) (y : Int) (cls : Nat) : Accumulator :=
  { a with
    sum := a.sum + y, count := a.count + 1, least := some (leastOf a.least y)
    greatest := some (greatestOf a.greatest y), cls := cls }

/-- The sample of a counter second boundary (R87). -/
def State.sampleSecond (s : State) : State :=
  s.setHold { s.hold with acc := s.hold.acc.sample s.loop.y s.loop.cls }

/-- The mean of the minute so far. -/
def Accumulator.mean (a : Accumulator) : Int := a.sum / a.count

/-- The record that a closing minute makes (R86, R88). -/
def Accumulator.toRecord (a : Accumulator) (index : Int) (slot : Nat) : MinuteRecord :=
  { index := index, mean := a.mean
    least := max (-32768) (a.least.getD a.mean - a.mean)
    greatest := min 32767 (a.greatest.getD a.mean - a.mean)
    samples := min 255 a.count, slot := slot, cls := a.cls, disturbed := a.disturbed, restored := false }

/-- The index is greater than that of the newest record held (R88). -/
def newerThanAll (history : List MinuteRecord) (index : Int) : Bool :=
  match history.getLast? with
  | some r => r.index < index
  | none => true

/-- Close the minute: append its record when it may have one, then open the accumulator (R88). -/
def Holdover.closeMinute (h : Holdover) (index : Int) (slot : Nat) (lockedNow : Bool) : Holdover :=
  { h with
    history :=
      if h.acc.locked && newerThanAll h.history index && 1 ≤ h.acc.count then
        pushBounded Config.historyMax h.history (h.acc.toRecord index slot)
      else h.history
    acc :=
      { h.acc with
        locked := lockedNow, sum := 0, count := 0, least := none, greatest := none
        disturbed := h.acc.carried, carried := false } }

/-- The minute boundary at the holdover unit, and the raise of the site minute index (R3, R88). -/
def State.closeMinute (s : State) : State :=
  (s.setHold (s.hold.closeMinute s.tb.minuteIndex (slotCode s.sel.phase) (s.tb.state = .locked))).setTb
    { s.tb with minuteIndex := min Config.maxMinuteIndex (s.tb.minuteIndex + 1) }

/-! ### Restored sets (R92, R190) -/

/-- A supplied record as it is placed: index rebased, ranges brought in, restored flag set. -/
def MinuteRecord.placed (r : MinuteRecord) (newest : Int) : MinuteRecord :=
  { r with
    index := r.index - newest - 1, least := min 0 r.least, greatest := max 0 r.greatest
    samples := max 1 r.samples, restored := true }

/-- The index of the newest record of a set. -/
def newestIndex (l : List MinuteRecord) : Int :=
  match l.getLast? with
  | some r => r.index
  | none => 0

/-- The sum of the means. -/
def meanSum (l : List MinuteRecord) : Int := (l.map (·.mean)).sum

/-- The mean of means, 0 for no record. -/
def meanOfMeans (l : List MinuteRecord) : Int := meanSum l / l.length

/-- The newest records that are not disturbed, at most `n` of them, oldest first. -/
def newestClean (n : Nat) (l : List MinuteRecord) : List MinuteRecord :=
  ((l.filter fun r => !r.disturbed).reverse.take n).reverse

/-- Place a restored set into the history and set y_free and the steer value in force (R92). -/
def State.placeRestored (s : State) (set : List MinuteRecord) : State :=
  let placed := set.map fun r => r.placed (newestIndex set)
  let yFree := meanOfMeans (newestClean 16 placed)
  (s.setHold { s.hold with history := placed, staging := [] }).setTb
    { s.tb with yFree := yFree, steer := clampTo s.lp.yMax yFree }

/-- Empty the restore staging list (R93). -/
def State.emptyStaging (s : State) : State := s.setHold { s.hold with staging := [] }

/-! ### The entry computation -/

/-- The records taken at an opening: past the guard, not disturbed, at most N, oldest first (R94). -/
def HoldParams.choose (h : HoldParams) (history : List MinuteRecord) : List MinuteRecord :=
  newestClean h.recordCount (history.take (history.length - h.guardRecords))

/-- The greatest mean less the least. -/
def meanSpread (l : List MinuteRecord) : Int :=
  match l with
  | [] => 0
  | r :: rest => rest.foldl (fun m x => max m x.mean) r.mean - rest.foldl (fun m x => min m x.mean) r.mean

/-- y_h (R95). -/
def holdFrequency (l : List MinuteRecord) (steer : Int) : Int :=
  if l.length = 0 then steer else meanOfMeans l

/-- σ (R95). -/
def HoldParams.spread (h : HoldParams) (l : List MinuteRecord) : Int :=
  if l.length ≤ 1 then 1000 else max (meanSpread l / 2) h.spreadFloor

/-- The centre of a half: the mean of its minute indices (R96). -/
def centre (l : List MinuteRecord) : Int := (l.map (·.index)).sum / l.length

/-- d (R96). -/
def HoldParams.driftOf (h : HoldParams) (l : List MinuteRecord) : Int :=
  if 4 ≤ l.length && h.drift then
    clampTo h.driftLimit
      ((meanOfMeans (l.drop (l.length / 2)) - meanOfMeans (l.take (l.length / 2))) * 60 /
        (centre (l.drop (l.length / 2)) - centre (l.take (l.length / 2))))
  else 0

/-- TE0 in ns (R94). -/
def HoldParams.startingError (h : HoldParams) (lastU : Option Int) : Int :=
  match lastU with
  | some u => max h.lockNoise ((u.natAbs : Int) / 1000)
  | none => h.lockNoise

/-- The estimate of R98. -/
def EpisodeRecord.formHee (e : EpisodeRecord) : Int :=
  min Config.max32
    (e.te0 + e.sigma * 60 * e.mH / 1000 + e.aging * (e.mH * e.mH) / 2000 + e.assistUncertainty * 60 * e.mA / 1000)

/-- The steer value of HOLDOVER in a traced episode, clamped (R97). -/
def EpisodeRecord.steerAt (e : EpisodeRecord) (yMax : Int) : Int := clampTo yMax (e.yH + e.drift * e.mH / 60)

/-- The entry computation on the opening of a traced episode (R94 to R96). -/
def State.openEpisode (s : State) : State :=
  let taken := s.hp.choose s.hold.history
  let te0 := s.hp.startingError s.loop.lastU
  s.setHold { s.hold with
    episode := some
      { closed := none, opening := s.counter, openingIndex := s.tb.minuteIndex, c := taken.length
        yH := holdFrequency taken s.tb.steer, drift := s.hp.driftOf taken, sigma := s.hp.spread taken, te0 := te0
        aging := s.hp.aging, assistUncertainty := s.hp.assistUncertainty, mH := 0, mA := 0
        hee := min Config.max32 te0 } }

/-- The episode ends: its record, when a traced one, is marked closed with the cause (R101, R102). -/
def State.closeEpisode (s : State) (cause : TbState) : State :=
  (if s.tb.episode = some .traced then
    match s.hold.episode with
    | some e => s.setHold { s.hold with episode := some { e with closed := some cause } }
    | none => s
  else s).setTb { s.tb with episode := none }

/-! ### The minutes of a traced episode -/

/-- Raise one minute count and form the estimate (R97, R98). -/
def EpisodeRecord.minute (e : EpisodeRecord) (assisted : Bool) : EpisodeRecord :=
  let counted := if assisted then { e with mA := e.mA + 1 } else { e with mH := e.mH + 1 }
  { counted with hee := counted.formHee }

/-- The minute boundary in a traced episode; the grade is formed after it (R97). -/
def State.episodeMinute (s : State) : State :=
  if s.tb.episode = some .traced then
    match s.hold.episode with
    | some e =>
      if s.tb.state = .holdover then
        (s.setHold { s.hold with episode := some (e.minute false) }).setTb
          { s.tb with steer := (e.minute false).steerAt s.lp.yMax }
      else s.setHold { s.hold with episode := some (e.minute true) }
    | none => s
  else s

end Sys2Proof.Machine
end

