-- ==== Sys2Proof/Machine/Timebase.lean ====
section
/-! DEFINITION. The timebase controller: entries to its states and the reports that move it (R7 to R12, R81, R83), its
grade and its notices (R15, R16), and the making and dropping of a pending step (R17, R20). Entry to FAULT and the
return from it touch every block and stand in Machine/Faults.lean. -/

namespace Sys2Proof.Machine

/-! ### State, grade and their notices -/

/-- Set the timebase state, with its notice (R16). -/
def State.setTbState (s : State) (x : TbState) : State :=
  if s.tb.state = x then s
  else (s.setTb { s.tb with state := x }).notifyAll (s.notice .timebaseState 0 s.tb.state.code x.code)

/-- Work the grade out afresh, with its notice (R15, R16). -/
def State.regrade (s : State) : State :=
  if s.gradeOf = s.tb.grade then s
  else (s.setTb { s.tb with grade := s.gradeOf }).notifyAll
    (s.notice .timebaseState 1 s.tb.grade.code s.gradeOf.code)

/-! ### The pending step -/

/-- At least 10 ms remain before the next counter second boundary (R17). -/
def Reading.tenMsRemain (r : Reading) : Bool :=
  r.ps * Config.fracPerPs + r.frac ≤ (Config.psPerSecond - 10 * Config.psPerMs) * Config.fracPerPs

/-- The due second of a step made at a reading (R17). -/
def Reading.dueSecond (r : Reading) : Nat := (if r.tenMsRemain then r.sec + 1 else r.sec + 2) % Config.siteSeconds

/-- Make a pending step (R17). -/
def State.makeStep (s : State) (amount : Int) (origin : StepOrigin) : State :=
  s.setTb { s.tb with pendingStep := some { amount := amount, origin := origin, due := s.counter.dueSecond } }

/-- The amount of the pending step, 0 for none. -/
def Timebase.pendingAmount (t : Timebase) : Int :=
  match t.pendingStep with
  | some p => p.amount
  | none => 0

/-- Drop a pending step of automatic or label origin (R20). -/
def State.dropLoopStep (s : State) : State :=
  match s.tb.pendingStep with
  | some p => if p.origin = .manual then s else s.setTb { s.tb with pendingStep := none }
  | none => s

/-! ### Leaving and entering states -/

/-- What each state gives up as it is left: LOCKED the minute flags (R78, R87), ACQUIRING its held grade and steps
(R6, R20), ASSISTED its phase origin (R82). -/
def State.leaveState (s : State) : State :=
  match s.tb.state with
  | .locked =>
    (s.setLoop { s.loop with minuteHeld := false }).setHold
      { s.hold with acc := { s.hold.acc with locked := false } }
  | .acquiring => (s.setTb { s.tb with heldGrade := none }).dropLoopStep
  | .assisted => s.setLoop { s.loop with phi0 := none }
  | .warmup => s
  | .freerun => s
  | .holdover => s
  | .fault => s

/-- What the loop does as it loses the counter's steering (R76, R83). -/
def State.loopReleased (s : State) : State :=
  s.setLoop { s.loop with freqLimit := false, phi0 := none, minuteHeld := false }

/-- The loop takes over the steering from FREERUN or HOLDOVER: y and I are loaded (R81). -/
def State.loadLoop (s : State) : State :=
  if s.tb.state = .freerun ∨ s.tb.state = .holdover then
    s.setLoop { s.loop with y := s.tb.steer, integ := s.tb.steer * 65536 }
  else s

/-- Set the loop class; a change marks the minute disturbed (R77). -/
def State.setClass (s : State) (c : Nat) : State :=
  if s.loop.cls = c then s else (s.setLoop { s.loop with cls := c }).disturb

/-- The steer value in force becomes the loop's (R2). -/
def State.steerByLoop (s : State) : State := s.setTb { s.tb with steer := s.loop.y }

/-- Entry to FREERUN (R2, R7, R83). -/
def State.enterFreerun (s : State) : State :=
  let t := s.leaveState.loopReleased
  ((t.setTb { t.tb with traced := false, steer := clampTo t.lp.yMax t.tb.yFree }).setTbState .freerun).regrade

/-- Entry to ACQUIRING from LOCKED: class, I and y kept, held grade LOCK (R9, R83). -/
def State.reacquire (s : State) : State :=
  let t := s.leaveState
  (((t.setLoop { t.loop with lockRun := 0 }).setTb { t.tb with heldGrade := some .lock }).emptyStaging.setTbState
    .acquiring).regrade

/-- Entry to ACQUIRING from FREERUN, HOLDOVER or ASSISTED: class 0, held grade the grade at that moment, the episode
closed (R8, R11, R81, R83, R101). -/
def State.acquire (s : State) : State :=
  let t := ((s.loadLoop.leaveState.closeEpisode .acquiring).setClass 0).emptyStaging
  (((t.setLoop { t.loop with lockRun := 0 }).setTb { t.tb with heldGrade := some s.tb.grade }).steerByLoop.setTbState
    .acquiring).regrade

/-- Entry to LOCKED on a lock report (R9, R79, R83). -/
def State.enterLocked (s : State) : State :=
  let t := s.leaveState
  (((t.setLoop { t.loop with lockRun := 0, lossRun := 0, minuteHeld := false, firstAcq := false }).setTb
    { t.tb with traced := true }).setTbState .locked).regrade

/-- Open an episode when none is present, marked by the traced flag (R7). -/
def State.beginEpisode (s : State) : State :=
  match s.tb.episode with
  | some _ => s
  | none =>
    if s.tb.traced then s.openEpisode.setTb { s.tb with episode := some .traced }
    else s.setTb { s.tb with episode := some .untraced }

/-- Entry to ASSISTED (R8, R10, R11, R81, R83). -/
def State.enterAssisted (s : State) : State :=
  let t := s.beginEpisode.loadLoop.leaveState.emptyStaging
  ((t.setLoop { t.loop with phi0 := none, minuteHeld := false }).steerByLoop.setTbState .assisted).regrade

/-- Entry to HOLDOVER: in a traced episode the holdover unit sets the steer value, in an untraced one it is held
(R2, R10, R11, R96, R97). -/
def State.enterHoldover (s : State) : State :=
  let t := s.beginEpisode.leaveState.loopReleased
  let steer :=
    if t.tb.episode = some .traced then
      match t.hold.episode with
      | some e => e.steerAt t.lp.yMax
      | none => t.tb.steer
    else t.tb.steer
  ((t.setTb { t.tb with steer := steer }).setTbState .holdover).regrade

/-! ### Reports that move the timebase -/

/-- The selected phase reference is lost, or the force is set on, in ACQUIRING or LOCKED (R10, R12). -/
def State.phaseGone (s : State) : State :=
  if s.tb.state = .acquiring ∨ s.tb.state = .locked then
    if s.sel.assist.isSome then s.enterAssisted
    else if s.tb.traced then s.enterHoldover
    else s.enterFreerun
  else s

/-- The tests of FREERUN (R8). -/
def State.freerunTests (s : State) : State :=
  if s.tb.state = .freerun then
    if s.sel.phase.isSome && !s.tb.force then s.acquire
    else if s.sel.assist.isSome then s.enterAssisted
    else s
  else s

/-- A phase reference is selected and the force is off: FREERUN, HOLDOVER and ASSISTED go to ACQUIRING (R8, R11). -/
def State.phaseSelected (s : State) : State :=
  if (s.tb.state = .freerun ∨ s.tb.state = .holdover ∨ s.tb.state = .assisted) ∧ s.tb.force = false then s.acquire
  else s

/-- The selected phase reference is switched (R9, R83). -/
def State.phaseSwitched (s : State) : State :=
  if s.tb.state = .locked then s.reacquire
  else if s.tb.state = .acquiring then s.setLoop { s.loop with lockRun := 0 }
  else s

/-- The assist reference appears (R8, R11). -/
def State.assistAppeared (s : State) : State :=
  if s.tb.state = .holdover then s.enterAssisted else s.freerunTests

/-- The assist reference is lost (R11). -/
def State.assistLost (s : State) : State :=
  if s.tb.state = .assisted then s.enterHoldover else s

/-- The assist reference changes: a new phase origin (R11, R82). -/
def State.assistChanged (s : State) : State :=
  if s.tb.state = .assisted then s.setLoop { s.loop with phi0 := none } else s

/-- Set the holdover force (R12). -/
def State.setForce (s : State) (on : Bool) : State :=
  if s.tb.force = on then s
  else if on then (s.setTb { s.tb with force := true }).dropLoopStep.phaseGone
  else if s.sel.phase.isSome then (s.setTb { s.tb with force := false }).phaseSelected
  else s.setTb { s.tb with force := false }

/-- The warm-up expires (R8). -/
def State.warmupEnds (s : State) : State :=
  (s.setOsc { s.osc with warmup := none }).enterFreerun.freerunTests

end Sys2Proof.Machine
end

