-- ==== Sys2Proof/Machine/Loop.lean ====
section
/-! DEFINITION. The discipline loop: gains and the update (R75, R77), descent (R78), lock and lock loss (R79, R80), the
step decision (R74), and what becomes of a measurement of the selected phase reference (R18, R23, R73) or of the
assist reference (R82). -/

namespace Sys2Proof.Machine

/-! ### Gains and the update -/

/-- Gp of a class, scaled by 65,536 (R77). -/
def gainP : Nat → Int
  | 0 => 32768 | 1 => 16384 | 2 => 8192 | 3 => 4096 | 4 => 2048 | 5 => 1024 | _ => 512

/-- Gi of a class, scaled by 65,536 (R77). -/
def gainI : Nat → Int
  | 0 => 8192 | 1 => 2048 | 2 => 512 | 3 => 128 | 4 => 32 | 5 => 8 | _ => 2

/-- The integrator after an update (R75, step 2). -/
def Loop.nextIntegrator (l : Loop) (yMax : Int) (cls : Nat) (u : Int) : Int :=
  clampTo (yMax * 65536) (l.integ + u * gainI cls)

/-- The steer value of an update before its clamp (R75, steps 1 and 3). -/
def Loop.rawSteer (l : Loop) (yMax : Int) (cls : Nat) (u : Int) : Int :=
  l.nextIntegrator yMax cls u / 65536 + u * gainP cls / 65536

/-- One update at a class (R75). -/
def Loop.updated (l : Loop) (yMax : Int) (cls : Nat) (u : Int) : Loop :=
  { l with
    integ := l.nextIntegrator yMax cls u
    y := clampTo yMax (l.rawSteer yMax cls u)
    freqLimit := decide (clampTo yMax (l.rawSteer yMax cls u) ≠ l.rawSteer yMax cls u) }

/-- An update in the part: the new steer value is in force, and the frequency limit disturbs the minute (R75). -/
def State.loopUpdate (s : State) (cls : Nat) (u : Int) : State :=
  let t := (s.setLoop (s.loop.updated s.lp.yMax cls u)).steerByLoop
  if t.loop.freqLimit then t.disturb else t

/-- A phase update also records its u (R75). -/
def State.phaseUpdate (s : State) (u : Int) : State :=
  let t := s.loopUpdate s.loop.cls u
  t.setLoop { t.loop with lastU := some u }

/-- Magnitude compared with a threshold in ns (R79, R80). -/
def magnitude (u : Int) : Nat := u.natAbs

/-- The lock count of an update in ACQUIRING (R79). -/
def State.countLock (s : State) (u : Int) : State :=
  if magnitude u < s.lp.lockThreshold * 1000 then
    if 8 ≤ s.loop.lockRun + 1 then s.enterLocked
    else s.setLoop { s.loop with lockRun := s.loop.lockRun + 1 }
  else s.setLoop { s.loop with lockRun := 0 }

/-- The loss count of an update in LOCKED (R80). -/
def State.countLoss (s : State) (u : Int) : State :=
  if s.lp.lossThreshold * 1000 < magnitude u then
    if 3 ≤ s.loop.lossRun + 1 then (s.setLoop { s.loop with lossRun := 0 }).reacquire
    else s.setLoop { s.loop with lossRun := s.loop.lossRun + 1 }
  else s.setLoop { s.loop with lossRun := 0 }

/-- The step decision asks for a step (R74). -/
def State.stepAsked (s : State) (u : Int) : Bool :=
  s.lp.stepThreshold < (magnitude u : Int) &&
    (s.lp.stepPolicy = .always || (s.lp.stepPolicy = .firstOnly && s.loop.firstAcq))

/-! ### Descent (R78) -/

/-- The descent of a minute boundary, and the minute-held flag set for the minute that opens. -/
def State.descend (s : State) : State :=
  let t :=
    if s.loop.minuteHeld && s.loop.cls < s.lp.trackingClass then
      (s.setLoop { s.loop with cls := s.loop.cls + 1 }).disturbNext
    else s
  t.setLoop { t.loop with minuteHeld := decide (t.tb.state = .locked) }

/-! ### A measurement of the selected phase reference -/

/-- The loop's use of the measurement (R18, R73, R74, R79, R80). -/
def State.loopUse (s : State) (good : Bool) (u : Int) : State :=
  if s.tb.pendingStep.isSome || s.tb.force then s
  else if s.tb.state = .acquiring then
    if good then
      if s.stepAsked u then (s.setLoop { s.loop with lockRun := 0 }).makeStep u .automatic
      else (s.phaseUpdate u).countLock u
    else s.setLoop { s.loop with lockRun := 0 }
  else if s.tb.state = .locked then
    if good then (s.phaseUpdate u).countLoss u else s
  else s

/-- The label of a measurement less the counter's second for its reference instant, taken on the reading as it will
stand after any pending step (R18). -/
def State.labelDifference (s : State) (at_ : Nat) (label : Nat) : Int :=
  (label : Int) - nearestSecond (moveInstant s.tb.pendingAmount at_)

/-- The label comparison of ACQUIRING (R18, R34). -/
def State.compareLabel (s : State) (m : Measurement) : State :=
  if s.tb.state = .acquiring ∧ m.causes.all (· = .labelSecond) then
    match m.labelSec with
    | none => s
    | some label =>
      let k := s.labelDifference m.time.instant label
      if k = 0 then { s with aligned := true }
      else
        match s.tb.pendingStep with
        | some p => s.setTb { s.tb with pendingStep := some { p with amount := p.amount + k * Config.psPerSecond } }
        | none => s.makeStep (k * Config.psPerSecond) .label
  else s

/-- The leap field as an amount. -/
def LeapField.amount : LeapField → Int
  | .none => 0 | .plus => 1 | .minus => -1

/-- A UTC offset lies in its range (R21). -/
def utcInRange (v : Int) : Bool := inRange (-32768) 32767 v

/-- The leap record that a taken label gives (R23). -/
def State.leapFromLabel (s : State) (utc : Int) (f : LeapField) (leapSec : Nat) : Option Leap :=
  if f ≠ .none ∧ s.counter.sec < leapSec ∧ utcInRange (utc + f.amount) then
    some { effect := leapSec, offset := utc + f.amount }
  else none

/-- Label adoption (R23). -/
def State.adoptLabel (s : State) (m : Measurement) : State :=
  match m.utc, m.leap, m.leapSec with
  | some utc, some f, some leapSec =>
    if s.tb.labelAdoption && m.causes.isEmpty && s.tb.lastLabel ≠ some { offset := utc, leap := f } then
      s.setTb { s.tb with
        utcOffset := utc, leap := s.leapFromLabel utc f leapSec
        lastLabel := some { offset := utc, leap := f } }
    else s
  | _, _, _ => s

/-- A measurement of the selected phase reference, as one event; one that straddles a step is discarded whole (R18). -/
def State.takePhase (s : State) (m : Measurement) : State :=
  if m.straddles then s
  else ((s.loopUse m.causes.isEmpty (m.u.getD 0)).compareLabel m).adoptLabel m

/-! ### A measurement of the assist reference (R73, R82) -/

def State.takeAssist (s : State) (m : Measurement) : State :=
  if s.tb.state = .assisted ∧ m.causes = [] then
    match m.phi with
    | none => s
    | some phi =>
      match s.loop.phi0 with
      | none => s.setLoop { s.loop with phi0 := some phi }
      | some phi0 => s.loopUpdate s.lp.assistClass (-(phi - phi0))
  else s

end Sys2Proof.Machine
end

