-- ==== Sys2Proof/Machine/Qualifier.lean ====
section
/-! DEFINITION. The reference qualifier and selector: scoring and the states of a record (R50 to R54), pairing (R55),
label conflict (R67), re-evaluation and its reports (R58 to R65), and a measurement taken whole (R66). -/

namespace Sys2Proof.Machine

/-! ### Records and pairs -/

/-- The place of an unordered pair of slots in the table of pairs. -/
def pairIndex (i j : Slot) : Fin 64 :=
  ⟨8 * min i.val j.val + max i.val j.val, by omega⟩

/-- The pair's run count becomes 0 and its flag goes off. -/
def State.clearPair (s : State) (i j : Slot) : State :=
  { s with conflicts := s.conflicts.set (pairIndex i j) { s.conflicts[pairIndex i j] with run := 0, flag := false } }

/-- Set a record; when it leaves QUALIFIED, every pair of it is cleared (R67). -/
def State.moveRef (s : State) (i : Slot) (r : RefRecord) : State :=
  if (s.refs[i]).state = .qualified ∧ r.state ≠ .qualified then
    forEach 8 (s.setRef i r) fun j t => t.clearPair i j
  else s.setRef i r

/-- The hold-off in seconds for a step k (R53). -/
def holdoffSeconds (k : Nat) : Nat := 60 * 2 ^ k

/-- The backoff: k after a disqualification (R53). From 3,600 s on k is 0 by R54, whether or not QUALIFIED_HOUR has been
taken. -/
def State.backoff (s : State) (r : RefRecord) : Nat :=
  match r.qualifiedSince with
  | some t => if s.secondsSince t < 3600 then min 4 (r.k + 1) else 0
  | none => min 4 (r.k + 1)

/-- The test of QUALIFIED (R53). -/
def State.testQualified (s : State) (i : Slot) : State :=
  if (s.refs[i]).state = .qualified ∧ (s.refs[i]).threshold ≤ (s.refs[i]).score then
    s.moveRef i { s.refs[i] with
      state := .holdoff, k := s.backoff s.refs[i]
      holdoff := some (s.monitorIn (holdoffSeconds (s.backoff s.refs[i])))
      qualifiedSince := none, candidateSince := none }
  else s

/-- The test of QUALIFYING (R52). -/
def State.testQualifying (s : State) (i : Slot) : State :=
  if (s.refs[i]).state = .qualifying ∧ (s.refs[i]).score = 0 ∧ (s.refs[i]).qualifyTime ≤ (s.refs[i]).streak then
    s.setRef i { s.refs[i] with state := .qualified, qualifiedSince := some s.osc.now }
  else s

/-- A record that is scored: every state but DISABLED and ABSENT (R50). -/
def RefRecord.scored (r : RefRecord) : Bool := r.state ≠ .disabled && r.state ≠ .absent

/-- The score of a GOOD period (R50). -/
def RefRecord.scoreGood (r : RefRecord) (quality : Option Nat) : RefRecord :=
  { r with
    score := r.score - 1, streak := countUp Config.max16 r.streak, goodCount := countUp Config.max32 r.goodCount
    rankQuality := quality.getD r.rankQuality }

/-- The score of a BAD period (R50). -/
def RefRecord.scoreBad (r : RefRecord) : RefRecord :=
  { r with score := min 32 (r.score + 4), streak := 0, badCount := countUp Config.max32 r.badCount }

/-- The score of a measurement and the state test of its state (R50). -/
def State.score (s : State) (m : Measurement) : State :=
  let kept := { s.refs[m.slot] with latest := some m }
  if kept.scored then
    if m.causes = [] then (s.setRef m.slot (kept.scoreGood m.quality)).testQualifying m.slot
    else (s.setRef m.slot kept.scoreBad).testQualified m.slot
  else s.setRef m.slot kept

/-! ### Pairing (R55) -/

/-- The magnitude of the difference lies within the pairing window. -/
def RefRecord.agrees (r : RefRecord) (a b : Int) : Bool := (a - b).natAbs ≤ r.pairWindow * 1000

/-- Record `i` names `j`, and both hold pairing samples of one second: its pair result is set. -/
def State.comparePair (s : State) (i j : Slot) : State :=
  if (s.refs[i]).partner = some j then
    match (s.refs[i]).pairSample, (s.refs[j]).pairSample with
    | some a, some b =>
      if a.sec = b.sec then s.setRef i { s.refs[i] with pairResult := some ((s.refs[i]).agrees a.e b.e) } else s
    | _, _ => s
  else s

/-- The second of a measurement: the boundary nearest its period time (R55). -/
def Measurement.second (m : Measurement) : Nat := nearestSecond m.time.instant

/-- Take the pairing sample of a measurement and make its comparisons. -/
def State.pairingStep (s : State) (m : Measurement) : State :=
  match m.e with
  | some e =>
    if m.causes = [] ∧ m.straddles = false ∧ Slot.isFq m.slot = false then
      forEach 8 (s.setRef m.slot { s.refs[m.slot] with pairSample := some { sec := m.second, e := e } }) fun j t =>
        if j = m.slot then t else (t.comparePair m.slot j).comparePair j m.slot
    else s
  | none => s

/-! ### Label conflict (R67) -/

/-- A charge against a record. -/
def State.charge (s : State) (i : Slot) : State :=
  (s.setRef i { s.refs[i] with
    score := min 32 ((s.refs[i]).score + 4), streak := 0
    conflictCount := countUp Config.max16 (s.refs[i]).conflictCount }).testQualified i

/-- The record of a pair that a charge falls on: the one not selected, or the one ranking later. -/
def State.chargedOf (s : State) (i j : Slot) : Slot :=
  if s.sel.phase = some i then j
  else if s.sel.phase = some j then i
  else if s.ranksBefore i j then j else i

/-- The comparison of a second is noted, and moves the pair's run and flag (R67). -/
def PairConflict.count (c : PairConflict) (sec : Nat) (agree : Bool) : PairConflict :=
  if agree then { run := 0, flag := false, compared := some sec }
  else { run := min 3 (c.run + 1), flag := decide (3 ≤ c.run + 1), compared := some sec }

/-- A comparison of two label seconds of one second. A pair is compared once for each second; a later sample of the same
second is not compared again (DEDUCED, notes/assumptions/64.md). -/
def State.compareLabels (s : State) (i j : Slot) (sec : Nat) (agree : Bool) : State :=
  let c := s.conflicts[pairIndex i j]
  if c.compared = some sec then s
  else
    let t := { s with conflicts := s.conflicts.set (pairIndex i j) (c.count sec agree) }
    if (c.count sec agree).flag then t.charge (s.chargedOf i j) else t

/-- Take the label sample of a measurement and make its comparisons (R67), in slot order; once a charge has disqualified
the measuring record the rest are not made (DESIGN CHOICE, notes/assumptions/44.md). -/
def State.labelStep (s : State) (m : Measurement) : State :=
  match m.labelSec with
  | some label =>
    if m.straddles = false ∧ Slot.isFq m.slot = false then
      forEach 8 (s.setRef m.slot { s.refs[m.slot] with labelSample := some { sec := m.second, label := label } })
        fun j t =>
          if j ≠ m.slot ∧ (t.refs[m.slot]).state = .qualified ∧ (t.refs[j]).state = .qualified then
            match (t.refs[j]).labelSample with
            | some b => if b.sec = m.second then t.compareLabels m.slot j b.sec (decide (b.label = label)) else t
            | none => t
          else t
    else s
  | none => s

/-! ### Selection (R58 to R65) -/

/-- A record is a candidate of its kind. -/
def State.candidate (s : State) (i : Slot) : Bool := s.phaseCandidate i || s.assistCandidate i

/-- Candidate times begin and end with candidacy (R57). -/
def State.refreshCandidates (s : State) : State :=
  { s with
    refs := mapAll s.refs fun i r =>
      if s.candidate i then
        match r.candidateSince with
        | some _ => r
        | none => { r with candidateSince := some s.osc.now }
      else { r with candidateSince := none } }

/-- The record has been a candidate for the wait-to-restore time (R60). -/
def State.waited (s : State) (i : Slot) : Bool :=
  match (s.refs[i]).candidateSince with
  | some t => s.sel.wtr ≤ s.secondsSince t
  | none => false

/-- The best phase candidate (R56). -/
def State.bestPhase (s : State) : Option Slot := bestSlot s.ranksBefore s.phaseCandidate

/-- The phase selection that the force or the mode gives (R59 to R61). -/
def State.choosePhase (s : State) : Option Slot :=
  match s.sel.force with
  | some f => if (s.refs[f]).state = .qualified then some f else none
  | none =>
    match s.sel.phase with
    | none => s.bestPhase
    | some p =>
      if s.phaseCandidate p then
        if s.sel.mode = .revertive then
          match bestSlot s.ranksBefore (fun j => s.phaseCandidate j && s.ranksBefore j p && s.waited j) with
          | some j => some j
          | none => some p
        else some p
      else s.bestPhase

/-- The assist selection (R62). -/
def State.chooseAssist (s : State) : Option Slot :=
  match s.sel.assist with
  | some p => if s.assistCandidate p then some p else bestSlot s.assistBefore s.assistCandidate
  | none => bestSlot s.assistBefore s.assistCandidate

/-- A change of the phase selection and its report (R64, R65, R20). -/
def State.changePhase (s : State) (new : Option Slot) : State :=
  if s.sel.phase = new then s
  else
    let t := (((s.setSel { s.sel with phase := new }).disturb).dropLoopStep).notifyAll
      (s.notice .refSwitched 0 (slotCode s.sel.phase) (slotCode new))
    match s.sel.phase, new with
    | none, some _ => t.phaseSelected
    | some _, some _ => t.phaseSwitched
    | some _, none => t.phaseGone
    | none, none => t

/-- A change of the assist selection and its report (R64, R65). -/
def State.changeAssist (s : State) (new : Option Slot) : State :=
  if s.sel.assist = new then s
  else
    let t := (s.setSel { s.sel with assist := new }).notifyAll
      (s.notice .refSwitched 1 (slotCode s.sel.assist) (slotCode new))
    match s.sel.assist, new with
    | none, some _ => t.assistAppeared
    | some _, some _ => t.assistChanged
    | some _, none => t.assistLost
    | none, none => t

/-- One re-evaluation: the phase selection, then the assist reference (R58). -/
def State.reevaluate (s : State) : State :=
  let t := s.refreshCandidates
  let t := t.changePhase t.choosePhase
  t.changeAssist t.chooseAssist

/-! ### Measurements and activity -/

/-- Hand a measurement on to whoever uses it (R66, step 5). -/
def State.handOn (s : State) (m : Measurement) : State :=
  if s.sel.phase = some m.slot then s.takePhase m
  else if s.sel.assist = some m.slot then s.takeAssist m
  else s

/-- A measurement handed to the qualifier, taken whole (R66); its last step is the alarm conditions at the end of the
command. -/
def State.takeMeasurement (s : State) (m : Measurement) : State :=
  if (s.refs[m.slot]).enabled then
    ((((s.score m).pairingStep m).labelStep m).reevaluate).handOn m
  else s

/-- Activity lost (R51). -/
def State.activityLost (s : State) (i : Slot) : State :=
  match (s.refs[i]).state with
  | .disabled => s
  | .absent => s
  | .qualifying => (s.moveRef i { s.refs[i] with
      state := .absent, streak := 0, holdoff := none, qualifiedSince := none, candidateSince := none }).reevaluate
  | .qualified => (s.moveRef i { s.refs[i] with
      state := .absent, streak := 0, holdoff := none, qualifiedSince := none, candidateSince := none }).reevaluate
  | .holdoff => (s.moveRef i { s.refs[i] with
      state := .absent, streak := 0, holdoff := none, qualifiedSince := none, candidateSince := none }).reevaluate

/-- Activity present (R51). -/
def State.activityPresent (s : State) (i : Slot) : State :=
  if (s.refs[i]).state = .absent then
    (s.setRef i { s.refs[i] with state := .qualifying, streak := 0 }).reevaluate
  else s

/-- The hold-off timer reaches 0 (R54). -/
def State.holdoffEnds (s : State) (i : Slot) : State :=
  if (s.refs[i]).state = .holdoff then
    (s.setRef i { s.refs[i] with state := .qualifying, holdoff := none, streak := 0 }).reevaluate
  else s

/-! ### Enable and disable (R49), steps and faults (R68) -/

/-- What a disable leaves of a record. -/
def RefRecord.disable (r : RefRecord) : RefRecord :=
  { r with
    enabled := false, state := .disabled, score := 0, streak := 0, k := 0, holdoff := none, qualifiedSince := none
    candidateSince := none, pairSample := none, pairResult := none, labelSample := none }

/-- What an enable makes of a record. -/
def RefRecord.enable (r : RefRecord) : RefRecord :=
  { r with enabled := true, state := .absent, goodCount := 0, badCount := 0, conflictCount := 0 }

/-- A step application takes the samples of every record; the seconds after it are not those compared before (R68). -/
def State.refsAtStep (s : State) : State :=
  { s with
    refs := mapAll s.refs fun _ r => { r with pairSample := none, labelSample := none }
    conflicts := mapAll s.conflicts fun _ c => { c with compared := none } }

/-- Entry to FAULT takes samples, pair results and conflicts (R68). -/
def State.refsAtFault (s : State) : State :=
  { s with
    refs := mapAll s.refs fun _ r => { r with pairSample := none, labelSample := none, pairResult := none }
    conflicts := mapAll s.conflicts fun _ c => { c with run := 0, flag := false } }

end Sys2Proof.Machine
end

