-- ==== Sys2Proof/Machine/FrontEnd.lean ====
section
/-! DEFINITION. The reference front end: TA edges, labels and periods (R27 to R35, R192), FQ seconds (R36 to R40), OF
reports (R41 to R43), and what steps, faults, enables and disables do to them (R44 to R46). -/

namespace Sys2Proof.Machine

/-- The slot's record is enabled (R25). -/
def State.taEnabled (s : State) (i : InputIx) : Bool := (s.refs[Slot.ofTa i]).enabled
def State.fqEnabled (s : State) (i : InputIx) : Bool := (s.refs[Slot.ofFq i]).enabled
def State.ofEnabled (s : State) (p : Port) : Bool := (s.refs[Slot.ofPort p]).enabled

/-! ### A TA period judged (R30 to R33) -/

/-- The raw offset of a timestamp from the nearest counter second boundary (R31). -/
def rawOffset (edge : Nat) : Int :=
  let ps : Int := edge % Config.psPerSecond
  if ps * 2 < Config.psPerSecond then ps else ps - Config.psPerSecond

/-- The time error of a TA period (R31). -/
def TaInput.timeError (x : TaInput) (edge : Nat) : Int := rawOffset edge - x.params.compensation

/-- The expected second, taken on the timestamp as it will stand after a pending step (R31). -/
def State.expectedSecond (s : State) (edge : Nat) : Nat := nearestSecond (moveInstant s.tb.pendingAmount edge)

/-- The interval from the previous edge lies within 1 s ± the period window; not tested without one (R32). -/
def TaInput.intervalOk (x : TaInput) (edge : Nat) : Bool :=
  match x.prevEdge with
  | none => true
  | some p => ((elapsed p edge : Int) - Config.psPerSecond).natAbs ≤ x.params.window * 1000000

/-- A width in range: 1 µs to 900 ms (R28). -/
def widthOk (w : Option Nat) : Bool :=
  match w with
  | some v => Config.widthLowPs ≤ v && v ≤ Config.labelClosePs
  | none => false

/-- The change from the jump reference exceeds the jump limit (R32). -/
def TaInput.jumped (x : TaInput) (e : Int) : Bool :=
  match x.jumpRef with
  | some r => x.params.jumpLimit * 1000 < (e - r).natAbs
  | none => false

/-- The label that passed its check. -/
def TaPeriod.passed (p : TaPeriod) : Option TaLabel :=
  match p.label with
  | some (.passed l) => some l
  | _ => none

/-- A cause, when found. -/
def causeIf (b : Bool) (c : Cause) : List Cause := if b then [c] else []

/-- The causes of a TA period (R32). -/
def State.taCauses (s : State) (x : TaInput) (p : TaPeriod) : List Cause :=
  causeIf (!x.intervalOk p.edge) .period ++ causeIf (!widthOk p.width) .width ++ causeIf p.glitch .glitch ++
    causeIf p.label.isNone .labelMissing ++ causeIf (p.label = some .failed) .labelCheck ++
    causeIf (s.aligned && p.passed.any fun l => l.sec ≠ s.expectedSecond p.edge) .labelSecond ++
    causeIf (p.passed.any fun l => l.status = .noFix) .noFix ++ causeIf (x.jumped (x.timeError p.edge)) .jump

/-- The measurement of a judged TA period (R25). It carries the leap second of a label whose leap field is none as well
(DESIGN CHOICE, notes/assumptions/55.md). -/
def State.taMeasurement (s : State) (i : InputIx) (p : TaPeriod) : Measurement :=
  let x := s.ta[i]
  { slot := Slot.ofTa i, time := stampReading p.edge, causes := s.taCauses x p
    e := some (x.timeError p.edge), u := some (-(x.timeError p.edge))
    labelSec := p.passed.map (·.sec), quality := p.passed.map (·.quality), status := p.passed.map (·.status)
    utc := p.passed.map (·.utc), leap := p.passed.map (·.leap), leapSec := p.passed.map (·.leapSec)
    straddles := p.straddles, phi := none, freq := none, count := none, noise := none, interval := none }

/-- The input after a period is judged with these causes: the previous edge, and the jump reference (R32, R33). -/
def TaInput.judged (x : TaInput) (p : TaPeriod) (causes : List Cause) : TaInput :=
  let run := if causes = [.jump] then x.jumpRun + 1 else 0
  { x with
    period := some { p with judged := true }, prevEdge := some p.edge
    jumpRef := if causes = [] then some (x.timeError p.edge) else if run = 4 then none else x.jumpRef
    jumpRun := if run = 4 then 0 else run }

/-- Judge the period of an input and hand its measurement to the qualifier. -/
def State.judgePeriod (s : State) (i : InputIx) (p : TaPeriod) : State :=
  let m := s.taMeasurement i p
  (s.setTa i ((s.ta[i]).judged p m.causes)).takeMeasurement m

/-- Judge the period if it holds both its label and its trailing edge (R30). -/
def State.judgeIfWhole (s : State) (i : InputIx) : State :=
  match (s.ta[i]).period with
  | some p => if !p.judged && p.label.isSome && p.width.isSome then s.judgePeriod i p else s
  | none => s

/-- Judge the period, with whatever it lacks counted against it, if it is still open (R30). -/
def State.judgeAtClose (s : State) (i : InputIx) : State :=
  match (s.ta[i]).period with
  | some p => if p.judged then s else s.judgePeriod i p
  | none => s

/-! ### TA edges (R27, R28, R35) -/

/-- The glitch guard: 1 s minus the period window after the period edge (R27). It is formed by the window in
force at each use, so a change of the window moves a guard that runs (DESIGN CHOICE, notes/assumptions/43.md). -/
def TaInput.guardPs (x : TaInput) : Nat := Config.psPerSecond - x.params.window * 1000000

/-- The present reading lies within the glitch guard of the period. -/
def State.inGuard (s : State) (i : InputIx) (p : TaPeriod) : Bool :=
  elapsed p.edge s.counter.instant < (s.ta[i]).guardPs

/-- Open a new period at the present reading (R27). -/
def State.openPeriod (s : State) (i : InputIx) : State :=
  s.setTa i { s.ta[i] with
    period := some
      { edge := floor125 s.counter.instant, straddles := false, glitch := (s.ta[i]).carried, width := none
        label := none, judged := false }
    carried := false }

/-- An active edge within the guard: a glitch of the open period, or one carried to the next (R27). -/
def State.glitchEdge (s : State) (i : InputIx) (p : TaPeriod) : State :=
  if p.judged then s.setTa i { s.ta[i] with carried := true }
  else s.setTa i { s.ta[i] with period := some { p with glitch := true } }

/-- The activity timer restarts, and the first edge of a lost or new input reports activity present (R35). -/
def State.taActivity (s : State) (i : InputIx) : State :=
  let t := s.setTa i { s.ta[i] with timer := some (s.osc.now + Config.taActivityNs), active := true }
  if (s.ta[i]).active then t else t.activityPresent (Slot.ofTa i)

/-- An active edge (R27, R45). A period still unjudged when its guard has passed is judged first. -/
def State.taEdge (s : State) (i : InputIx) : State :=
  if !s.taEnabled i then s
  else
    let t := s.taActivity i
    if t.tb.state = .fault then t
    else
      match (t.ta[i]).period with
      | none => t.openPeriod i
      | some p => if t.inGuard i p then t.glitchEdge i p else (t.judgeAtClose i).openPeriod i

/-- An inactive edge: the first after the period edge gives the width (R28). -/
def State.taTrailing (s : State) (i : InputIx) : State :=
  if !s.taEnabled i || s.tb.state = .fault then s
  else
    match (s.ta[i]).period with
    | some p =>
      if p.width.isNone && !p.judged then
        (s.setTa i { s.ta[i] with period := some { p with width := some (elapsed p.edge s.counter.instant) } })
          |>.judgeIfWhole i
      else s
    | none => s

/-- The label window closes, 900 ms after the period edge (R30). -/
def State.taWindowClose (s : State) (i : InputIx) : State :=
  match (s.ta[i]).period with
  | some p =>
    if p.judged then s else (s.reachInstant (wrapInstant (p.edge + Config.labelClosePs))).judgeAtClose i
  | none => s

/-- The glitch guard ends (R27). -/
def State.taGuardEnd (s : State) (i : InputIx) : State :=
  match (s.ta[i]).period with
  | some p =>
    let t := (s.reachInstant (wrapInstant (p.edge + (s.ta[i]).guardPs))).judgeAtClose i
    t.setTa i { t.ta[i] with period := none }
  | none => s

/-- The activity timer of a TA input runs out (R35, R33). -/
def State.taTimeout (s : State) (i : InputIx) : State :=
  match (s.ta[i]).timer with
  | none => s
  | some d =>
    let t := s.reachMonitor d
    let u := t.setTa i { t.ta[i] with
      timer := none, active := false, prevEdge := none, jumpRef := none, jumpRun := 0, carried := false
      period := none }
    if (s.ta[i]).active then u.activityLost (Slot.ofTa i) else u

/-! ### The label receiver (R29, R192) -/

/-- A message of 19 bytes after its start byte, read as a label (R192). -/
def readLabel (b : List Byte) : HeldLabel :=
  if checkPasses b then
    match ReceiverStatus.ofByte (b.getD 6 0), LeapField.ofByte (b.getD 10 0) with
    | some st, some lf =>
      if (b.getD 7 0).toNat ≤ 15 then
        .passed
          { sec := beNat (b.take 6), status := st, quality := (b.getD 7 0).toNat
            utc := beSigned ((b.drop 8).take 2), leap := lf, leapSec := beNat ((b.drop 11).take 6) }
      else .failed
    | _, _ => .failed
  else .failed

/-- The present reading lies in the label window of the period (R29). -/
def State.inLabelWindow (s : State) (p : TaPeriod) : Bool :=
  Config.labelOpenPs ≤ elapsed p.edge s.counter.instant && elapsed p.edge s.counter.instant ≤ Config.labelClosePs

/-- A stray label (R29). -/
def State.strayLabel (s : State) (i : InputIx) : State :=
  s.setTa i { s.ta[i] with stray := countUp Config.max16 (s.ta[i]).stray }

/-- Place a complete label message (R29). -/
def State.placeLabel (s : State) (i : InputIx) (l : HeldLabel) : State :=
  match (s.ta[i]).period with
  | some p =>
    if !p.judged && p.label.isNone && s.inLabelWindow p && s.tb.state ≠ .fault then
      (s.setTa i { s.ta[i] with period := some { p with label := some l } }).judgeIfWhole i
    else s.strayLabel i
  | none => s.strayLabel i

/-- Discard a partial message (R29). -/
def State.dropLabel (s : State) (i : InputIx) : State := s.setTa i { s.ta[i] with rx := none, rxDeadline := none }

/-- The gap between bytes has run past 2 ms of monitor time (R29). -/
def State.labelGapPassed (s : State) (i : InputIx) : Bool :=
  match (s.ta[i]).rxDeadline with
  | some d => d < s.osc.now
  | none => false

/-- The bytes held, with one more (R192). -/
def State.heldBytes (s : State) (i : InputIx) (b : Byte) : State :=
  match (s.ta[i]).rx with
  | none =>
    if b = 126 then
      s.setTa i { s.ta[i] with rx := some [], rxDeadline := some (s.osc.now + Config.labelGapNs) }
    else s
  | some held =>
    if held.length + 1 = 19 then (s.dropLabel i).placeLabel i (readLabel (held ++ [b]))
    else
      s.setTa i { s.ta[i] with rx := some (held ++ [b]), rxDeadline := some (s.osc.now + Config.labelGapNs) }

/-- One byte received on a label line (R29, R192). -/
def State.labelByte (s : State) (i : InputIx) (b : Byte) : State :=
  if !s.taEnabled i then s
  else (if s.labelGapPassed i then s.dropLabel i else s).heldBytes i b

/-- Bytes received one after another. -/
def State.labelBytes (s : State) (i : InputIx) (l : List Byte) : State := l.foldl (fun t b => t.labelByte i b) s

/-- The gap timing of a label runs out (R29). -/
def State.labelGap (s : State) (i : InputIx) : State :=
  match (s.ta[i]).rxDeadline with
  | some d => (s.reachMonitor d).dropLabel i
  | none => s

/-! ### FQ inputs (R36 to R40) -/

/-- Begin to wait for a whole second, holding nothing (R36). -/
def FqInput.restart (x : FqInput) (stage : FqStage) : FqInput :=
  { x with
    stage := stage, count := 0, lastEdge := none, origin := none, total := 0, periods := 0, prevCount := none
    phis := [], skipCount := false }

/-- `n` edges, the last of them at an instant, counted in the FQ second (R36). -/
def FqInput.countEdges (x : FqInput) (n at_ : Nat) : FqInput :=
  match x.stage with
  | .lost => { x with stage := .waiting }
  | .waiting => x
  | .opening => { x with count := x.count + n, lastEdge := some at_ }
  | .running => { x with count := x.count + n, total := x.total + n, lastEdge := some at_ }

/-- Edges on an FQ input (R36, R40, R45). -/
def State.fqEdges (s : State) (i : InputIx) (n : Nat) : State :=
  if !s.fqEnabled i || n = 0 then s
  else
    let x := { s.fq[i] with timer := some (s.osc.now + Config.fqActivityNs) }
    if s.tb.state = .fault then s.setFq i x
    else s.setFq i (x.countEdges n (floor125 s.counter.instant))

/-- The accumulated phase (R37). -/
def FqInput.phase (x : FqInput) (origin last : Nat) : Int :=
  (elapsed origin last : Int) - (x.total * Config.psPerSecond / x.params.nominal : Nat)

/-- The frequency offset from the φ history with the newest value joined (R38). -/
def freqOffset (phis : List Int) (n : Nat) : Int :=
  let m := min n 16
  (phis.getLastD 0 - phis.getD (phis.length - 1 - m) 0) / m

/-- The count differs by more than 1 from that of the last FQ second that held an edge (R39). -/
def FqInput.countStepped (x : FqInput) : Bool :=
  match x.prevCount with
  | some p => !x.skipCount && 1 < ((x.count : Int) - p).natAbs
  | none => false

/-- The causes of an FQ period (R39). -/
def FqInput.causes (x : FqInput) (freq : Int) : List Cause :=
  causeIf (x.params.accept < (freq.natAbs : Int)) .freqWindow ++ causeIf x.countStepped .countStep

/-- The measurement of an FQ period (R25, R37 to R39). -/
def FqInput.measurement (x : FqInput) (i : InputIx) (origin last : Nat) : Measurement :=
  let phi := x.phase origin last
  let freq := freqOffset (pushBounded 17 x.phis phi) (x.periods + 1)
  { slot := Slot.ofFq i, time := stampReading last, causes := x.causes freq, e := none, u := none, labelSec := none
    quality := none, status := none, utc := none, leap := none, leapSec := none, straddles := false
    phi := some phi, freq := some freq, count := some x.count, noise := none, interval := none }

/-- The input after an FQ period closes. -/
def FqInput.closed (x : FqInput) (origin last : Nat) : FqInput :=
  { x with
    periods := x.periods + 1, phis := pushBounded 17 x.phis (x.phase origin last), prevCount := some x.count
    count := 0, lastEdge := none, skipCount := false }

/-- The opening second closes: its last edge is the origin, and its count is kept (R36). -/
def FqInput.opened (x : FqInput) (last : Nat) : FqInput :=
  { x with
    stage := .running, origin := some last, total := 0, periods := 0, prevCount := some x.count, phis := [0]
    count := 0, lastEdge := none, skipCount := false, renominal := false, active := true }

/-- A new origin after a change of nominal frequency makes φ0 absent, when the input is the assist reference (R82). -/
def State.originTaken (s : State) (i : InputIx) (renominal : Bool) : State :=
  if renominal && s.sel.assist = some (Slot.ofFq i) then s.setLoop { s.loop with phi0 := none } else s

/-- The FQ second closes at a counter second boundary (R36, R37, R40). -/
def State.closeFqSecond (s : State) (i : InputIx) : State :=
  if !s.fqEnabled i then s
  else
    let x := s.fq[i]
    match x.stage with
    | .lost => s
    | .waiting => s.setFq i { x with stage := .opening, count := 0, lastEdge := none, skipCount := false }
    | .opening =>
      match x.lastEdge with
      | none => s.setFq i { x with skipCount := false }
      | some last =>
        let t := (s.setFq i (x.opened last)).originTaken i x.renominal
        if x.active then t else t.activityPresent (Slot.ofFq i)
    | .running =>
      match x.lastEdge, x.origin with
      | some last, some origin =>
        (s.setFq i (x.closed origin last)).takeMeasurement (x.measurement i origin last)
      | _, _ => s.setFq i { x with skipCount := false }

/-- The activity timer of an FQ input runs out (R40). -/
def State.fqTimeout (s : State) (i : InputIx) : State :=
  match (s.fq[i]).timer with
  | none => s
  | some d =>
    let t := s.reachMonitor d
    let u := t.setFq i { (t.fq[i]).restart .lost with timer := none, active := false }
    if (s.fq[i]).active then u.activityLost (Slot.ofFq i) else u

/-! ### OF slots (R42, R43) -/

/-- The causes of an OF period (R42). -/
def OfParams.causes (p : OfParams) (noise quality : Nat) : List Cause :=
  causeIf (p.noiseLimit < (noise : Int)) .noise ++ causeIf (p.minQuality < quality) .quality

/-- The measurement of an accepted report (R42). -/
def State.ofMeasurement (s : State) (p : Port) (e whole : Int) (interval quality noise : Nat) : Measurement :=
  { slot := Slot.ofPort p, time := s.counter, causes := ((s.ofs[p]).params).causes noise quality, e := some e
    u := some (-e)
    labelSec := some
      (((nearestSecond s.counter.instant : Int) + whole) % (Config.siteSeconds : Int)).toNat
    quality := some quality, status := none, utc := none, leap := none, leapSec := none, straddles := false
    phi := none, freq := none, count := none, noise := some noise, interval := some interval }

/-- An accepted report: the timer, activity present, then its measurement outside FAULT (R41 to R43). -/
def State.takeReport (s : State) (p : Port) (e whole : Int) (interval quality noise : Nat) : State :=
  let t := s.setOf p { s.ofs[p] with timer := some (s.monitorIn (3 * interval)), active := true }
  let u := if (s.ofs[p]).active then t else t.activityPresent (Slot.ofPort p)
  if u.tb.state = .fault then u else u.takeMeasurement (u.ofMeasurement p e whole interval quality noise)

/-- The activity timer of an OF slot runs out (R43). -/
def State.ofTimeout (s : State) (p : Port) : State :=
  match (s.ofs[p]).timer with
  | none => s
  | some d =>
    let t := s.reachMonitor d
    let u := t.setOf p { t.ofs[p] with timer := none, active := false }
    if (s.ofs[p]).active then u.activityLost (Slot.ofPort p) else u

/-! ### Steps (R44), faults (R45), enables and disables (R46) -/

/-- A TA input at a step application: its edges move, an open period straddles it, the jump reference goes. -/
def TaInput.atStep (x : TaInput) (amount : Int) : TaInput :=
  { x with
    prevEdge := x.prevEdge.map (moveInstant amount)
    period := x.period.map fun p => { p with edge := moveInstant amount p.edge, straddles := p.straddles || !p.judged }
    jumpRef := none, jumpRun := 0 }

/-- An FQ input at a step application: its edges move, and the next count test is not made (R39). A step that is not
of whole seconds leaves a second that is not whole, so an opening second waits for the next (R36). -/
def FqInput.atStep (x : FqInput) (amount : Int) : FqInput :=
  { x with
    stage := if x.stage = .opening ∧ amount % (Config.psPerSecond : Int) ≠ 0 then .waiting else x.stage
    origin := x.origin.map (moveInstant amount), lastEdge := x.lastEdge.map (moveInstant amount), skipCount := true }

/-- The front end at a step application (R44); a manual step takes the alignment flag (R34). -/
def State.frontEndAtStep (s : State) (amount : Int) (origin : StepOrigin) : State :=
  { s with
    ta := mapAll s.ta fun _ x => x.atStep amount
    fq := mapAll s.fq fun _ x => x.atStep amount
    aligned := s.aligned && origin ≠ .manual }

/-- A TA input at the entry to FAULT. -/
def TaInput.atFault (x : TaInput) : TaInput :=
  { x with period := none, prevEdge := none, jumpRef := none, jumpRun := 0, carried := false }

/-- An FQ input at the entry to FAULT. -/
def FqInput.atFault (x : FqInput) : FqInput := x.restart (if x.stage = .lost then .lost else .waiting)

/-- The front end at the entry to FAULT (R45). -/
def State.frontEndAtFault (s : State) : State :=
  { s with
    ta := mapAll s.ta fun _ x => x.atFault
    fq := mapAll s.fq fun _ x => x.atFault
    aligned := false }

/-- Each enabled FQ input begins an opening second as the timebase leaves FAULT (R45), while its activity is lost too
(DESIGN CHOICE, notes/assumptions/54.md). -/
def State.frontEndAtWarmup (s : State) : State :=
  { s with fq := mapAll s.fq fun i x => if s.fqEnabled i then x.restart .waiting else x }

/-- The TA input, the FQ input or the port of a slot. -/
def Slot.taInput (i : Slot) : InputIx := ⟨i.val % 2, by omega⟩
def Slot.fqInput (i : Slot) : InputIx := ⟨i.val % 2, by omega⟩
def Slot.ofInput (i : Slot) : Port := ⟨i.val % 4, by omega⟩

/-- The front end starts a slot with nothing held (R46). -/
def State.startSlot (s : State) (i : Slot) : State :=
  if Slot.isTa i then s.setTa (Slot.taInput i) { TaInput.powerOn with params := (s.ta[Slot.taInput i]).params }
  else if Slot.isFq i then
    s.setFq (Slot.fqInput i) { FqInput.powerOn with params := (s.fq[Slot.fqInput i]).params, stage := .waiting }
  else s.setOf (Slot.ofInput i) { OfSlot.powerOn with params := (s.ofs[Slot.ofInput i]).params }

/-- The front end ends its work on a slot (R46). -/
def State.endSlot (s : State) (i : Slot) : State :=
  if Slot.isTa i then
    s.setTa (Slot.taInput i)
      { TaInput.powerOn with params := (s.ta[Slot.taInput i]).params, stray := (s.ta[Slot.taInput i]).stray }
  else if Slot.isFq i then
    s.setFq (Slot.fqInput i) { FqInput.powerOn with params := (s.fq[Slot.fqInput i]).params }
  else s.setOf (Slot.ofInput i) { OfSlot.powerOn with params := (s.ofs[Slot.ofInput i]).params }

/-- Enable a slot's record (R46, R49). -/
def State.enableSlot (s : State) (i : Slot) : State :=
  if (s.refs[i]).enabled then s else (s.setRef i (s.refs[i]).enable).startSlot i

/-- Disable a slot's record (R46, R49). -/
def State.disableSlot (s : State) (i : Slot) : State :=
  if (s.refs[i]).enabled then (s.moveRef i (s.refs[i]).disable).endSlot i else s

end Sys2Proof.Machine
end

