-- ==== Sys2Proof/Machine/Drops.lean ====
section
/-! DEFINITION. The drop controllers: the applied delay (R144, R145), the states of a drop (R136 to R141), the line and
its turns (R132 to R135), exchanges (R142, R143), announcements sent and withheld (R150), and the drop messages (10,
"Drop messages"). -/

namespace Sys2Proof.Machine

/-! ### Messages (10, "Drop messages") -/

/-- The flags of an announcement. -/
def Announcement.flags (a : Announcement) : Nat :=
  if a.full then
    bitIf (a.grade ≠ .free) 1 + bitIf a.leapPending 2 + bitIf a.stepFlag 4 + bitIf a.urgent 8
  else bitIf a.leapPending 2

/-- TIME_FULL or TIME_SHORT. -/
def Announcement.message (a : Announcement) : List Byte :=
  if a.full then
    withCheck (beBytes 1 2 ++ beBytes 6 a.stampSec ++ beBytes 4 a.stampNs ++ beBytes 1 a.grade.code ++
      beBytes 1 a.flags ++ beInt 2 a.utc)
  else
    withCheck (beBytes 1 3 ++ beBytes 2 (a.stampSec % 65536) ++ beBytes 4 a.stampNs ++ beBytes 1 a.grade.code ++
      beBytes 1 a.flags)

/-- MARK. -/
def markMessage (n : EntryIx) : List Byte := withCheck (beBytes 1 1 ++ beBytes 1 n.val)

/-- PROBE, with the turn limit of the exchange in units of 100 µs. -/
def probeMessage (limitMicros : Nat) : List Byte := withCheck (beBytes 1 4 ++ beBytes 1 (limitMicros / 100))

/-- OFFER. -/
def offerMessage (d : DropIx) : List Byte := withCheck (beBytes 1 5 ++ beBytes 1 d.val)

/-- The line time of so many bytes (R132). -/
def lineTime (bytes : Nat) : Nat := bytes * Config.bytePs

/-- A message of the radio unit, as judged (R193). -/
inductive UnitMessage where
  | failed
  | join (identity : Nat) (compact : Bool) (status : UnitStatus)
  | echo (t2 t3 : Nat) (status : UnitStatus)
  deriving DecidableEq, Repr

/-- Judge a completed message on its type, its length, its check and its fields (R193). -/
def judgeMessage (b : List Byte) : UnitMessage :=
  if checkPasses b then
    if (b.getD 0 0).toNat = 8 ∧ b.length = 13 then
      match UnitStatus.ofByte (b.getD 10 0), switchOfCode (b.getD 9 0).toNat with
      | some st, some c => .join (beNat ((b.drop 1).take 8)) c st
      | _, _ => .failed
    else if (b.getD 0 0).toNat = 9 ∧ b.length = 16 then
      match UnitStatus.ofByte (b.getD 13 0) with
      | some st => .echo (beNat ((b.drop 1).take 6)) (beNat ((b.drop 7).take 6)) st
      | none => .failed
    else .failed
  else .failed

/-! ### The applied delay (R144, R145) -/

/-- The least of the results in a ring. -/
def ringLeast (ring : List Int) : Option Int :=
  match ring with
  | [] => none
  | r :: rest => some (rest.foldl min r)

/-- The applied delay that a ring and a profile give (R144). -/
def delayOf (ring : List Int) (p : Profile) : Int :=
  match ringLeast ring with
  | some r => r / 2 + p.asymmetry
  | none => p.fixedDelay

/-- Form the applied delay of a drop afresh, with the test of R145. -/
def State.reformDelay (s : State) (d : DropIx) : State :=
  let old := (s.drops[d]).delay
  let new := delayOf (s.drops[d]).ring (s.profileOf d)
  let t := s.setDrop d { s.drops[d] with delay := new }
  if (s.profileOf d).tolerance * 1000 < (new - old).natAbs then
    t.notifyOwner (s.drops[d]).owner (s.notice .dropDelayJump d.val old new)
  else t

/-! ### States of a drop (R136 to R141) -/

/-- Set a drop record; a change of its state makes a DROP_STATE notice for its owner (R141). -/
def State.moveDrop (s : State) (d : DropIx) (r : DropRec) : State :=
  if (s.drops[d]).state = r.state then s.setDrop d r
  else (s.setDrop d r).notifyOwner r.owner (s.notice .dropState d.val (s.drops[d]).state.code r.state.code)

/-- A record as it enters SEEKING (R138). -/
def DropRec.toSeeking (r : DropRec) : DropRec :=
  { r with
    state := .seeking, ring := [], joined := none, compact := false, lastFullUpper := none, lastFullOffset := none
    backlog := 0, annCounter := 0, stepFlag := false, failRun := 0, annTimer := none, probeTimer := none
    probeDue := false, probeDueSince := none, offerDue := true, offerTimer := none }

/-- Entry to SEEKING (R138). -/
def State.enterSeeking (s : State) (d : DropIx) : State :=
  (s.moveDrop d (s.drops[d]).toSeeking).reformDelay d

/-- A record as it enters SERVING (R140). -/
def DropRec.toServing (r : DropRec) (p : Profile) : DropRec :=
  { r with
    state := .serving, failRun := 0, probeDue := false, probeDueSince := none
    probeTimer := some (p.probeInterval * 1000), annTimer := some p.announceInterval }

/-- A record as it enters CALIBRATING (R139). -/
def DropRec.toCalibrating (r : DropRec) (at_ : Reading) : DropRec :=
  { r with state := .calibrating, probeDue := true, probeDueSince := some at_, probeTimer := none }

/-- A record whose turn is back IN, with nothing leaving that would hand it out again (R134). -/
def DropRec.turnBack (r : DropRec) : DropRec :=
  { r with
    turn := .isIn, arriving := none
    line := match r.line with
      | some m => (match m.kind with
        | .probe _ _ _ => none
        | .offer _ _ => none
        | .mark => some m
        | .announce _ _ => some m)
      | none => none }

/-- What a disable leaves of a record (R131). -/
def DropRec.toDisabled (r : DropRec) : DropRec :=
  { r.turnBack with
    enabled := false, state := .disabled, ring := [], joined := none, refused := none, unitStatus := none
    lastFullUpper := none, lastFullOffset := none, newestResult := none, failRun := 0, backlog := 0, annCounter := 0
    stepFlag := false, annTimer := none, probeTimer := none, offerTimer := none, probeDue := false
    probeDueSince := none, offerDue := false }

/-- Disable a drop (R131). -/
def State.disableDrop (s : State) (d : DropIx) : State :=
  if (s.drops[d]).state = .disabled then s
  else (s.moveDrop d (s.drops[d]).toDisabled).reformDelay d

/-- Enable a drop (R131, R136). -/
def State.enableDrop (s : State) (d : DropIx) : State :=
  if (s.drops[d]).enabled then s
  else (s.setDrop d { s.drops[d] with enabled := true }).enterSeeking d

/-! ### Exchanges (R139, R140, R142, R143) -/

/-- The count of a failure's cause goes up (R143). -/
def DropRec.countFailure (r : DropRec) (c : FailCause) : DropRec :=
  match c with
  | .noEcho => { r with failNoEcho := countUp Config.max32 r.failNoEcho }
  | .check => { r with failCheck := countUp Config.max32 r.failCheck }
  | .range => { r with failRange := countUp Config.max32 r.failRange }
  | .wrongReply => { r with failWrongReply := countUp Config.max32 r.failWrongReply }
  | .contention => { r with failContention := countUp Config.max32 r.failContention }

/-- The failure run that sends a drop to SEEKING (R139, R140). -/
def DropState.failLimit : DropState → Option Nat
  | .calibrating => some 8
  | .serving => some 3
  | .seeking => none
  | .disabled => none

/-- An exchange fails (R143). -/
def State.failExchange (s : State) (d : DropIx) (c : FailCause) : State :=
  let r := (s.drops[d]).countFailure c
  match r.state.failLimit with
  | none => s.setDrop d r
  | some limit =>
    let t := s.setDrop d { r with failRun := countUp 255 r.failRun }
    if limit ≤ r.failRun + 1 then t.enterSeeking d else t

/-- A valid result joins the ring; the fourth takes a CALIBRATING drop to SERVING (R139, R140). -/
def State.joinRing (s : State) (d : DropIx) (r : Int) : State :=
  let t := (s.setDrop d { s.drops[d] with ring := pushBounded Config.ringMax (s.drops[d]).ring r, failRun := 0 })
    |>.reformDelay d
  if (t.drops[d]).state = .calibrating ∧ 4 ≤ (t.drops[d]).ring.length then
    t.moveDrop d ((t.drops[d]).toServing (t.profileOf d))
  else t

/-- The round trip of an exchange (R142). -/
def roundTrip (t1 t4 t2 t3 : Nat) : Int :=
  signedElapsed t1 t4 - (((t3 : Int) - t2) % (Config.siteSeconds : Int))

/-- A passing ECHO after a PROBE (R139, R142, R143). -/
def State.takeEcho (s : State) (d : DropIx) (t1 t4 : Nat) (maxRtt : Int) (t2 t3 : Nat) (st : UnitStatus) : State :=
  let r := roundTrip t1 t4 t2 t3
  let valid := inRange 0 maxRtt r
  let x := { s.drops[d] with unitStatus := some st }
  let y := if valid then { x with newestResult := some t4, validExchanges := countUp Config.max32 x.validExchanges }
    else x
  let t := s.setDrop d y
  if st = .restarting then t.enterSeeking d
  else if valid then t.joinRing d r
  else t.failExchange d .range

/-- A JOIN after an OFFER (R137). A refused one leaves the latest unit status (DESIGN CHOICE,
notes/assumptions/50.md). -/
def State.takeJoin (s : State) (d : DropIx) (identity : Nat) (compact : Bool) (st : UnitStatus) : State :=
  let x := s.drops[d]
  if x.state = .seeking then
    if x.expected.isSome && x.expected ≠ some identity then
      s.setDrop d { x with refused := some identity, joinsRefused := countUp Config.max32 x.joinsRefused }
    else
      s.moveDrop d (DropRec.toCalibrating
        { x with
          joined := some identity, compact := compact, unitStatus := some st, refused := none
          joinsAccepted := countUp Config.max32 x.joinsAccepted } s.counter)
  else s

/-- The PROBE or OFFER on the line has left it: the turn is OUT (R134). -/
def State.handTurnOut (s : State) (d : DropIx) : State :=
  match (s.drops[d]).line with
  | some m =>
    match m.kind with
    | .probe _ _ _ => s.setDrop d { s.drops[d] with
        line := none, turn := .out m.start .probe m.limit (floor125 m.start) m.maxRtt }
    | .offer _ _ => s.setDrop d { s.drops[d] with
        line := none, turn := .out m.start .offer m.limit (floor125 m.start) m.maxRtt }
    | .mark => s
    | .announce _ _ => s
  | none => s

/-- The turn limit passes from the turn start (R134). -/
def State.turnLimitPasses (s : State) (d : DropIx) : State :=
  match (s.drops[d]).turn with
  | .isIn => s
  | .out _ message _ _ _ =>
    let t := s.setDrop d (s.drops[d]).turnBack
    if message = .probe then t.failExchange d .noEcho else t

/-- What the present reading finds already past on a drop line: the last byte of a PROBE or OFFER, the turn limit. -/
def State.settleLine (s : State) (d : DropIx) : State :=
  let t :=
    match (s.drops[d]).line with
    | some m => if m.length ≤ elapsed m.start s.counter.instant then s.handTurnOut d else s
    | none => s
  match (t.drops[d]).turn with
  | .isIn => t
  | .out start _ limit _ _ => if limit < elapsed start t.counter.instant then t.turnLimitPasses d else t

/-! ### Announcements that are not sent (R150) -/

/-- A withheld or stopped announcement. -/
def DropRec.unsentAnnouncement (r : DropRec) (a : Announcement) : DropRec :=
  { r with
    lastFullUpper := none, lastFullOffset := none, unsent := countUp Config.max32 r.unsent
    stepFlag := r.stepFlag || (a.stepFlag && r.state = .serving) }

/-! ### Contention (R135) -/

/-- The backlog as a stopped announcement leaves it: what its sending took is given back, unless the drop has left
SERVING, when nothing is owed (R150). -/
def DropRec.backlogBack (r : DropRec) : Nat := if r.state = .serving then min 15 (r.backlog + 1) else r.backlog

/-- A stopped message gives back what its sending did; a PROBE or OFFER stays due in the states that it serves. -/
def DropRec.stopMessage (r : DropRec) (k : SentKind) : DropRec :=
  match k with
  | .mark => r
  | .announce a prior =>
    if a.full then { r.unsentAnnouncement a with backlog := r.backlogBack, fullSent := prior }
    else { r.unsentAnnouncement a with backlog := r.backlogBack, shortSent := prior }
  | .probe dueSince timer prior =>
    if r.state = .calibrating ∨ r.state = .serving then
      { r with probeDue := true, probeDueSince := dueSince, probeTimer := timer, probesSent := prior }
    else { r with probesSent := prior }
  | .offer timer prior =>
    if r.state = .seeking then { r with offerDue := true, offerTimer := timer, offersSent := prior }
    else { r with offersSent := prior }

/-- The message that the chip is putting on the line at the present reading. -/
def State.sending (s : State) (d : DropIx) : Option LineMessage :=
  match (s.drops[d]).line with
  | some m => if elapsed m.start s.counter.instant < m.length then some m else none
  | none => none

/-- The unit starts to talk while the chip holds the turn (R135). -/
def State.contend (s : State) (d : DropIx) : State :=
  let r := s.drops[d]
  let x := { r with contentions := countUp Config.max32 r.contentions, lineActive := true }
  let y :=
    match s.sending d with
    | some m => ({ x with aborted := countUp Config.max32 x.aborted, line := none }).stopMessage m.kind
    | none => x
  let t := s.setDrop d y
  if y.state = .calibrating ∨ y.state = .serving then t.failExchange d .contention else t

/-- Line activity of the unit begins: nothing while it is already active or has the turn (R134, R135). -/
def State.activityBegins (s : State) (d : DropIx) : State :=
  let t := s.settleLine d
  if (t.drops[d]).lineActive || (t.drops[d]).turn ≠ .isIn then t else t.contend d

/-- The first byte of a unit message: with the turn OUT it is timestamped as t4 (R134, R142); with the turn IN it is
contention. -/
def State.unitFirstByte (s : State) (d : DropIx) : State :=
  let t := s.settleLine d
  if (t.drops[d]).turn = .isIn then t.activityBegins d
  else if (t.drops[d]).lineActive then t
  else t.setDrop d { t.drops[d] with arriving := some (floor125 t.counter.instant), lineActive := true }

/-- A unit message completes during an OUT turn (R134, R193). A JOIN that answers a PROBE leaves the
latest unit status (DESIGN CHOICE, notes/assumptions/50.md). -/
def State.unitMessage (s : State) (d : DropIx) (bytes : List Byte) : State :=
  let t := s.settleLine d
  match (t.drops[d]).turn, (t.drops[d]).arriving with
  | .out _ message _ t1 maxRtt, some t4 =>
    let u := t.setDrop d (t.drops[d]).turnBack
    match message, judgeMessage bytes with
    | .probe, .failed => u.failExchange d .check
    | .probe, .join _ _ _ => u.failExchange d .wrongReply
    | .probe, .echo t2 t3 st => u.takeEcho d t1 t4 maxRtt t2 t3 st
    | .offer, .join identity compact st => u.takeJoin d identity compact st
    | .offer, .failed => u
    | .offer, .echo _ _ _ => u
  | _, _ => t

/-- The line falls idle (R134, R135). -/
def State.lineIdle (s : State) (d : DropIx) : State :=
  let t := s.settleLine d
  t.setDrop d { t.drops[d] with lineActive := false, arriving := none }

/-! ### Timers (R136, R139, R140, R146) -/

/-- One counter millisecond off a timer. -/
def tick (t : Option Nat) : Option Nat := t.map (· - 1)

/-- The drop timers count down at a counter millisecond boundary reached by running. -/
def State.tickDrops (s : State) : State :=
  { s with
    drops := mapAll s.drops fun _ r =>
      { r with annTimer := tick r.annTimer, probeTimer := tick r.probeTimer, offerTimer := tick r.offerTimer } }

/-- An expiry is taken: the timer is present, and in FAULT, where the counter stands, it has already reached 0. -/
def State.timerExpires (s : State) (t : Option Nat) : Bool := t.isSome && (s.tb.state ≠ .fault || t = some 0)

/-! ### Steps (R151) and faults (R152) -/

/-- A turn moved by a step. -/
def Turn.moved (t : Turn) (amount : Int) : Turn :=
  match t with
  | .isIn => .isIn
  | .out start m limit t1 maxRtt => .out (moveInstant amount start) m limit (moveInstant amount t1) maxRtt

/-- A drop at a step application (R151). The instant of an answer's first byte and the start of a message on the line move
with the turn (DESIGN CHOICE, notes/assumptions/69.md). -/
def DropRec.atStep (r : DropRec) (amount : Int) : DropRec :=
  { r with
    stepFlag := r.stepFlag || r.state = .serving, turn := r.turn.moved amount
    arriving := r.arriving.map (moveInstant amount), probeDueSince := r.probeDueSince.map (·.moved amount)
    line := r.line.map fun m => { m with start := moveInstant amount m.start } }

/-- Every drop at a step application (R151). -/
def State.dropsAtStep (s : State) (amount : Int) : State :=
  { s with drops := mapAll s.drops fun _ r => r.atStep amount }

/-- A drop at the entry to FAULT: the turn is taken back, and a joined drop goes to SEEKING (R152). -/
def State.dropAtFault (s : State) (d : DropIx) : State :=
  let t := s.setDrop d (s.drops[d]).turnBack
  if (t.drops[d]).state = .calibrating ∨ (t.drops[d]).state = .serving then t.enterSeeking d else t

/-- Every drop at the entry to FAULT, in drop order (R152). -/
def State.dropsAtFault (s : State) : State := forEach 8 s fun d t => t.dropAtFault d

end Sys2Proof.Machine
end

