-- ==== Sys2Proof/Machine/Scheduler.lean ====
section
/-! DEFINITION. The emission scheduler: due instants (R107, R108), the planning of a window (R117 to R122, R147 to
R149), the release of hard and soft items (R123, R124, R133, R150), the withdrawal and discarding of placed items
(R116, R125), and the moves of entries at seconds and steps (R113, R115).

Inside a planning, instants are integers near the present reading, so that the span of the counter need not be
thought of; they are wrapped as they are stored. -/

namespace Sys2Proof.Machine

/-! ### Due instants (R107, R108) -/

/-- Division rounded up. -/
def ceilDiv (a b : Int) : Int := -((-a) / b)

/-- The integers from `a` up to, not including, `b`. -/
def intsBetween (a b : Int) : List Int := (List.range (b - a).toNat).map fun n => a + n

/-- The seconds count of a second on the unwrapped line. -/
def wrapSecond (t : Int) : Nat := (t % (Config.siteSeconds : Int)).toNat

/-- An instance of an anchor: its due instant and its instance number. -/
structure Due where
  at_ : Int
  number : Nat
  deriving DecidableEq, Repr

/-- Sub-second form: the instances due from `lo` up to `hi` (R107). -/
def subSecondDues (period offset : Nat) (lo hi : Int) : List Due :=
  (intsBetween (lo / Config.psPerSecond) (ceilDiv hi Config.psPerSecond)).flatMap fun second =>
    let base : Int := second * Config.psPerSecond + offset * 1000
    let step : Int := period * 1000000
    (intsBetween (max 0 (ceilDiv (lo - base) step))
        (min ((1000000 / period : Nat) : Int) (ceilDiv (hi - base) step))).map fun k =>
      { at_ := base + k * step, number := k.toNat }

/-- Multi-second form: the instances due from `lo` up to `hi` (R107). -/
def multiSecondDues (m offset : Nat) (lo hi : Int) : List Due :=
  ((intsBetween (ceilDiv (lo - offset * 1000) Config.psPerSecond)
      (ceilDiv (hi - offset * 1000) Config.psPerSecond)).filter fun second => wrapSecond second % m = 0).map
    fun second =>
      { at_ := second * Config.psPerSecond + offset * 1000, number := wrapSecond second / m }

/-- The eligible instances of an anchor due from `lo` up to `hi` (R107). -/
def anchorDues (period offset : Nat) (start stop : Option Nat) (lo hi : Int) : List Due :=
  (if period < 1000000 then subSecondDues period offset lo hi
    else multiSecondDues (period / 1000000) offset lo hi).filter fun d =>
      (start.all fun v => v ≤ wrapSecond (d.at_ / Config.psPerSecond)) &&
        (stop.all fun v => wrapSecond (d.at_ / Config.psPerSecond) < v)

/-- The due instants of an entry from `lo` up to `hi`; a relative follows its anchor's (R108). -/
def State.entryDues (s : State) (e : Entry) (lo hi : Int) : List Int :=
  match e.fields.link with
  | .anchor period offset start stop => (anchorDues period offset start stop lo hi).map (·.at_)
  | .relative a rel divider phase =>
    match s.entries[a] with
    | some anchor =>
      match anchor.fields.link with
      | .anchor period offset start stop =>
        ((anchorDues period offset start stop (lo - rel * 1000) (hi - rel * 1000)).filter fun d =>
          d.number % divider = phase).map fun d => d.at_ + rel * 1000
      | .relative _ _ _ _ => []
    | none => []

/-- An entry is planned while it is WAITING or RUNNING (R118). -/
def Entry.planned (e : Entry) : Bool := e.state = .waiting || e.state = .running

/-! ### Targets -/

/-- The delay or compensation of a target, in ps (R118). -/
def State.targetDelay (s : State) (o : Output) : Int :=
  match o with
  | .drop d => (s.drops[d]).delay
  | .px x => (s.px[x]).compensation * 1000

/-- The horizon of a target (R118). -/
def State.horizon (s : State) (o : Output) : Nat :=
  match o with
  | .drop d => s.sched.dropHorizon[d]
  | .px x => s.sched.pxHorizon[x]

/-- The owner of an output (R109). -/
def State.outputOwner (s : State) (o : Output) : Option Port :=
  match o with
  | .drop d => (s.drops[d]).owner
  | .px x => (s.px[x]).owner

/-- The squelch level that applies to an entry (R119). -/
def State.squelchOf (s : State) (f : EntryFields) : Grade :=
  match f.squelch with
  | some g => g
  | none =>
    match f.target with
    | .drop d => (s.profileOf d).squelch
    | .px _ => .hold4

/-- An instant on the integers, near the present reading. -/
def State.lift (s : State) (i : Nat) : Int := s.counter.instant + signedElapsed s.counter.instant i

/-- The start of the window so many after the one that holds the present reading. -/
def State.windowStart (s : State) (ahead : Nat) : Int :=
  ((s.counter.instant / Config.psPerMs + ahead : Nat) : Int) * Config.psPerMs

/-- The index of the window that starts at an instant. -/
def windowIndex (start : Int) : Nat := wrapInstant start / Config.psPerMs

/-! ### Gathering (R118) -/

/-- A hard instance gathered by a planning. -/
structure Gathered where
  entry : EntryIx
  fields : EntryFields
  due : Int
  transmit : Int
  deriving DecidableEq, Repr

/-- The instances that one entry gives a window ending at `stop`. -/
def State.gatherEntry (s : State) (stop : Int) (i : EntryIx) : List Gathered :=
  match s.entries[i] with
  | some e =>
    if e.planned then
      (s.entryDues e (s.lift (s.horizon e.fields.target)) (stop + s.targetDelay e.fields.target)).map fun due =>
        { entry := i, fields := e.fields, due := due, transmit := due - s.targetDelay e.fields.target }
    else []
  | none => []

/-- All instances of a window ending at `stop`, in entry index order, by due instant within one entry. -/
def State.gather (s : State) (stop : Int) : List Gathered := (List.finRange 64).flatMap (s.gatherEntry stop)

/-- After gathering, the horizon of a target is the end of the window plus the delay just used, or stays where it lies
beyond that: what has been gathered once is not gathered again (DEDUCED, notes/assumptions/34.md). -/
def State.horizonAfter (s : State) (stop : Int) (o : Output) : Nat :=
  wrapInstant (max (s.lift (s.horizon o)) (stop + s.targetDelay o))

/-- Every horizon after gathering. -/
def State.raiseHorizons (s : State) (stop : Int) : State :=
  s.setSched { s.sched with
    dropHorizon := Vector.ofFn fun d => s.horizonAfter stop (.drop d)
    pxHorizon := Vector.ofFn fun x => s.horizonAfter stop (.px x) }

/-! ### Suppression (R119) -/

/-- The due instant lies within the step blank of the last step (R19). -/
def State.inBlank (s : State) (due : Int) : Bool :=
  match s.tb.blank with
  | some b => elapsed b.start (wrapInstant due) < b.length
  | none => false

/-- A MARK whose drop is not SERVING. -/
def State.dropUnready (s : State) (o : Output) : Bool :=
  match o with
  | .drop d => (s.drops[d]).state ≠ .serving
  | .px _ => false

/-- A MARK whose drop has its turn out, and which would leave before the latest instant of the turn's return. -/
def State.turnBlocks (s : State) (o : Output) (transmit : Int) : Bool :=
  match o with
  | .drop d =>
    match (s.drops[d]).turn with
    | .out start _ _ _ _ => transmit < s.lift start + (s.profileOf d).turnLimit * 1000000
    | .isIn => false
  | .px _ => false

/-- One of the causes of R119 is found for a window starting at `start`. -/
def State.suppressed (s : State) (start : Int) (g : Gathered) : Bool :=
  s.tb.state = .warmup || s.dropUnready g.fields.target || s.tb.grade.worseThan (s.squelchOf g.fields) ||
    s.inBlank g.due || s.turnBlocks g.fields.target g.transmit || g.transmit < start

/-! ### Counts of an entry (R105) -/

/-- Change an entry that is not FREE. -/
def State.changeEntry (s : State) (i : EntryIx) (f : Entry → Entry) : State :=
  match s.entries[i] with
  | some e => s.setEntry i (some (f e))
  | none => s

def Entry.countEmitted (e : Entry) : Entry := { e with emitted := countUp Config.max32 e.emitted }
def Entry.countSkipped (e : Entry) : Entry := { e with skipped := countUp Config.max32 e.skipped }
def Entry.countSuppressed (e : Entry) : Entry := { e with suppressed := countUp Config.max32 e.suppressed }

/-! ### The hard pass (R120, R121) -/

/-- The budget of a window as it is spent. -/
structure Budget where
  units : Nat
  items : Vector Nat 8
  deriving DecidableEq, Repr

/-- Nothing spent. -/
def Budget.fresh : Budget := { units := 0, items := Vector.replicate 8 0 }

/-- So many units, and a place among the drop's items, remain. -/
def Budget.fits (b : Budget) (units : Nat) (o : Output) : Bool :=
  b.units + units ≤ Config.windowBudget &&
    (match o with
      | .drop d => b.items[d] < Config.dropItems
      | .px _ => true)

/-- Spend them. -/
def Budget.spend (b : Budget) (units : Nat) (o : Output) : Budget :=
  match o with
  | .drop d => { units := b.units + units, items := b.items.set d (b.items[d] + 1) }
  | .px _ => { b with units := b.units + units }

/-- A planning under way: the state, the window, and its budget. -/
structure Planning where
  s : State
  start : Int
  budget : Budget
  refusedUrgent : List DropIx
  cursor : Vector Int 8

/-- The end of the window. -/
def Planning.stop (p : Planning) : Int := p.start + Config.psPerMs

/-- One gathered instance: suppressed, placed or skipped (R119, R121). -/
def Planning.hard (p : Planning) (g : Gathered) : Planning :=
  if p.s.suppressed p.start g then { p with s := p.s.changeEntry g.entry Entry.countSuppressed }
  else if p.budget.fits 1 g.fields.target then
    { p with
      budget := p.budget.spend 1 g.fields.target
      s := p.s.setSched { p.s.sched with
        hardPlan := p.s.sched.hardPlan ++
          [{ entry := g.entry, target := g.fields.target, due := wrapInstant g.due
             transmit := wrapInstant g.transmit, window := windowIndex p.start
             squelch := p.s.squelchOf g.fields, width := g.fields.width.getD 0 }] } }
  else
    { p with
      s := (p.s.changeEntry g.entry Entry.countSkipped).setSched
        { p.s.sched with overrunHold := some (p.s.osc.now + Config.overrunHoldNs) } }

/-! ### Soft items and their places on the line (R132) -/

/-- The line time of a soft item. -/
def SoftKind.length (k : SoftKind) : Nat :=
  match k with
  | .announce a => lineTime (if a.full then 17 else 11)
  | .probe => lineTime 4
  | .offer => lineTime 4

/-- The transmit instants of the MARKs placed for a drop in a window. -/
def State.marksOf (s : State) (d : DropIx) (window : Nat) : List Int :=
  (s.sched.hardPlan.filter fun h => h.target = .drop d ∧ h.window = window).map fun h => s.lift h.transmit

/-- Begin after each MARK that a line time would overlap. -/
def pushPast (length : Nat) (marks : List Int) (c : Int) : Int :=
  marks.foldl (fun c m => if c < m + lineTime 4 ∧ m < c + length then m + lineTime 4 else c) c

/-- The instant from which a line time is free: past every overlapping MARK, of which a window holds at most four. -/
def freeFrom (length : Nat) (marks : List Int) (c : Int) : Int :=
  pushPast length marks (pushPast length marks (pushPast length marks (pushPast length marks c)))

/-- The ends of the messages of earlier windows on a drop's line. -/
def State.earlierEnds (s : State) (d : DropIx) (window : Nat) : List Int :=
  ((s.sched.hardPlan.filter fun h => h.target = .drop d ∧ h.window ≠ window).map fun h =>
      s.lift h.transmit + lineTime 4) ++
    ((s.sched.softPlan.filter fun x => x.drop = d ∧ x.window ≠ window).map fun x =>
      s.lift x.transmit + x.kind.length) ++
    (match (s.drops[d]).line with
      | some m => [s.lift m.start + m.length]
      | none => [])

/-- Where the first soft item of a drop may start (R132; notes/assumptions/13.md for a window already begun). -/
def State.softStart (s : State) (start : Int) (d : DropIx) : Int :=
  (s.earlierEnds d (windowIndex start)).foldl max (max start s.counter.instant)

/-- The transmit instant of the next soft item of a drop. -/
def Planning.softAt (p : Planning) (d : DropIx) (length : Nat) : Int :=
  freeFrom length (p.s.marksOf d (windowIndex p.start)) p.cursor[d]

/-- Place a soft item: it costs units, goes into the plan, and moves the pointer and the drop's cursor (R122). -/
def Planning.placeSoft (p : Planning) (d : DropIx) (units : Nat) (k : SoftKind) : Planning :=
  let at_ := p.softAt d k.length
  { p with
    budget := p.budget.spend units (.drop d)
    cursor := p.cursor.set d (at_ + k.length)
    s := p.s.setSched { p.s.sched with
      softPlan := p.s.sched.softPlan ++
        [{ drop := d, kind := k, transmit := wrapInstant at_, window := windowIndex p.start }]
      pointer := d + 1 } }

/-! ### Announcements placed (R147 to R149) -/

/-- The stamp of an announcement leaving at an instant: its arrival (R149). -/
def State.stampOf (s : State) (d : DropIx) (transmit : Int) : Reading :=
  Reading.at (wrapInstant (transmit + (s.drops[d]).delay)) 0

/-- The contents of an announcement with a stamp (R149). -/
def State.announcement (s : State) (d : DropIx) (stamp : Reading) (full urgent : Bool) : Announcement :=
  { full := full, stampSec := stamp.sec, stampNs := stamp.ps / 1000, grade := s.tb.grade, utc := s.tb.utcOffset
    leapPending := s.leapPending, stepFlag := full && (s.drops[d]).stepFlag, urgent := urgent }

/-- The reasons for a full announcement, but for urgency (R148). -/
def State.mustBeFull (s : State) (d : DropIx) (stamp : Reading) : Bool :=
  let r := s.drops[d]
  r.lastFullUpper.isNone || r.lastFullUpper ≠ some (stamp.sec / 65536) ||
    (s.profileOf d).fullEvery ≤ r.annCounter + 1 || r.stepFlag || s.leapPending ||
    r.lastFullOffset ≠ some s.tb.utcOffset || !r.compact

/-- The record of an announcement placed, for the choice of later ones (R147). -/
def DropRec.recordPlaced (r : DropRec) (a : Announcement) : DropRec :=
  if a.full then
    { r with
      placed := r.placed + 1, lastFullUpper := some (a.stampSec / 65536), lastFullOffset := some a.utc
      annCounter := 0, stepFlag := r.stepFlag && !a.stepFlag }
  else { r with placed := r.placed + 1, annCounter := min 254 (r.annCounter + 1) }

/-- The announcement that a drop would be given now: the short form if its own stamp allows it, else the full one
(R148, R149; DESIGN CHOICE, notes/assumptions/58.md). -/
def Planning.choose (p : Planning) (d : DropIx) (urgent : Bool) : Announcement :=
  let short := p.s.stampOf d (p.softAt d (lineTime 11))
  if urgent || p.s.mustBeFull d short then
    p.s.announcement d (p.s.stampOf d (p.softAt d (lineTime 17))) true urgent
  else p.s.announcement d short false false

/-- The units of an announcement (R120). -/
def Announcement.units (a : Announcement) : Nat := if a.full then 2 else 1

/-- Place an announcement. -/
def Planning.placeAnnouncement (p : Planning) (d : DropIx) (a : Announcement) : Planning :=
  let q := p.placeSoft d a.units (.announce a)
  { q with s := q.s.setDrop d ((q.s.drops[d]).recordPlaced a) }

/-- The backlog that a drop reports: less its placed announcements (R147). -/
def DropRec.owed (r : DropRec) : Nat := r.backlog - r.placed

/-! ### The soft passes (R122) -/

/-- The drops in the rotation that begins at the pointer. -/
def rotation (pointer : DropIx) : List DropIx := (List.finRange 8).map fun i => pointer + i

/-- One drop of the urgent pass. -/
def Planning.urgent (p : Planning) (d : DropIx) : Planning :=
  if 4 ≤ (p.s.drops[d]).owed then
    if p.budget.fits 2 (.drop d) then p.placeAnnouncement d (p.choose d true)
    else { p with refusedUrgent := d :: p.refusedUrgent }
  else p

/-- One drop of the trickle pass. -/
def Planning.trickle (p : Planning) (d : DropIx) : Planning :=
  if 1 ≤ (p.s.drops[d]).owed && !p.refusedUrgent.contains d then
    if p.budget.fits (p.choose d false).units (.drop d) then p.placeAnnouncement d (p.choose d false) else p
  else p

/-- An item of this kind, a PROBE or an OFFER, stands in a plan for the drop, not yet released (R147). -/
def State.exchangePlanned (s : State) (d : DropIx) (k : SoftKind) : Bool :=
  s.sched.softPlan.any fun x => x.drop = d && x.kind = k

/-- The PROBE or OFFER that a drop reports due, unless that same item is placed (R147). -/
def State.exchangeDue (s : State) (d : DropIx) : Option SoftKind :=
  let r := s.drops[d]
  if (r.state = .calibrating || r.state = .serving) && r.probeDue then
    if s.exchangePlanned d .probe then none else some .probe
  else if r.state = .seeking && r.offerDue then
    if s.exchangePlanned d .offer then none else some .offer
  else none

/-- A hard instance of a drop leaves within the turn limit after the window (R122): only for a SERVING drop, since any
other's would be suppressed for DROP. -/
def State.markWithin (s : State) (d : DropIx) (first last : Int) : Bool :=
  (s.drops[d]).state = .serving &&
    anyIndex 64 fun i =>
      match s.entries[i] with
      | some e =>
        e.planned && e.fields.target = .drop d &&
          !(s.entryDues e (first + (s.drops[d]).delay) (last + (s.drops[d]).delay + 1)).isEmpty
      | none => false

/-- The turn gap of a PROBE or OFFER (R122). -/
def Planning.turnGap (p : Planning) (d : DropIx) : Bool :=
  (p.s.marksOf d (windowIndex p.start)).isEmpty &&
    !p.s.markWithin d p.stop (p.stop + (p.s.profileOf d).turnLimit * 1000000)

/-- One drop of the probe and offer pass. -/
def Planning.exchange (p : Planning) (d : DropIx) : Planning :=
  match p.s.exchangeDue d with
  | some k => if p.budget.fits 1 (.drop d) && p.turnGap d then p.placeSoft d 1 k else p
  | none => p

/-- A pass over the eight drops, in the rotation from the pointer as it stands when the pass begins. -/
def Planning.pass (p : Planning) (f : Planning → DropIx → Planning) : Planning :=
  (rotation p.s.sched.pointer).foldl f p

/-! ### A planning whole (R117) -/

/-- Some RUNNING entry is squelched at the grade the planning uses (R126). -/
def State.someSquelched (s : State) : Bool :=
  anyIndex 64 fun i =>
    match s.entries[i] with
    | some e => e.state = .running && s.tb.grade.worseThan (s.squelchOf e.fields)
    | none => false

/-- The planning before its passes, with what its window has spent already. -/
def State.beginPlanning (s : State) (start : Int) (spent : Budget) : Planning :=
  { s := (s.raiseHorizons (start + Config.psPerMs)).setSched
      { (s.raiseHorizons (start + Config.psPerMs)).sched with
        gradeUsed := s.tb.grade, squelched := s.someSquelched }
    start := start, budget := spent, refusedUrgent := []
    cursor := Vector.ofFn fun d => s.softStart start d }

/-- Plan the window so many after the one that holds the present reading, on top of what it has spent already. -/
def State.plan (s : State) (ahead : Nat) (spent : Budget) : Planning :=
  let start := s.windowStart ahead
  ((((s.gather (start + Config.psPerMs)).foldl Planning.hard (s.beginPlanning start spent)).pass
    Planning.urgent).pass Planning.trickle).pass Planning.exchange

/-- Record what the window that runs and the one after it have spent (R120). -/
def State.setSpent (s : State) (now next : Budget) : State :=
  s.setSched { s.sched with
    unitsNow := now.units, itemsNow := now.items, unitsNext := next.units, itemsNext := next.items }

/-- What the window that runs, and the one after it, have spent. -/
def Scheduler.spentNow (x : Scheduler) : Budget := { units := x.unitsNow, items := x.itemsNow }
def Scheduler.spentNext (x : Scheduler) : Budget := { units := x.unitsNext, items := x.itemsNext }

/-- The planning of a counter millisecond boundary: the window after the one that begins (R117). -/
def State.planNext (s : State) : State :=
  let p := s.plan 1 Budget.fresh
  p.s.setSpent s.sched.spentNext p.budget

/-- The planning at once of the window that holds the reading, on top of what it has spent, and of the one after it
(R125). -/
def State.planAtOnce (s : State) (spent : Budget) : State :=
  let p := s.plan 0 spent
  let q := p.s.plan 1 Budget.fresh
  q.s.setSpent p.budget q.budget

/-! ### Withdrawal and discarding (R116, R125, R151, R152) -/

/-- Count each of these hard items suppressed. -/
def State.countWithdrawn (s : State) (l : List HardItem) : State :=
  l.foldl (fun t h => t.changeEntry h.entry Entry.countSuppressed) s

/-- Withdraw the placed instances of the entries that satisfy `p` (R110, R116). -/
def State.withdraw (s : State) (p : EntryIx → Bool) : State :=
  (s.countWithdrawn (s.sched.hardPlan.filter fun h => p h.entry)).setSched
    { s.sched with hardPlan := s.sched.hardPlan.filter fun h => !p h.entry }

/-- An announcement that is discarded is placed no more (R151, R152). -/
def State.unplace (s : State) (x : SoftItem) : State :=
  match x.kind with
  | .announce _ => s.setDrop x.drop { s.drops[x.drop] with placed := (s.drops[x.drop]).placed - 1 }
  | .probe => s
  | .offer => s

/-- Discard every plan: hard items are counted suppressed, soft items stay owed (R125). -/
def State.discardPlans (s : State) : State :=
  let t := s.sched.softPlan.foldl State.unplace (s.countWithdrawn s.sched.hardPlan)
  t.setSched { t.sched with hardPlan := [], softPlan := [] }

/-! ### Release of hard items (R123, R124) -/

/-- The item may not be emitted at its release (R123). The squelch level is the one its window was planned with (R117,
R130; notes/assumptions/35.md). -/
def State.withheld (s : State) (h : HardItem) : Bool :=
  s.tb.state = .warmup || s.tb.state = .fault || s.dropUnready h.target ||
    (match h.target with
      | .drop d => (s.drops[d]).turn ≠ .isIn || (s.drops[d]).lineActive
      | .px _ => false) ||
    s.tb.grade.worseThan h.squelch

/-- Drive a PULSE: an active period already running goes on to whichever end is later (R124). -/
def PulseOut.drive (x : PulseOut) (transmit width : Nat) : PulseOut :=
  let stop := wrapInstant (transmit + width * 1000)
  match x.until_ with
  | some u => { x with until_ := some (if 0 < signedElapsed u stop then stop else u) }
  | none => { x with until_ := some stop }

/-- Put a message on a drop line, in place of one that still has bytes to send (DESIGN CHOICE,
notes/assumptions/59.md). -/
def State.putOnLine (s : State) (d : DropIx) (m : LineMessage) : State :=
  s.setDrop d { s.drops[d] with line := some m }

/-- Emit a hard item on its target. -/
def State.emit (s : State) (h : HardItem) : State :=
  match h.target with
  | .drop d =>
    s.putOnLine d
      { kind := .mark, bytes := markMessage h.entry, start := h.transmit, length := lineTime 4, limit := 0
        maxRtt := 0 }
  | .px x => s.setPx x ((s.px[x]).drive h.transmit h.width)

/-- Take one item out of a list. -/
def takeFirst {α : Type} (p : α → Bool) : List α → Option (α × List α)
  | [] => none
  | a :: l =>
    if p a then some (a, l)
    else
      match takeFirst p l with
      | some (b, rest) => some (b, a :: rest)
      | none => none

/-- What a drop line has reached at the present reading, for a target on a drop. -/
def State.settleTarget (s : State) (o : Output) : State :=
  match o with
  | .drop d => s.settleLine d
  | .px _ => s

/-- The last check of a hard item, and its emission or suppression (R123). -/
def State.releaseItem (s : State) (h : HardItem) : State :=
  if s.withheld h then s.changeEntry h.entry Entry.countSuppressed
  else (s.emit h).changeEntry h.entry Entry.countEmitted

/-- Release the first placed item of an entry, at its transmit instant (R123). -/
def State.releaseHard (s : State) (n : EntryIx) : State :=
  match takeFirst (fun h => h.entry = n) s.sched.hardPlan with
  | some (h, rest) =>
    (((s.setSched { s.sched with hardPlan := rest }).reachInstant h.transmit).settleTarget h.target).releaseItem h
  | none => s

/-- The active period of a pulse output ends (R124). -/
def State.endPulse (s : State) (x : Px) : State :=
  match (s.px[x]).until_ with
  | some u => (s.reachInstant u).setPx x { s.px[x] with until_ := none }
  | none => s

/-! ### Release of soft items (R133, R150) -/

/-- The drop is in the state that the item serves (R133). -/
def SoftKind.servedBy (k : SoftKind) (st : DropState) : Bool :=
  match k with
  | .announce _ => st = .serving
  | .probe => st = .calibrating || st = .serving
  | .offer => st = .seeking

/-- The item is sent at its release (R133). -/
def State.softSent (s : State) (d : DropIx) (k : SoftKind) : Bool :=
  (s.drops[d]).turn = .isIn && !(s.drops[d]).lineActive && k.servedBy (s.drops[d]).state

/-- An announcement leaves the plan (R133). -/
def DropRec.released (r : DropRec) (k : SoftKind) : DropRec :=
  match k with
  | .announce _ => { r with placed := r.placed - 1 }
  | .probe => r
  | .offer => r

/-- Send an announcement (R150). -/
def DropRec.sendAnnouncement (r : DropRec) (a : Announcement) (at_ : Nat) : DropRec :=
  { r with
    backlog := r.backlog - 1
    fullSent := if a.full then countUp Config.max32 r.fullSent else r.fullSent
    shortSent := if a.full then r.shortSent else countUp Config.max32 r.shortSent
    line := some
      { kind := .announce a (if a.full then r.fullSent else r.shortSent), bytes := a.message, start := at_
        length := lineTime a.message.length, limit := 0, maxRtt := 0 } }

/-- The probe timer as a PROBE is sent: 100 ms in CALIBRATING, the probe interval in SERVING (R139, R140). -/
def DropRec.probeReload (r : DropRec) (p : Profile) : Nat :=
  if r.state = .serving then p.probeInterval * 1000 else 100

/-- Send a PROBE (R139, R140). -/
def DropRec.sendProbe (r : DropRec) (p : Profile) (at_ : Nat) : DropRec :=
  { r with
    probeDue := false, probeDueSince := none, probeTimer := some (r.probeReload p)
    probesSent := countUp Config.max32 r.probesSent
    line := some
      { kind := .probe r.probeDueSince r.probeTimer r.probesSent, bytes := probeMessage p.turnLimit, start := at_
        length := lineTime 4, limit := p.turnLimit * 1000000, maxRtt := p.maxRtt } }

/-- Send an OFFER (R136). -/
def DropRec.sendOffer (r : DropRec) (p : Profile) (d : DropIx) (at_ : Nat) : DropRec :=
  { r with
    offerDue := false, offerTimer := some p.offerInterval, offersSent := countUp Config.max32 r.offersSent
    line := some
      { kind := .offer r.offerTimer r.offersSent, bytes := offerMessage d, start := at_, length := lineTime 4
        limit := p.turnLimit * 1000000, maxRtt := p.maxRtt } }

/-- Send or withhold a soft item at its release. -/
def State.releaseSoftItem (s : State) (x : SoftItem) : State :=
  let r := (s.drops[x.drop]).released x.kind
  let p := s.profileOf x.drop
  if s.softSent x.drop x.kind then
    match x.kind with
    | .announce a => s.setDrop x.drop (r.sendAnnouncement a x.transmit)
    | .probe => s.setDrop x.drop (r.sendProbe p x.transmit)
    | .offer => s.setDrop x.drop (r.sendOffer p x.drop x.transmit)
  else
    match x.kind with
    | .announce a => s.setDrop x.drop (r.unsentAnnouncement a)
    | .probe => s.setDrop x.drop r
    | .offer => s.setDrop x.drop r

/-- Release the first placed soft item of a drop, at its transmit instant (R133). -/
def State.releaseSoft (s : State) (d : DropIx) : State :=
  match takeFirst (fun x => x.drop = d) s.sched.softPlan with
  | some (x, rest) =>
    (((s.setSched { s.sched with softPlan := rest }).reachInstant x.transmit).settleLine d).releaseSoftItem x
  | none => s

/-! ### Entries at seconds and steps (R113, R115) -/

/-- The entry is a relative of the anchor. -/
def Entry.follows (e : Entry) (a : EntryIx) : Bool :=
  match e.fields.link with
  | .relative x _ _ _ => x = a
  | .anchor _ _ _ _ => false

/-- Set the state of an entry that is WAITING or RUNNING. -/
def Entry.moveTo (e : Entry) (st : EntryState) : Entry := if e.planned then { e with state := st } else e

/-- Set the state of an anchor and of its relatives, those that are WAITING or RUNNING (R113). -/
def State.moveTrain (s : State) (a : EntryIx) (st : EntryState) : State :=
  { s with
    entries := mapAll s.entries fun i o => o.map fun e => if i = a ∨ e.follows a = true then e.moveTo st else e }

/-- The notice of an entry that ends (R115). -/
def State.endedNotice (s : State) (i : EntryIx) (e : Entry) : State :=
  s.notifyPort e.owner (s.notice .entryEnded i.val e.state.code EntryState.ended.code)

/-- The notices of an anchor that ends and of its relatives: the anchor's first, then theirs in index order. -/
def State.endedNotices (s : State) (a : EntryIx) : State :=
  let t :=
    match s.entries[a] with
    | some e => if e.planned then s.endedNotice a e else s
    | none => s
  forEach 64 t fun i u =>
    match u.entries[i] with
    | some e => if e.follows a && e.planned then u.endedNotice i e else u
    | none => u

/-- An anchor reaches its stop second: it and its relatives enter ENDED (R115). -/
def State.endTrain (s : State) (a : EntryIx) : State := (s.endedNotices a).moveTrain a .ended

/-- The start and stop second of an entry that is an anchor and WAITING or RUNNING. -/
def Entry.liveAnchor (e : Entry) : Option (Option Nat × Option Nat) :=
  if e.planned then
    match e.fields.link with
    | .anchor _ _ start stop => some (start, stop)
    | .relative _ _ _ _ => none
  else none

/-- Is an anchor with this start second WAITING at a seconds count (R113)? -/
def startState (start : Option Nat) (sec : Nat) : EntryState :=
  match start with
  | some v => if sec < v then .waiting else .running
  | none => .running

/-- The moves of the anchors whose state the test `ends` or the start second calls for, in index order. -/
def State.moveEntries (s : State) (ends : Nat → Bool) : State :=
  forEach 64 s fun a t =>
    match (t.entries[a]).bind Entry.liveAnchor with
    | some (start, stop) =>
      if stop.any ends then t.endTrain a else t.moveTrain a (startState start t.counter.sec)
    | none => t

/-- Entries at a counter second boundary reached by running (R113, R115). -/
def State.entriesAtSecond (s : State) : State := s.moveEntries fun stop => decide (stop = s.counter.sec)

/-- Entries at a step application from a seconds count: a stop second passed over or reached ends an anchor (R115). -/
def State.entriesAtStep (s : State) (before : Nat) : State :=
  s.moveEntries fun stop => decide (before < stop ∧ stop ≤ s.counter.sec)

/-! ### Steps and faults (R124, R125) -/

/-- A pulse output at a step application keeps the counter time it had left. -/
def State.pulsesAtStep (s : State) (amount : Int) : State :=
  { s with px := mapAll s.px fun _ x => { x with until_ := x.until_.map (moveInstant amount) } }

/-- The scheduler at a step application: every horizon becomes the new reading, and both windows are planned, each
with a fresh budget (R125; DESIGN CHOICE, notes/assumptions/56.md). -/
def State.replanAtStep (s : State) : State :=
  (s.setSched { s.sched with
    dropHorizon := Vector.replicate 8 s.counter.instant, pxHorizon := Vector.replicate 6 s.counter.instant })
    |>.planAtOnce Budget.fresh

/-- What the window that holds the reading has spent at the return from FAULT: the window that the last planning saw
running, or the one after it when its boundary is still owed its planning (R120, R125; DEDUCED,
notes/assumptions/53.md). -/
def State.spentAtReturn (s : State) : Budget :=
  match s.msOwed.boundaries - s.msOwed.planned with
  | 0 => s.sched.spentNow
  | 1 => s.sched.spentNext
  | _ => Budget.fresh

/-- The scheduler at the return from FAULT: both windows are planned, and the boundaries owed have no planning left. -/
def State.replanAtReturn (s : State) : State :=
  ({ s with msOwed := s.msOwed.allPlanned }).planAtOnce s.spentAtReturn

/-- Every pulse output is negated at the entry to FAULT. -/
def State.pulsesAtFault (s : State) : State := { s with px := mapAll s.px fun _ x => { x with until_ := none } }

end Sys2Proof.Machine
end

