-- ==== Sys2Proof/Machine/Faults.lean ====
section
/-! DEFINITION. The oscillator monitor's judgements (R4) and what they do: entry to FAULT, which touches every block
(R13, R45, R68, R124, R125, R152), and the return to WARMUP (R14). -/

namespace Sys2Proof.Machine

/-- The loop at the entry to FAULT (R13, R76, R83). -/
def State.loopAtFault (s : State) : State :=
  s.setLoop { s.loop with lockRun := 0, lossRun := 0, freqLimit := false, phi0 := none, minuteHeld := false }

/-- The timebase controller, the loop and the holdover unit at the entry to FAULT, up to the state and grade notices
(R13, R93, R101). -/
def State.timebaseAtFault (s : State) : State :=
  let t := (s.setOsc { s.osc with warmup := none }).leaveState.loopAtFault.emptyStaging.closeEpisode .fault
  ((t.setTb { t.tb with pendingStep := none, heldGrade := none }).setTbState .fault).regrade

/-- Entry to FAULT (R13). -/
def State.enterFault (s : State) : State :=
  if s.tb.state = .fault then s
  else
    s.timebaseAtFault.frontEndAtFault.refsAtFault.reevaluate.pulsesAtFault.discardPlans.dropsAtFault

/-- Load the warm-up timer from the strap as sampled (R5). -/
def State.loadWarmup (s : State) : State :=
  s.setOsc { s.osc with warmup := some (s.monitorIn (Config.warmupSeconds s.straps.warmSel)) }

/-- Entry to WARMUP from FAULT (R14, R45, R125). -/
def State.returnToWarmup (s : State) : State :=
  if s.tb.state = .fault then
    let t := s.loadWarmup.loopReleased
    ((t.setTb { t.tb with traced := false, steer := clampTo t.lp.yMax t.tb.yFree }).setTbState .warmup).regrade
      |>.frontEndAtWarmup |>.replanAtReturn
  else s

/-- The judgement becomes LOST (R4). -/
def State.judgeLost (s : State) : State :=
  (s.setOsc { s.osc with judgement := .lost, goodRun := 0 }).enterFault

/-- The judgement becomes GOOD (R4). -/
def State.judgeGood (s : State) : State :=
  (s.setOsc { s.osc with judgement := .good, goodRun := 0 }).returnToWarmup

/-- A gate's count lies in range (R4). -/
def gateInRange (edges : Nat) : Bool := Config.gateLow ≤ edges && edges ≤ Config.gateHigh

/-- The edges of a gate at the nominal frequency. -/
def gateNominal : Nat := Config.gateNs / Config.cycleNs

/-- The next gate begins; edges that passed beyond the last one's end are its own, as far as it reaches. -/
def OscMonitor.nextGate (o : OscMonitor) : OscMonitor :=
  { o with
    gateEnd := o.gateEnd + Config.gateNs
    gateEdges := 0
    passedEdges := min o.aheadEdges gateNominal
    aheadEdges := o.aheadEdges - gateNominal
    gapInGate := false }

/-- A gate ends with a count of edges (R4). -/
def State.gateEnds (s : State) (edges : Nat) : State :=
  let t := s.reachMonitor s.osc.gateEnd
  let u := t.setOsc t.osc.nextGate
  match t.osc.judgement with
  | .good => if gateInRange edges then u else u.judgeLost
  | .lost =>
    if gateInRange edges && !t.osc.gapInGate then
      if Config.goodGates ≤ t.osc.goodRun + 1 then u.judgeGood
      else u.setOsc { u.osc with goodRun := t.osc.goodRun + 1 }
    else u.setOsc { u.osc with goodRun := 0 }

/-- A gap in the edges of LO_IN (R4). -/
def State.edgeGap (s : State) : State :=
  let t := s.setOsc { s.osc with gapInGate := true, goodRun := 0 }
  match s.osc.judgement with
  | .good => t.judgeLost
  | .lost => t

end Sys2Proof.Machine
end

