-- ==== Sys2Proof/Machine/Seconds.lean ====
section
/-! DEFINITION. Counter boundaries: the work of a counter second (R3, R21, R36, R78, R87, R97, R113, R115), the
application of a step (R19, R44, R68, R125, R151), and a counter millisecond (R117, R136). -/

namespace Sys2Proof.Machine

/-! ### Steps (R19) -/

/-- The span of the step blank from the reading just after the jump (R19). -/
def Reading.blankLength (after : Reading) (amount : Int) : Nat :=
  let first := if after.ps = 0 ∧ after.frac = 0 then after.sec else after.sec + 1
  let whole : Int := (first + 1) * Config.psPerSecond - after.instant
  (max whole (-amount)).toNat

/-- The leap takes effect (R21). -/
def State.leapEffect (s : State) (l : Leap) : State :=
  s.setTb { s.tb with utcOffset := l.offset, leap := none }

/-- A leap whose effect second the jump reaches or passes takes effect (R19, R21). -/
def State.leapAtStep (s : State) (before : Nat) : State :=
  match s.tb.leap with
  | some l => if before < l.effect ∧ l.effect ≤ s.counter.sec then s.leapEffect l else s
  | none => s

/-- The jump of the counter: the fraction is kept, the pending step goes, the blank begins (R19). -/
def State.jump (s : State) (amount : Int) : State :=
  let after := s.counter.moved amount
  ({ s with counter := after, msOwed := s.msOwed.allPlanned }).setTb
    { s.tb with
      pendingStep := none
      blank := some { start := after.instant, length := after.blankLength amount } }

/-- Apply a step at the boundary of its due second (R19, R34, R44, R68, R115, R124, R125, R151). -/
def State.applyStep (s : State) (p : PendingStep) : State :=
  let t := (s.discardPlans.jump p.amount).disturb
  let t := (((t.dropsAtStep p.amount).frontEndAtStep p.amount p.origin).refsAtStep).pulsesAtStep p.amount
  let t := t.notifyAll (t.notice .timeStepped p.origin.code s.counter.sec t.counter.sec)
  ((t.leapAtStep s.counter.sec).entriesAtStep s.counter.sec).replanAtStep

/-! ### A counter second (R1) -/

/-- How far the reading lies past the boundary whose work is done: later second boundaries that are owed, counter time
in ps, and the fraction. -/
structure Overshoot where
  seconds : Nat
  ps : Nat
  frac : Nat
  deriving DecidableEq, Repr

/-- The reading lies past the oldest boundary owed; one that is not owed is yet to be reached. -/
def State.overshoot (s : State) : Overshoot :=
  if s.secondOwed = 0 then { seconds := 0, ps := 0, frac := 0 }
  else
    { seconds := s.secondOwed - 1, ps := (s.secondOwed - 1) * Config.psPerSecond + s.counter.ps
      frac := s.counter.frac }

/-- The reading at the oldest second boundary owed; with none owed the counter runs on to its next, and the millisecond
boundaries on the way are owed (notes/assumptions/4.md). -/
def State.reachSecond (s : State) : State :=
  if s.secondOwed = 0 then
    { s with
      counter := { sec := (s.counter.sec + 1) % Config.siteSeconds, ps := 0, frac := 0 }
      msOwed := s.msOwed.owe (s.counter.millisPassed (Config.psPerSecond - s.counter.ps)) }
  else
    { s with
      counter :=
        { sec := (s.counter.sec + Config.siteSeconds - (s.secondOwed - 1) % Config.siteSeconds) % Config.siteSeconds
          ps := 0, frac := 0 } }

/-- The counter runs on from a boundary to the reading that it had, what is owed standing as it was. -/
def State.resume (s : State) (o : Overshoot) : State :=
  { s with secondOwed := o.seconds, counter := Reading.at (s.counter.instant + o.ps) o.frac }

/-- What is owed at a boundary, before a step is applied there: no second, and the millisecond boundaries up to it. -/
def State.beforeStep (s : State) (o : Overshoot) : State :=
  { s with secondOwed := 0, msOwed := s.msOwed.without (o.ps / Config.psPerMs) }

/-- The counter runs on from the reading that a step leaves by the time it had run past the boundary; what it passes
now is owed. -/
def State.rerun (s : State) (o : Overshoot) : State :=
  let t := s.runCounter o.ps
  { t with counter := { t.counter with frac := o.frac } }

/-- A counter minute boundary (R3): descent, the close of the minute, the minute of an episode and its grade. -/
def State.minuteBoundary (s : State) : State := s.descend.closeMinute.episodeMinute.regrade

/-- The leap at its effect second (R21). -/
def State.leapAtSecond (s : State) : State :=
  match s.tb.leap with
  | some l => if l.effect = s.counter.sec then s.leapEffect l else s
  | none => s

/-- The sample of the running minute, and at a minute boundary the work of the minute (R3, R87). -/
def State.sampleAndMinute (s : State) : State :=
  let t := s.sampleSecond
  if t.counter.sec % 60 = 0 then t.minuteBoundary else t

/-- The work of a counter second boundary, in the order of notes/assumptions/7.md. Each event hands its alarm
conditions over before the next is taken (R156, R167). -/
def State.secondWork (s : State) : State :=
  ((((s.sampleAndMinute.syncAlarms.closeFqSecond 0).syncAlarms.closeFqSecond
    1).syncAlarms.leapAtSecond).syncAlarms.entriesAtSecond).syncAlarms

/-- The end of a second boundary: a step that is due is applied at the boundary's own reading (R19), where the alarm
conditions that it changes are handed over too, so that a raise or clear brought at once takes the reading that the step
leaves (R159; notes/assumptions/4.md). The counter then runs on to the present. -/
def State.secondEnds (s : State) (o : Overshoot) : State :=
  match s.tb.pendingStep with
  | some p => if p.due = s.counter.sec then ((s.beforeStep o).applyStep p).syncAlarms.rerun o else s.resume o
  | none => s.resume o

/-- A counter second boundary (R1). -/
def State.secondBoundary (s : State) : State :=
  if s.tb.state = .fault then s else s.reachSecond.secondWork.secondEnds s.overshoot

/-! ### A counter millisecond (R117) -/

/-- The counter reaches its next millisecond boundary, when none that it has passed is owed. -/
def State.reachMillisecond (s : State) : State :=
  if s.msOwed.boundaries = 0 then
    let t := s.runCounter (Config.psPerMs - s.counter.ps % Config.psPerMs)
    { t with counter := { t.counter with frac := 0 } }
  else s

/-- The instant of the oldest millisecond boundary owed. -/
def State.oldestMillisecond (s : State) : Nat :=
  wrapInstant
    ((s.counter.instant / Config.psPerMs * Config.psPerMs : Nat) - ((s.msOwed.boundaries - 1) * Config.psPerMs : Nat))

/-- The oldest millisecond boundary owed is taken: the drop timers count down, and the window after the one that begins
there is planned, unless that is done already (R125). A timer that comes to 0 here expires by a command of its own, after
this planning (DESIGN CHOICE, notes/assumptions/68.md). The alarm conditions are handed over at the boundary's own reading
(R159; notes/assumptions/4.md). -/
def State.takeMillisecond (s : State) : State :=
  let t := ({ s with
    counter := Reading.at s.oldestMillisecond 0
    msOwed := { boundaries := s.msOwed.boundaries - 1, planned := s.msOwed.planned - 1 } }).tickDrops
  { (if s.msOwed.planned = 0 then t.planNext else t).syncAlarms with counter := s.counter }

/-- A counter millisecond boundary (R117, R136). -/
def State.millisecondBoundary (s : State) : State :=
  if s.tb.state = .fault then s else s.reachMillisecond.takeMillisecond

end Sys2Proof.Machine
end

