-- ==== Sys2Proof/Machine/Ports.lean ====
section
/-! DEFINITION. The port controllers and the authority unit: the status block (R172), transactions (R173 to R175),
clearing (R181 to R183, R165), the holder and the wait list (R184 to R186), and the execution of a request (R176 to
R178). -/

namespace Sys2Proof.Machine

/-! ### Replies and the status block -/

/-- A reply as its bytes: header, then body (R178). -/
def Reply.bytes (r : Reply) : List Byte :=
  beBytes 2 r.tag.toNat ++ [r.code] ++ beBytes 1 r.status.code ++ r.body

/-- The segment size and the bytes already pulled of the oldest reply (R178). A first segment that was cut short has fixed
no size (DESIGN CHOICE, notes/assumptions/60.md). -/
def PortRec.pullState (q : PortRec) : Progress :=
  match q.progress with
  | some g => g
  | none => { segment := q.maxSegment, pulled := 0 }

/-- The length of the next segment, 0 when no reply waits (R175). -/
def PortRec.nextLength (q : PortRec) : Nat :=
  match q.replies with
  | r :: _ => min q.pullState.segment (r.bytes.length - q.pullState.pulled)
  | [] => 0

/-- The place of a port in the wait list, where 1 is the head (R185). -/
def placeOf (l : List Waiter) (p : Port) : Option Nat := (l.findIdx? fun w => w.port = p).map (· + 1)

/-- The highest waiting urgency, 0 when none waits (R172): the list's head has it. -/
def topUrgency (l : List Waiter) : Nat :=
  match l with
  | w :: _ => w.urgency
  | [] => 0

/-- The authority byte of the status block (10, "Port transactions"). -/
def State.authorityByte (s : State) (p : Port) : Nat :=
  if s.holder = some p then 1 + bitIf (!s.waitList.isEmpty) 2 + 4 * topUrgency s.waitList
  else bitIf (placeOf s.waitList p).isSome 2

/-- The byte of a top unseen alarm: 255 for none. -/
def topByte (n : Nat) : Nat := if n < 32 then n else 255

/-- The status block of a port (R172; 10, "Port transactions"). -/
def State.statusBlock (s : State) (p : Port) : List Byte :=
  let q := s.ports[p]
  let v := s.views[p]
  beBytes 1 (bitIf q.online 1 + bitIf v.attn 2 + bitIf q.overrun 4) ++
    beBytes 1 (Config.shortMax - q.shortQueue.length) ++ beBytes 1 (Config.longMax - q.longQueue.length) ++
    beBytes 2 q.nextLength ++ beBytes 1 v.notices.length ++ beBytes 1 (topByte v.topUnseen) ++
    beBytes 1 (s.authorityByte p)

/-- A status block is taken: it is returned, and the overrun flag that it shows is cleared (R171). -/
def State.takeStatus (s : State) (p : Port) : State :=
  s.setPort p { s.ports[p] with dataOut := s.statusBlock p, overrun := false, transaction := .idle }

/-! ### Transactions (R174, R175) -/

/-- The records that are standing, as a mask. -/
def State.standingMask (s : State) : BitVec 32 :=
  (List.finRange 32).foldl (fun m i => if (s.alarms[i]).standing then m ||| BitVec.twoPow 32 i.val else m) 0

/-- The unseen flags of a port are set for the standing records that its mask enables (R165). -/
def State.flagStanding (s : State) (p : Port) : State :=
  s.setView p { s.views[p] with unseen := (s.views[p]).unseen ||| ((s.views[p]).mask &&& s.standingMask) }

/-- An OFFLINE port becomes ONLINE at the type byte of a PUSH: its standing records are flagged, and its new state is
handed over for PORT_SILENT, before the status block is taken (R183, R188). -/
def State.comeOnline (s : State) (p : Port) : State :=
  if (s.ports[p]).online then s
  else ((s.setPort p { s.ports[p] with online := true }).flagStanding p).syncAlarms

/-- The silence timer is loaded (R180). -/
def State.loadSilence (s : State) (p : Port) : State :=
  s.setPort p { s.ports[p] with silence := some (s.monitorIn (s.ports[p]).silenceTime) }

/-- The type byte of a PUSH (R174). -/
def State.beginPush (s : State) (p : Port) : State :=
  let t := ((s.comeOnline p).loadSilence p).takeStatus p
  t.setPort p { t.ports[p] with transaction := .pushing }

/-- A request joins the queue that its length calls for, or is discarded (R174). -/
def PortRec.queue (q : PortRec) (code : Byte) (tag : BitVec 16) (body : List Byte) : PortRec :=
  let r : Request := { code := code, tag := tag, body := body, order := q.nextOrder }
  if body.length ≤ 16 ∧ q.shortQueue.length < Config.shortMax then
    { q with shortQueue := q.shortQueue ++ [r], nextOrder := q.nextOrder + 1 }
  else if 16 < body.length ∧ body.length ≤ 512 ∧ q.longQueue.length < Config.longMax then
    { q with longQueue := q.longQueue ++ [r], nextOrder := q.nextOrder + 1 }
  else { q with overrun := true }

/-- The last byte of a pushed request arrives (R174). At an OFFLINE port it is discarded (R180), which the overrun flag
shows (R172; notes/assumptions/20.md). -/
def State.requestArrives (s : State) (p : Port) (code : Byte) (tag : BitVec 16) (body : List Byte) : State :=
  let q := { s.ports[p] with transaction := .idle }
  if (s.ports[p]).transaction = .pushing then
    if q.online then s.setPort p (q.queue code tag body) else s.setPort p { q with overrun := true }
  else s

/-- The transaction ends too soon: a PUSH loses its request, a PULL its segment (R174, R175; the size of a first
segment sent again: notes/assumptions/60.md). -/
def State.cutShort (s : State) (p : Port) : State :=
  match (s.ports[p]).transaction with
  | .idle => s
  | .pushing => s.setPort p { s.ports[p] with transaction := .idle, overrun := true }
  | .pulling _ _ => s.setPort p { s.ports[p] with transaction := .idle }

/-- The mark of a segment: ONLY, FIRST, MIDDLE or LAST (R175). -/
def segmentMark (pulled length total : Nat) : Nat :=
  if pulled = 0 then (if length = total then 0 else 1) else if pulled + length = total then 3 else 2

/-- The segment header and the segment's bytes (R175). -/
def PortRec.segmentBytes (q : PortRec) : List Byte :=
  match q.replies with
  | r :: _ =>
    let g := q.pullState
    beBytes 1 (segmentMark g.pulled q.nextLength r.bytes.length) ++ beBytes 2 r.bytes.length ++
      beBytes 2 (r.bytes.length - (g.pulled + q.nextLength)) ++ (r.bytes.drop g.pulled).take q.nextLength
  | [] => []

/-- The type byte of a PULL (R175). -/
def State.beginPull (s : State) (p : Port) : State :=
  let t := s.takeStatus p
  if (s.ports[p]).replies.isEmpty then t
  else
    t.setPort p { t.ports[p] with
      dataOut := (t.ports[p]).dataOut ++ (s.ports[p]).segmentBytes
      transaction := .pulling (s.ports[p]).pullState.segment (s.ports[p]).nextLength }

/-- The last byte of a segment is sent (R175). -/
def State.segmentEnds (s : State) (p : Port) : State :=
  let q := s.ports[p]
  match q.transaction, q.replies with
  | .pulling segment length, r :: rest =>
    if r.bytes.length ≤ q.pullState.pulled + length then
      s.setPort p { q with replies := rest, progress := none, transaction := .idle }
    else
      s.setPort p { q with
        progress := some { segment := segment, pulled := q.pullState.pulled + length }, transaction := .idle }
  | _, _ => s

/-! ### The steering authority (R184 to R186) -/

/-- Place an entry behind every entry of its urgency (R185). -/
def insertWaiter (l : List Waiter) (w : Waiter) : List Waiter :=
  l.takeWhile (fun x => w.urgency ≤ x.urgency) ++ w :: l.dropWhile (fun x => w.urgency ≤ x.urgency)

/-- Remove a port from a wait list. -/
def removeWaiter (l : List Waiter) (p : Port) : List Waiter := l.filter fun w => w.port ≠ p

/-- Grant the authority (R185, R186, R93). -/
def State.grant (s : State) (p : Port) (before : Nat) : State :=
  ({ s with holder := some p }).emptyStaging.notifyAll (s.notice .authGranted p.val before p.val)

/-- The holder releases the authority: the head of the list takes it, or it falls vacant (R186). -/
def State.passAuthority (s : State) (p : Port) : State :=
  match s.waitList with
  | w :: rest => ({ s with waitList := rest }).grant w.port p.val
  | [] => ({ s with holder := none }).emptyStaging

/-- A port gives up the authority or its place in the list (R181, R186). -/
def State.leaveAuthority (s : State) (p : Port) : State :=
  if s.holder = some p then s.passAuthority p
  else { s with waitList := removeWaiter s.waitList p }

/-- AUTH_TAKE by where the port stands (R185). -/
def State.takeAuthority (s : State) (p : Port) (urgency : Nat) : State :=
  if s.holder = none then s.grant p 4
  else if s.holder = some p then s
  else if s.waitList.contains { port := p, urgency := urgency } then s
  else { s with waitList := insertWaiter (removeWaiter s.waitList p) { port := p, urgency := urgency } }

/-! ### Clearing a port (R181) -/

/-- The bytes of the transaction under way when the port is cleared: those of a segment still to be sent, at least one,
are 0 (R180). -/
def PortRec.cutSegment (q : PortRec) (sent : Nat) : List Byte :=
  match q.transaction with
  | .pulling _ _ =>
    q.dataOut.take (8 + min sent (q.dataOut.length - 9)) ++
      List.replicate (q.dataOut.length - (8 + min sent (q.dataOut.length - 9))) 0
  | .pushing => q.dataOut
  | .idle => q.dataOut

/-- The queues and replies of a port are emptied (R181, step 1); a segment being pulled, of which so many bytes have
been sent, is not counted as pulled (R180). -/
def PortRec.clear (q : PortRec) (sent : Nat) : PortRec :=
  { q with
    shortQueue := [], longQueue := [], replies := [], progress := none, overrun := false
    transaction := match q.transaction with
      | .pulling _ _ => .idle
      | .pushing => .pushing
      | .idle => .idle
    dataOut := q.cutSegment sent }

/-- The bytes that a segment under way has sent: a free value of the port and the instant (notes/assumptions/20.md). -/
def State.sentNow (s : State) (p : Port) : Nat := Config.segmentSent p.val s.osc.now

/-- Clear a port: queues, then its view, then its authority (R181, R165). -/
def State.clearPort (s : State) (p : Port) : State :=
  ((s.setPort p ((s.ports[p]).clear (s.sentNow p))).setView p View.powerOn).leaveAuthority p

/-- An ONLINE port goes OFFLINE (R180, R181). -/
def State.goOffline (s : State) (p : Port) : State :=
  (s.setPort p { s.ports[p] with online := false, silence := none }).clearPort p

/-- The silence timer of a port reaches 0 (R180). -/
def State.silenceEnds (s : State) (p : Port) : State :=
  match (s.ports[p]).silence with
  | some d => if (s.ports[p]).online then (s.reachMonitor d).goOffline p else s
  | none => s

/-! ### Execution (R176 to R178) -/

/-- What the owning block answers to a request. -/
inductive Verdict where
  | refuse (status : Status)
  | accept (status : Status) (body : List Byte) (s : State)

/-- The oldest request of a port, and the port without it (R176). -/
def PortRec.oldest (q : PortRec) : Option (Request × PortRec) :=
  match q.shortQueue, q.longQueue with
  | [], [] => none
  | r :: rs, [] => some (r, { q with shortQueue := rs })
  | [], l :: ls => some (l, { q with longQueue := ls })
  | r :: rs, l :: ls =>
    if r.order < l.order then some (r, { q with shortQueue := rs }) else some (l, { q with longQueue := ls })

/-- A reply joins the newest end of the reply queue (R178). -/
def State.reply (s : State) (p : Port) (r : Request) (status : Status) (body : List Byte) : State :=
  s.setPort p { s.ports[p] with
    replies := (s.ports[p]).replies ++ [{ tag := r.tag, code := r.code, status := status, body := body }] }

/-- The state and the reply that a verdict leaves, from the state with the request out of its queue (R177). -/
def State.conclude (t : State) (p : Port) (r : Request) (v : Verdict) : State :=
  match v with
  | .refuse status => t.reply p r status []
  | .accept status body u => u.reply p r status body

/-- Execute the oldest request of a port, when its code satisfies `mine` and a reply has room (R176). -/
def State.execute (s : State) (p : Port) (mine : Nat → Bool) (f : Request → State → Verdict) : State :=
  match (s.ports[p]).oldest with
  | some (r, q) =>
    if mine r.code.toNat ∧ (s.ports[p]).replies.length < Config.replyMax then
      (s.setPort p q).conclude p r (f r (s.setPort p q))
    else s
  | none => s

/-- Execute a request of one code, on its body. -/
def State.answer (s : State) (p : Port) (code : Nat) (f : List Byte → State → Verdict) : State :=
  s.execute p (fun c => c = code) fun r t => f r.body t

/-- A body that does not parse is refused MALFORMED before every other check (R177). -/
def parsed {α : Type} (o : Option α) (f : α → Verdict) : Verdict :=
  match o with
  | some a => f a
  | none => .refuse .malformed

/-- A check: refused with a status when it holds. -/
def refuseIf (b : Bool) (status : Status) (v : Verdict) : Verdict := if b then .refuse status else v

/-- The port does not hold the steering authority (R187). -/
def State.notHolder (s : State) (p : Port) : Bool := s.holder ≠ some p

/-- The codes that name a request (10, "Request codes"). -/
def knownCode (c : Nat) : Bool :=
  (16 ≤ c && c ≤ 19) || (32 ≤ c && c ≤ 36) || (48 ≤ c && c ≤ 51) || (64 ≤ c && c ≤ 70) ||
    (80 ≤ c && c ≤ 82) || (96 ≤ c && c ≤ 100) || (112 ≤ c && c ≤ 115)

/-- A port reset: the port is cleared, the standing records flagged, and DONE is the only reply (R182, R165). -/
def State.resetPort (s : State) (p : Port) (r : Request) : State :=
  let t := (s.setPort p ((s.ports[p]).clear (s.sentNow p))).setView p View.powerOn
  (((t.flagStanding p).leaveAuthority p).reply p r .done []).syncAlarms

/-- Execute PORT_RESET as soon as it is the oldest request (R176, R182). -/
def State.portResets (s : State) (p : Port) : State :=
  match (s.ports[p]).oldest with
  | some (r, q) => if r.code.toNat = 115 then (s.setPort p q).resetPort p r else s
  | none => s

end Sys2Proof.Machine
end

