-- ==== Sys2Proof/Machine/Replies.lean ====
section
/-! DEFINITION. The reply bodies of the reads, byte by byte: the fields in the order of the rules that list them, each
in the width of its kind (R189; notes/assumptions/9.md and 10.md for what the rules leave open). -/

namespace Sys2Proof.Machine

/-! ### Fields -/

/-- An index, number or code in one byte; a count or duration in four; a value in ppt or ppt per hour in four; a value
in ps in eight; a counter second in six. -/
def numberBytes (n : Nat) : List Byte := beBytes 1 n
def countBytes (n : Nat) : List Byte := beBytes 4 n
def pptBytes (i : Int) : List Byte := beInt 4 i
def psBytes (i : Int) : List Byte := beInt 8 i
def secondBytes (n : Nat) : List Byte := beBytes 6 n

/-- A list of records after its number. -/
def listBytes {α : Type} (l : List α) (f : α → List Byte) : List Byte := beBytes 1 l.length ++ l.flatMap f

/-! ### TIME_READ and STATE_READ (R24, R85, R104, R188) -/

def State.timeBody (s : State) : List Byte :=
  readingBytes s.counter ++ numberBytes s.tb.state.code ++ numberBytes s.tb.grade.code ++ beInt 2 s.tb.utcOffset

/-- The pending step of STATE_READ: amount, origin, due second (R24). An amount beyond 8 signed bytes is shown
modulo 2^64 (DESIGN CHOICE, notes/assumptions/42.md). -/
def PendingStep.bytes (p : PendingStep) : List Byte :=
  psBytes p.amount ++ numberBytes p.origin.code ++ secondBytes p.due

def Leap.bytes (l : Leap) : List Byte := secondBytes l.effect ++ beInt 2 l.offset

/-- In WARMUP, the remaining warm-up seconds (R5). -/
def State.warmupLeft (s : State) : Option Nat :=
  if s.tb.state = .warmup then some (s.secondsTo (s.osc.warmup.getD s.osc.now)) else none

def State.timebaseBody (s : State) : List Byte :=
  numberBytes s.tb.state.code ++ numberBytes s.tb.grade.code ++ boolBytes s.tb.traced ++
    optBytes s.tb.episode (fun m => numberBytes m.code) ++ optBytes s.tb.heldGrade (fun g => numberBytes g.code) ++
    boolBytes s.tb.force ++ optBytes s.tb.pendingStep PendingStep.bytes ++ beInt 2 s.tb.utcOffset ++
    optBytes s.tb.leap Leap.bytes ++ boolBytes s.tb.labelAdoption ++ boolBytes s.aligned ++ pptBytes s.tb.yFree ++
    numberBytes s.osc.judgement.code ++ optBytes s.warmupLeft countBytes

/-- The steer value in force, or none in FAULT (R85). -/
def State.steerShown (s : State) : Option Int := if s.tb.state = .fault then none else some s.tb.steer

/-- The loop fields of R85. The last loop input and the phase origin are shown modulo 2^64 (DESIGN CHOICE,
notes/assumptions/65.md). -/
def State.loopBody (s : State) : List Byte :=
  numberBytes s.loop.cls ++ numberBytes s.lp.trackingClass ++ numberBytes s.lp.assistClass ++ beInt 8 s.loop.integ ++
    pptBytes s.loop.y ++ optBytes s.steerShown pptBytes ++ boolBytes s.loop.freqLimit ++ countBytes s.loop.lockRun ++
    countBytes s.loop.lossRun ++ boolBytes s.loop.firstAcq ++ optBytes s.loop.lastU psBytes ++
    optBytes s.loop.phi0 psBytes ++ pptBytes s.lp.yMax ++ psBytes s.lp.stepThreshold ++
    numberBytes s.lp.stepPolicy.code ++ countBytes s.lp.lockThreshold ++ countBytes s.lp.lossThreshold

/-- The episode record (R94, R104). Minute counts and a TE0 beyond their four bytes are shown modulo 2^32 (DESIGN CHOICE,
notes/assumptions/66.md). -/
def EpisodeRecord.bytes (e : EpisodeRecord) : List Byte :=
  boolBytes e.closed.isSome ++ optBytes e.closed (fun c => numberBytes c.code) ++ readingBytes e.opening ++
    beInt 4 e.openingIndex ++ countBytes e.c ++ pptBytes e.yH ++ pptBytes e.drift ++ pptBytes e.sigma ++
    beInt 4 e.te0 ++ pptBytes e.aging ++ pptBytes e.assistUncertainty ++ countBytes e.mH ++ countBytes e.mA ++
    beInt 4 e.hee

def HoldParams.bytes (h : HoldParams) : List Byte :=
  countBytes h.guardRecords ++ countBytes h.recordCount ++ pptBytes h.spreadFloor ++ boolBytes h.drift ++
    pptBytes h.driftLimit ++ countBytes h.lockNoise ++ pptBytes h.aging ++ pptBytes h.assistUncertainty ++
    countBytes h.t1 ++ countBytes h.t2 ++ countBytes h.t3

def State.holdBody (s : State) : List Byte :=
  countBytes s.hold.history.length ++ optBytes (s.hold.history.getLast?.map (·.index)) (beInt 4) ++
    boolBytes s.hold.acc.locked ++ boolBytes s.hold.acc.disturbed ++ optBytes s.hold.episode EpisodeRecord.bytes ++
    s.hp.bytes ++ countBytes s.hold.staging.length

/-- A port as R188 shows it: 1 ONLINE or 0 OFFLINE (DESIGN CHOICE, notes/assumptions/63.md), and the free places of its
short, long and reply queues (R170, R188; DEDUCED, notes/assumptions/67.md). -/
def PortRec.shownBytes (q : PortRec) : List Byte :=
  boolBytes q.online ++ countBytes (Config.shortMax - q.shortQueue.length) ++
    countBytes (Config.longMax - q.longQueue.length) ++ countBytes (Config.replyMax - q.replies.length)

def State.authorityBody (s : State) : List Byte :=
  optBytes s.holder (fun p => numberBytes p.val) ++
    listBytes s.waitList (fun w => numberBytes w.port.val ++ numberBytes w.urgency) ++
    (List.finRange 4).flatMap fun p => (s.ports[p]).shownBytes

def State.stateBody (s : State) : List Byte := s.timebaseBody ++ s.loopBody ++ s.holdBody ++ s.authorityBody

/-! ### REF_READ (R25, R26, R47, R70) -/

/-- Seconds counted since an instant of monitor time, shown modulo 2^32 (DESIGN CHOICE, notes/assumptions/66.md). -/
def State.sinceBytes (s : State) (o : Option Nat) : List Byte := optBytes (o.map s.secondsSince) countBytes

/-- The set of causes of a period, one bit each. -/
def causesBytes (l : List Cause) : List Byte := beBytes 2 (l.foldl (fun n c => n + 2 ^ c.bit) 0)

/-- The fields of R25 and R29. A frequency offset beyond 4 signed bytes, a phase or loop input beyond 8, or a count of
edges beyond 4, is shown modulo 2^32 or 2^64 (DESIGN CHOICE, notes/assumptions/65.md). -/
def Measurement.bytes (m : Measurement) : List Byte :=
  numberBytes m.slot.val ++ readingBytes m.time ++ boolBytes (!m.causes.isEmpty) ++ causesBytes m.causes ++
    optBytes m.e psBytes ++ optBytes m.u psBytes ++ optBytes m.labelSec secondBytes ++
    optBytes m.quality numberBytes ++ optBytes m.status (fun x => numberBytes x.code) ++ optBytes m.utc (beInt 2) ++
    optBytes m.leap (fun x => numberBytes x.code) ++ optBytes m.leapSec secondBytes ++
    optBytes (if Slot.isTa m.slot then some m.straddles else none) boolBytes ++
    optBytes m.phi psBytes ++ optBytes m.freq pptBytes ++ optBytes m.count countBytes ++
    optBytes m.noise countBytes ++ optBytes m.interval numberBytes

/-- The fields of R47. The pair result is 1 for PASS and 0 for FAIL (DESIGN CHOICE, notes/assumptions/46.md). -/
def State.refBytes (s : State) (i : Slot) : List Byte :=
  let r := s.refs[i]
  numberBytes i.val ++ boolBytes r.enabled ++ numberBytes r.state.code ++ numberBytes r.score ++
    countBytes r.streak ++ optBytes (r.holdoff.map s.secondsTo) countBytes ++ numberBytes r.k ++
    s.sinceBytes r.qualifiedSince ++ numberBytes r.priority ++ optBytes r.partner (fun q => numberBytes q.val) ++
    countBytes r.pairWindow ++ optBytes r.pairSample (fun x => secondBytes x.sec ++ psBytes x.e) ++
    optBytes r.pairResult boolBytes ++ optBytes r.labelSample (fun x => secondBytes x.sec ++ secondBytes x.label) ++
    numberBytes r.rankQuality ++ s.sinceBytes r.candidateSince ++ countBytes r.qualifyTime ++
    numberBytes r.threshold ++ optBytes r.latest Measurement.bytes ++ countBytes r.goodCount ++
    countBytes r.badCount ++ countBytes r.conflictCount

def TaParams.bytes (p : TaParams) : List Byte :=
  numberBytes p.edge.code ++ psBytes p.compensation ++ countBytes p.window ++ countBytes p.jumpLimit
def FqParams.bytes (p : FqParams) : List Byte := countBytes p.nominal ++ pptBytes p.accept
def OfParams.bytes (p : OfParams) : List Byte := psBytes p.noiseLimit ++ numberBytes p.minQuality

/-- The measurement parameters of a slot's kind (R26). -/
def State.paramBytes (s : State) (i : Slot) : List Byte :=
  if Slot.isTa i then (s.ta[Slot.taInput i]).params.bytes
  else if Slot.isFq i then (s.fq[Slot.fqInput i]).params.bytes
  else (s.ofs[Slot.ofInput i]).params.bytes

/-- One record of REF_READ (R70). -/
def State.refBody (s : State) (i : Slot) : List Byte :=
  s.refBytes i ++ s.paramBytes i ++ boolBytes (s.phaseCandidate i) ++ boolBytes (s.assistCandidate i) ++
    (if Slot.isTa i then countBytes (s.ta[Slot.taInput i]).stray else [])

def State.selectorBody (s : State) : List Byte :=
  optBytes s.sel.phase (fun i => numberBytes i.val) ++ optBytes s.sel.assist (fun i => numberBytes i.val) ++
    numberBytes s.sel.mode.code ++ countBytes s.sel.wtr ++ optBytes s.sel.force (fun i => numberBytes i.val)

def State.refsBody (s : State) (l : List Slot) : List Byte := l.flatMap s.refBody ++ s.selectorBody

/-! ### HISTORY_READ (R90, R190) -/

def MinuteRecord.bytes (r : MinuteRecord) : List Byte :=
  beInt 4 r.index ++ beInt 4 r.mean ++ beInt 2 r.least ++ beInt 2 r.greatest ++ beBytes 1 r.samples ++
    beBytes 1 r.slot ++ beBytes 1 r.cls ++ beBytes 1 (bitIf r.disturbed 1 + bitIf r.restored 2)

/-- The mean of the running minute, when it has a sample. -/
def Accumulator.shownMean (a : Accumulator) : Option Int := if 1 ≤ a.count then some a.mean else none

def State.historyBody (s : State) (n : Nat) : List Byte :=
  countBytes s.hold.history.length ++
    (s.hold.history.drop (s.hold.history.length - n)).flatMap MinuteRecord.bytes ++ beInt 4 s.tb.minuteIndex ++
    boolBytes s.hold.acc.locked ++ boolBytes s.hold.acc.disturbed ++ countBytes s.hold.acc.count ++
    optBytes s.hold.acc.shownMean pptBytes ++ countBytes s.hold.staging.length

/-! ### ENTRY_READ (R105, R127) -/

def Link.bytes (l : Link) : List Byte :=
  match l with
  | .anchor period offset start stop =>
    beBytes 1 0 ++ optBytes (some period) countBytes ++ optBytes (some offset) countBytes ++
      optBytes start secondBytes ++ optBytes stop secondBytes ++ boolBytes false ++ boolBytes false ++ boolBytes false
  | .relative a rel divider phase =>
    beBytes 1 1 ++ numberBytes a.val ++ boolBytes false ++ boolBytes false ++ boolBytes false ++ boolBytes false ++
      optBytes (some rel) (beInt 4) ++ optBytes (some divider) numberBytes ++ optBytes (some phase) numberBytes

def Entry.bytes (e : Entry) : List Byte :=
  numberBytes e.state.code ++ numberBytes e.owner.val ++ numberBytes e.fields.kind.code ++
    numberBytes e.fields.target.code ++ e.fields.link.bytes ++ optBytes e.fields.width countBytes ++
    optBytes e.fields.squelch (fun g => numberBytes g.code) ++ countBytes e.emitted ++ countBytes e.skipped ++
    countBytes e.suppressed

/-- A FREE entry shows its index and state alone (R127). -/
def State.entryBody (s : State) (i : EntryIx) : List Byte :=
  numberBytes i.val ++
    (match s.entries[i] with
      | some e => e.bytes
      | none => numberBytes 0)

def State.entriesBody (s : State) (l : List EntryIx) : List Byte :=
  l.flatMap s.entryBody ++ ((List.finRange 8).flatMap fun d => numberBytes (portCode (s.drops[d]).owner)) ++
    ((List.finRange 6).flatMap fun x => numberBytes (portCode (s.px[x]).owner)) ++
    ((List.finRange 6).flatMap fun x => countBytes (s.px[x]).compensation ++ boolBytes (s.px[x]).until_.isSome) ++
    numberBytes s.sched.pointer.val ++
    countBytes (match s.sched.overrunHold with
      | some t => s.secondsTo t
      | none => 0) ++
    numberBytes s.sched.gradeUsed.code ++ countBytes s.sched.unitsNow

/-! ### DROP_READ (R128, R129, R154) -/

/-- The turn: 0 IN; or 1 OUT, the turn start, and 0 for a PROBE or 1 for an OFFER (DESIGN CHOICE,
notes/assumptions/57.md). -/
def Turn.bytes (t : Turn) : List Byte :=
  match t with
  | .isIn => beBytes 1 0
  | .out start m _ _ _ => beBytes 1 1 ++ readingBytes (stampReading start) ++ beBytes 1 (if m = .probe then 0 else 1)

/-- The fields of R128. The owner is an output owner code, 4 for none (DEDUCED, notes/assumptions/61.md). -/
def DropRec.fieldBytes (r : DropRec) : List Byte :=
  numberBytes (portCode r.owner) ++ boolBytes r.enabled ++ numberBytes r.state.code ++ numberBytes r.profile.val ++
    optBytes r.expected (beBytes 8) ++ optBytes r.joined (beBytes 8) ++ optBytes r.refused (beBytes 8) ++
    boolBytes r.compact ++ listBytes r.ring psBytes ++ psBytes r.delay ++ countBytes r.failRun ++ r.turn.bytes ++
    countBytes r.backlog ++ countBytes r.placed ++ optBytes r.lastFullUpper countBytes ++
    optBytes r.lastFullOffset (beInt 2) ++ countBytes r.annCounter ++ boolBytes r.stepFlag ++
    optBytes r.annTimer countBytes ++ optBytes r.probeTimer countBytes ++ optBytes r.offerTimer countBytes ++
    boolBytes r.probeDue ++ boolBytes r.offerDue ++ optBytes r.probeDueSince readingBytes ++
    optBytes r.unitStatus (fun u => numberBytes u.code) ++
    optBytes r.newestResult (fun t => readingBytes (stampReading t))

def DropRec.countsBytes (r : DropRec) : List Byte :=
  countBytes r.offersSent ++ countBytes r.joinsAccepted ++ countBytes r.joinsRefused ++ countBytes r.probesSent ++
    countBytes r.validExchanges ++ countBytes r.failNoEcho ++ countBytes r.failCheck ++ countBytes r.failRange ++
    countBytes r.failWrongReply ++ countBytes r.failContention ++ countBytes r.contentions ++ countBytes r.aborted ++
    countBytes r.fullSent ++ countBytes r.shortSent ++ countBytes r.unsent

def Profile.bytes (p : Profile) : List Byte :=
  numberBytes p.squelch.code ++ countBytes p.announceInterval ++ numberBytes p.fullEvery ++ psBytes p.asymmetry ++
    psBytes p.fixedDelay ++ countBytes p.tolerance ++ psBytes p.maxRtt ++ countBytes p.probeInterval ++
    countBytes p.offerInterval ++ countBytes p.turnLimit

/-- The counter milliseconds since probe due became true, when it is true (R154). -/
def State.probeWait (s : State) (r : DropRec) : Option Nat :=
  if r.probeDue then r.probeDueSince.map fun t => elapsed t.instant s.counter.instant / Config.psPerMs else none

/-- One drop of DROP_READ (R154). The time that probe due has been true is shown in four bytes, modulo 2^32 (DESIGN
CHOICE, notes/assumptions/66.md). -/
def State.dropBody (s : State) (d : DropIx) : List Byte :=
  (s.drops[d]).fieldBytes ++ optBytes (s.probeWait s.drops[d]) countBytes ++ (s.drops[d]).countsBytes ++
    (s.profileOf d).bytes

/-! ### ALARM_READ (R166) and NOTICE_READ (R169) -/

/-- Counter seconds and nanoseconds of a reading, 0 when absent. -/
def whenBytes (o : Option Reading) : List Byte :=
  match o with
  | some r => beBytes 6 r.sec ++ beBytes 4 (r.ps / 1000)
  | none => beBytes 6 0 ++ beBytes 4 0

/-- An alarm read record of 33 bytes. -/
def State.alarmBody (s : State) (p : Port) (i : AlarmIx) : List Byte :=
  let a := s.alarms[i]
  let v := s.views[p]
  beBytes 1 i.val ++
    beBytes 1 (bitIf a.condition 1 + bitIf a.timer.isSome 2 + bitIf a.lastRaise.isSome 4 +
      bitIf a.lastClear.isSome 8 + bitIf (v.mask.getLsbD i.val) 16 + bitIf (v.unseen.getLsbD i.val) 32) ++
    beBytes 1 a.state.code ++ beBytes 1 a.severity.code ++ beBytes 1 a.raisePersistence ++
    beBytes 2 a.clearPersistence ++
    beBytes 4 (match a.timer with
      | some t => s.millisTo t
      | none => 0) ++
    beBytes 2 a.raiseCount ++ whenBytes a.lastRaise ++ whenBytes a.lastClear

/-- The seven bytes after the alarm records. -/
def State.alarmTail (s : State) (p : Port) : List Byte :=
  let v := s.views[p]
  boolBytes s.almCrit ++ boolBytes s.almMaj ++ boolBytes v.lineEnable ++ beBytes 2 v.eventMask.toNat ++
    boolBytes v.attn ++ beBytes 1 (topByte v.topUnseen)

def State.alarmsBody (s : State) (p : Port) (first count : Nat) : List Byte :=
  (((List.finRange 32).filter fun i => first ≤ i.val && i.val < first + count).flatMap (s.alarmBody p)) ++
    s.alarmTail p

/-- A notice record of 28 bytes. -/
def Notice.bytes (n : Notice) : List Byte :=
  beBytes 1 n.kind.code ++ beBytes 1 n.subject ++ beBytes 6 n.sec ++ beBytes 4 n.ns ++ beInt 8 n.old ++ beInt 8 n.new

def noticesBody (l : List Notice) (overflow : Bool) : List Byte :=
  beBytes 1 l.length ++ boolBytes overflow ++ l.flatMap Notice.bytes

end Sys2Proof.Machine
end

