-- ==== Sys2Proof/Machine/ClockEvents.lean ====
section
/-! DEFINITION. The events of reset, of the counter's boundaries and of the oscillator monitor. -/

namespace Sys2Proof.Machine

/-- The end of a command: the alarm conditions are handed over (R156, R167). -/
def finish (s : State) : Result := .next s.syncAlarms

/-- RESET_RELEASE (R6, R5, R184): every block takes its reset values and the straps are sampled. -/
def execResetRelease (authSel : Fin 8) (warmSel : Fin 4) (s : State) : Result :=
  .next ((State.released authSel warmSel).setPending s.pending)

/-- COUNTER_SECOND_BOUNDARY (R1). -/
def execCounterSecondBoundary (s : State) : Result := finish s.secondBoundary

/-- COUNTER_MILLISECOND_BOUNDARY (R117). -/
def execCounterMillisecondBoundary (s : State) : Result := finish s.millisecondBoundary

/-- MONITOR_GATE_END (R4). -/
def execMonitorGateEnd (edges : Nat) (s : State) : Result := finish (s.gateEnds edges)

/-- LO_IN_GAP (R4). -/
def execLoInGap (e : Elapsed) (s : State) : Result := finish (s.pass e).edgeGap

/-- WARMUP_EXPIRY (R8). -/
def execWarmupExpiry (s : State) : Result :=
  match s.osc.warmup with
  | some d => if s.tb.state = .warmup then finish (s.reachMonitor d).warmupEnds else .next s
  | none => .next s

end Sys2Proof.Machine
end

