-- ==== Sys2Proof/Machine/InputEvents.lean ====
section
/-! DEFINITION. The events of the reference inputs, and the timers of the reference records. -/

namespace Sys2Proof.Machine

/-- TA_ACTIVE_EDGE (R27, R35, R45). -/
def execTaActiveEdge (e : Elapsed) (i : InputIx) (s : State) : Result := finish ((s.pass e).taEdge i)

/-- TA_TRAILING_EDGE (R28, R30). -/
def execTaTrailingEdge (e : Elapsed) (i : InputIx) (s : State) : Result := finish ((s.pass e).taTrailing i)

/-- TA_LABEL_COMPLETE (R29, R192): the bytes that end with the last of a message, taken one by one. -/
def execTaLabelComplete (e : Elapsed) (i : InputIx) (bytes : List Byte) (s : State) : Result :=
  finish ((s.pass e).labelBytes i bytes)

/-- LABEL_BYTE_GAP (R29). -/
def execLabelByteGap (i : InputIx) (s : State) : Result := .next (s.labelGap i)

/-- LABEL_FRAMING_ERROR (R29). -/
def execLabelFramingError (e : Elapsed) (i : InputIx) (s : State) : Result := .next ((s.pass e).dropLabel i)

/-- LABEL_START_BYTE (R192). -/
def execLabelStartByte (e : Elapsed) (i : InputIx) (s : State) : Result := finish ((s.pass e).labelByte i 126)

/-- TA_LABEL_WINDOW_CLOSE (R30). -/
def execTaLabelWindowClose (i : InputIx) (s : State) : Result := finish (s.taWindowClose i)

/-- TA_GLITCH_GUARD_END (R27). -/
def execTaGlitchGuardEnd (i : InputIx) (s : State) : Result := finish (s.taGuardEnd i)

/-- TA_ACTIVITY_TIMEOUT (R35). -/
def execTaActivityTimeout (i : InputIx) (s : State) : Result := finish (s.taTimeout i)

/-- FQ_EDGE (R36, R40, R45): `n` edges, the last of them now. -/
def execFqEdge (e : Elapsed) (i : InputIx) (n : Nat) (s : State) : Result := .next ((s.pass e).fqEdges i n)

/-- FQ_ACTIVITY_TIMEOUT (R40). -/
def execFqActivityTimeout (i : InputIx) (s : State) : Result := finish (s.fqTimeout i)

/-- OF_ACTIVITY_TIMEOUT (R43). -/
def execOfActivityTimeout (p : Port) (s : State) : Result := finish (s.ofTimeout p)

/-- HOLDOFF_EXPIRY (R54). -/
def execHoldoffExpiry (slot : Slot) (s : State) : Result :=
  match (s.refs[slot]).holdoff with
  | some d => finish ((s.reachMonitor d).holdoffEnds slot)
  | none => .next s

/-- QUALIFIED_HOUR (R54). -/
def execQualifiedHour (slot : Slot) (s : State) : Result :=
  match (s.refs[slot]).qualifiedSince with
  | some t =>
    .next ((s.reachMonitor (t + 3600 * Config.nsPerSecond)).setRef slot { s.refs[slot] with k := 0 })
  | none => .next s

/-- A better-ranked candidate waits to replace the selected reference (R60). -/
def State.waitsToReplace (s : State) (slot : Slot) : Bool :=
  s.sel.mode = .revertive && s.sel.force.isNone && s.phaseCandidate slot &&
    (match s.sel.phase with
      | some p => s.phaseCandidate p && s.ranksBefore slot p
      | none => false)

/-- REVERTIVE_WAIT_EXPIRY (R60). -/
def execRevertiveWaitExpiry (slot : Slot) (s : State) : Result :=
  match (s.refs[slot]).candidateSince with
  | some t =>
    if s.waitsToReplace slot then finish (s.reachMonitor (t + s.sel.wtr * Config.nsPerSecond)).reevaluate
    else .next s
  | none => .next s

end Sys2Proof.Machine
end

