-- ==== Sys2Proof/Machine/EmissionEvents.lean ====
section
/-! DEFINITION. The events of the emission scheduler, of the drops and their lines, and of the alarm records' timers. -/

namespace Sys2Proof.Machine

/-! ### Emission -/

/-- HARD_INSTANCE_RELEASE (R123, R124). -/
def execHardInstanceRelease (n : EntryIx) (s : State) : Result := finish (s.releaseHard n)

/-- PULSE_END (R124). -/
def execPulseEnd (x : Px) (s : State) : Result := .next (s.endPulse x)

/-- EMIT_OVERRUN_HOLD_EXPIRY (R121). -/
def execEmitOverrunHoldExpiry (s : State) : Result :=
  match s.sched.overrunHold with
  | some d => finish ((s.reachMonitor d).setSched { s.sched with overrunHold := none })
  | none => .next s

/-- SOFT_ITEM_RELEASE (R133, R150). -/
def execSoftItemRelease (d : DropIx) (s : State) : Result := finish (s.releaseSoft d)

/-! ### Drop lines -/

/-- TURN_OUT (R134). -/
def execTurnOut (d : DropIx) (s : State) : Result :=
  match (s.drops[d]).line with
  | some m =>
    match m.kind with
    | .probe _ _ _ => .next ((s.reachInstant (wrapInstant (m.start + m.length))).handTurnOut d)
    | .offer _ _ => .next ((s.reachInstant (wrapInstant (m.start + m.length))).handTurnOut d)
    | .mark => .next s
    | .announce _ _ => .next s
  | none => .next s

/-- TURN_LIMIT_EXPIRY (R134). -/
def execTurnLimitExpiry (d : DropIx) (s : State) : Result :=
  match (s.drops[d]).turn with
  | .out start _ limit _ _ => finish ((s.reachInstant (wrapInstant (start + limit))).turnLimitPasses d)
  | .isIn => .next s

/-- DROP_MESSAGE_COMPLETE (R134, R137, R142, R193). -/
def execDropMessageComplete (e : Elapsed) (d : DropIx) (bytes : List Byte) (s : State) : Result :=
  finish ((s.pass e).unitMessage d bytes)

/-- DROP_CONTENTION (R135). -/
def execDropContention (e : Elapsed) (d : DropIx) (s : State) : Result := finish ((s.pass e).activityBegins d)

/-- DROP_LINE_IDLE (R134, R135). -/
def execDropLineIdle (e : Elapsed) (d : DropIx) (s : State) : Result := finish ((s.pass e).lineIdle d)

/-- UNIT_MESSAGE_FIRST_BYTE (R134, R142). -/
def execUnitMessageFirstByte (e : Elapsed) (d : DropIx) (s : State) : Result := finish ((s.pass e).unitFirstByte d)

/-! ### Drop timers -/

/-- OFFER_TIMER_EXPIRY (R136). -/
def execOfferTimerExpiry (d : DropIx) (s : State) : Result :=
  if s.timerExpires (s.drops[d]).offerTimer then
    .next (s.setDrop d { s.drops[d] with offerTimer := none, offerDue := true })
  else .next s

/-- PROBE_TIMER_EXPIRY (R139, R140). -/
def execProbeTimerExpiry (d : DropIx) (s : State) : Result :=
  if s.timerExpires (s.drops[d]).probeTimer then
    .next (s.setDrop d { s.drops[d] with probeTimer := none, probeDue := true, probeDueSince := some s.counter })
  else .next s

/-- The backlog after an expiry of the announcement timer: nothing falls owed in WARMUP or FAULT (R146). -/
def State.backlogAfter (s : State) (r : DropRec) : Nat :=
  if s.tb.state = .warmup ∨ s.tb.state = .fault then r.backlog else min 15 (r.backlog + 1)

/-- ANNOUNCEMENT_TIMER_EXPIRY (R146). -/
def execAnnouncementTimerExpiry (d : DropIx) (s : State) : Result :=
  if s.timerExpires (s.drops[d]).annTimer then
    finish (s.setDrop d { s.drops[d] with
      annTimer := some (s.profileOf d).announceInterval, backlog := s.backlogAfter s.drops[d] })
  else .next s

/-! ### Alarm records -/

/-- ALARM_PERSISTENCE_EXPIRY (R158). -/
def execAlarmPersistenceExpiry (a : AlarmIx) (s : State) : Result :=
  match (s.alarms[a]).timer with
  | some d => .next ((s.reachMonitor d).persistenceExpires a)
  | none => .next s

end Sys2Proof.Machine
end

