-- ==== Sys2Proof/Machine/PortEvents.lean ====
section
/-! DEFINITION. The transactions of a control port and its silence timer. -/

namespace Sys2Proof.Machine

/-- PEEK (R173). -/
def execPeek (e : Elapsed) (p : Port) (s : State) : Result := .next ((s.pass e).takeStatus p)

/-- PUSH (R174, R183). -/
def execPush (e : Elapsed) (p : Port) (s : State) : Result := finish ((s.pass e).beginPush p)

/-- REQUEST_ARRIVAL (R174). -/
def execRequestArrival (e : Elapsed) (p : Port) (code : Byte) (tag : BitVec 16) (body : List Byte) (s : State) :
    Result :=
  .next ((s.pass e).requestArrives p code tag body)

/-- TRANSACTION_CUT_SHORT (R174, R175). -/
def execTransactionCutShort (e : Elapsed) (p : Port) (s : State) : Result := .next ((s.pass e).cutShort p)

/-- PULL (R175). -/
def execPull (e : Elapsed) (p : Port) (s : State) : Result := .next ((s.pass e).beginPull p)

/-- SEGMENT_PULLED (R175). -/
def execSegmentPulled (e : Elapsed) (p : Port) (s : State) : Result := .next ((s.pass e).segmentEnds p)

/-- UNKNOWN_TRANSACTION_TYPE (R171): the status block and nothing else. -/
def execUnknownTransactionType (e : Elapsed) (p : Port) (s : State) : Result := .next ((s.pass e).takeStatus p)

/-- SILENCE_TIMER_EXPIRY (R180, R181). -/
def execSilenceTimerExpiry (p : Port) (s : State) : Result := finish (s.silenceEnds p)

end Sys2Proof.Machine
end

