-- ==== Sys2Proof/Machine/TimeRequests.lean ====
section
/-! DEFINITION. The requests of the timebase and of the discipline loop and holdover unit. -/

namespace Sys2Proof.Machine

/-! ### TIME_READ, STATE_READ (R24) -/

def readTime (body : List Byte) (s : State) : Verdict := parsed (parseEmpty body) fun _ => .accept .done s.timeBody s

/-- TIME_READ (R24). -/
def execTimeRead (p : Port) (s : State) : Result := .next (s.answer p 16 readTime)

def readState (body : List Byte) (s : State) : Verdict :=
  parsed (parseEmpty body) fun _ => .accept .done s.stateBody s

/-- STATE_READ (R24, R85, R104, R188). -/
def execStateRead (p : Port) (s : State) : Result := .next (s.answer p 17 readState)

/-! ### TIME_STEP (R17) -/

/-- The amount is 0 or exceeds 1,000 s (R17). -/
def badAmount (a : Int) : Bool := a = 0 || 1000000000000000 < a.natAbs

def stepTime (p : Port) (body : List Byte) (s : State) : Verdict :=
  parsed (parseTimeStep body) fun amount =>
    refuseIf (s.notHolder p) .notHolder <|
    refuseIf (s.tb.state = .fault) .wrongState <|
    refuseIf (badAmount amount) .badValue <|
    refuseIf s.tb.pendingStep.isSome .busy <|
    .accept .done [] (s.makeStep amount .manual)

/-- TIME_STEP (R17). -/
def execTimeStep (p : Port) (s : State) : Result := .next (s.answer p 18 (stepTime p))

/-! ### LEAP_SET (R22) -/

/-- The leap part breaks R22. -/
def State.badLeap (s : State) (l : LeapPart) : Bool :=
  match l with
  | .cancel => false
  | .set effect offset => effect ≤ s.counter.sec || !utcInRange offset

/-- The parts that LEAP_SET carries are in range (R22). -/
def State.badLeapParts (s : State) (v : LeapSetParts) : Bool :=
  !(v.utc.all utcInRange) || v.leap.any s.badLeap || !(optInRange 0 1 v.adoption)

/-- The leap record that the leap part makes. -/
def LeapPart.record : LeapPart → Option Leap
  | .cancel => none
  | .set effect offset => some { effect := effect, offset := offset }

/-- The timebase record after an accepted LEAP_SET (R22). -/
def Timebase.setLeap (t : Timebase) (v : LeapSetParts) : Timebase :=
  { t with
    utcOffset := v.utc.getD t.utcOffset
    leap := match v.leap with
      | some l => l.record
      | none => t.leap
    labelAdoption := match v.adoption with
      | some a => a = 1
      | none => t.labelAdoption }

def setLeap (p : Port) (body : List Byte) (s : State) : Verdict :=
  parsed (parseLeapSet body) fun v =>
    refuseIf (s.notHolder p) .notHolder <|
    refuseIf (s.badLeapParts v) .badValue <|
    .accept .done [] (s.setTb (s.tb.setLeap v))

/-- LEAP_SET (R22). -/
def execLeapSet (p : Port) (s : State) : Result := .next (s.answer p 19 (setLeap p))

/-! ### LOOP_SET (R72, R84, R103) -/

/-- A value that is not a class lies outside its range (R71, R103), or a set's code is unknown. -/
def LoopSetParts.bad (v : LoopSetParts) : Bool :=
  !(optInRange 1000 50000000 v.yMax && optInRange 100000 500000000000 v.stepThreshold &&
    optInRange 0 2 v.stepPolicy && optInRange 10 10000 v.lockThreshold && optInRange 100 1000000 v.lossThreshold &&
    optInRange 0 8 v.guardRecords && optInRange 2 64 v.recordCount && optInRange 1 100000 v.spreadFloor &&
    optInRange 0 1 v.drift && optInRange 0 100000 v.driftLimit && optInRange 1 100000 v.lockNoise &&
    optInRange 0 100000 v.aging && optInRange 0 10000 v.assistUncertainty && optInRange 1 10000000 v.t1 &&
    optInRange 1 10000000 v.t2 && optInRange 1 10000000 v.t3)

/-- A class held to 6 (R84). -/
def heldClass (o : Option Int) (current : Nat) : Nat :=
  match o with
  | some v => min 6 v.toNat
  | none => current

/-- A part that is a count, or the current value. -/
def natPart (o : Option Int) (current : Nat) : Nat :=
  match o with
  | some v => v.toNat
  | none => current

/-- The loop parameters that would stand after the request. -/
def LoopSetParts.loopParams (v : LoopSetParts) (l : LoopParams) : LoopParams :=
  { trackingClass := heldClass v.tracking l.trackingClass, assistClass := heldClass v.assist l.assistClass
    yMax := v.yMax.getD l.yMax, stepThreshold := v.stepThreshold.getD l.stepThreshold
    stepPolicy := (v.stepPolicy.bind StepPolicy.ofCode).getD l.stepPolicy
    lockThreshold := natPart v.lockThreshold l.lockThreshold
    lossThreshold := natPart v.lossThreshold l.lossThreshold }

/-- The holdover parameters that would stand after the request. -/
def LoopSetParts.holdParams (v : LoopSetParts) (h : HoldParams) : HoldParams :=
  { guardRecords := natPart v.guardRecords h.guardRecords, recordCount := natPart v.recordCount h.recordCount
    spreadFloor := v.spreadFloor.getD h.spreadFloor, drift := (v.drift.bind switchOfCode).getD h.drift
    driftLimit := v.driftLimit.getD h.driftLimit, lockNoise := natPart v.lockNoise h.lockNoise
    aging := v.aging.getD h.aging, assistUncertainty := v.assistUncertainty.getD h.assistUncertainty
    t1 := natPart v.t1 h.t1, t2 := natPart v.t2 h.t2, t3 := natPart v.t3 h.t3 }

/-- The thresholds that would stand are in order (R84, R103). -/
def thresholdsOk (l : LoopParams) (h : HoldParams) : Bool :=
  l.lockThreshold < l.lossThreshold && h.t1 < h.t2 && h.t2 < h.t3

/-- A class above 6 was sent (R84). -/
def LoopSetParts.clamped (v : LoopSetParts) : Bool := v.tracking.any (6 < ·) || v.assist.any (6 < ·)

/-- A lowered Ymax takes hold of the loop and of the steer value in force at once (R72). -/
def State.lowerYMax (s : State) (yMax : Int) : State :=
  (s.setLoop { s.loop with y := clampTo yMax s.loop.y, integ := clampTo (yMax * 65536) s.loop.integ }).setTb
    { s.tb with steer := clampTo yMax s.tb.steer }

/-- In WARMUP and FREERUN the steer value in force is y_free clamped (R72; notes/assumptions/23.md). -/
def State.freeSteer (s : State) : State :=
  if s.tb.state = .warmup ∨ s.tb.state = .freerun then
    s.setTb { s.tb with steer := clampTo s.lp.yMax s.tb.yFree }
  else s

/-- The loop class falls to a lower tracking class (R77, R84). -/
def State.fallToTracking (s : State) : State :=
  if s.lp.trackingClass < s.loop.cls then s.setClass s.lp.trackingClass else s

/-- The effects of an accepted LOOP_SET, in order: Ymax, the classes, the rest (R84, R99). -/
def State.setLoopParts (s : State) (v : LoopSetParts) : State :=
  let t := if v.yMax.any (· < s.lp.yMax) then s.lowerYMax (v.yMax.getD s.lp.yMax) else s
  let u : State := { t with lp := v.loopParams s.lp, hp := v.holdParams s.hp }
  (u.freeSteer.fallToTracking).regrade

def setLoopRequest (p : Port) (body : List Byte) (s : State) : Verdict :=
  parsed (parseLoopSet body) fun v =>
    refuseIf (s.notHolder p) .notHolder <|
    refuseIf v.bad .badValue <|
    refuseIf (!thresholdsOk (v.loopParams s.lp) (v.holdParams s.hp)) .badValue <|
    .accept (if v.clamped then .clamped else .done) [] (s.setLoopParts v).syncAlarms

/-- LOOP_SET (R84, R103). -/
def execLoopSet (p : Port) (s : State) : Result := .next (s.answer p 48 (setLoopRequest p))

/-! ### HISTORY_READ (R90) -/

def readHistory (body : List Byte) (s : State) : Verdict :=
  parsed (parseCount body) fun n =>
    refuseIf (!optInRange 1 64 n) .badValue <|
    .accept .done (s.historyBody (natPart n 64)) s

/-- HISTORY_READ (R90). -/
def execHistoryRead (p : Port) (s : State) : Result := .next (s.answer p 49 readHistory)

/-! ### HISTORY_RESTORE (R91, R92) -/

/-- The fields of a record that R91 checks are in range. -/
def MinuteRecord.restorable (r : MinuteRecord) : Bool := inRange (-50000000) 50000000 r.mean && r.slot ≤ 7 && r.cls ≤ 6

/-- The indices rise strictly along a list of records. -/
def risingIndices : List MinuteRecord → Bool
  | [] => true
  | [_] => true
  | a :: b :: l => a.index < b.index && risingIndices (b :: l)

/-- The newest index minus the oldest. -/
def indexSpan (l : List MinuteRecord) : Int :=
  match l with
  | r :: _ => newestIndex l - r.index
  | [] => 0

/-- NEXT or LAST: the part is joined to what is staged. -/
def RestoreParts.joins (v : RestoreParts) : Bool := v.marker = 2 || v.marker = 3

/-- ONLY or LAST: the part places a set. -/
def RestoreParts.places (v : RestoreParts) : Bool := v.marker = 0 || v.marker = 3

/-- The set after the part: joined to the staging list, or alone. -/
def RestoreParts.set (v : RestoreParts) (staging : List MinuteRecord) : List MinuteRecord :=
  if v.joins then staging ++ v.records else v.records

/-- The timebase, or an empty staging list, does not allow the part (R91, check 3). -/
def State.restoreWrongState (s : State) (v : RestoreParts) : Bool :=
  !(s.tb.state = .warmup || s.tb.state = .freerun) || (v.joins && s.hold.staging.isEmpty)

/-- The first index of a list of records, 0 for none. -/
def oldestIndex (l : List MinuteRecord) : Int :=
  match l with
  | r :: _ => r.index
  | [] => 0

/-- A value of the part breaks R91, check 4. -/
def State.restoreBad (s : State) (v : RestoreParts) : Bool :=
  !inRange 0 3 v.marker || !(v.records.all (·.restorable)) || !risingIndices v.records ||
    (v.joins && oldestIndex v.records ≤ newestIndex s.hold.staging) || (v.joins && 64 < (v.set s.hold.staging).length) ||
    (v.places && 2147483647 < indexSpan (v.set s.hold.staging))

/-- An accepted part acts by its marker (R91). -/
def State.restore (s : State) (v : RestoreParts) : State :=
  if v.places then s.placeRestored (v.set s.hold.staging)
  else s.setHold { s.hold with staging := v.set s.hold.staging }

def restoreHistory (p : Port) (body : List Byte) (s : State) : Verdict :=
  refuseIf (s.notHolder p) .notHolder <|
  parsed (parseRestore body) fun v =>
    refuseIf (s.restoreWrongState v) .wrongState <|
    refuseIf (s.restoreBad v) .badValue <|
    .accept .done (countBytes (v.set s.hold.staging).length) (s.restore v)

/-- HISTORY_RESTORE (R91, R92, R190). -/
def execHistoryRestore (p : Port) (s : State) : Result := .next (s.answer p 50 (restoreHistory p))

/-! ### HOLDOVER_FORCE (R100, R12) -/

/-- One value, on or off; anything else does not parse (R100). -/
def parseForce (body : List Byte) : Option Bool := (parseByte body).bind switchOfCode

/-- The authority is checked before the body, a body of another length included (R100; DEDUCED,
notes/assumptions/48.md). -/
def forceHoldover (p : Port) (body : List Byte) (s : State) : Verdict :=
  refuseIf (s.notHolder p) .notHolder <|
  parsed (parseForce body) fun on => .accept .done [] (s.setForce on).syncAlarms

/-- HOLDOVER_FORCE (R100). -/
def execHoldoverForce (p : Port) (s : State) : Result := .next (s.answer p 51 (forceHoldover p))

end Sys2Proof.Machine
end

