-- ==== Sys2Proof/Machine/RefRequests.lean ====
section
/-! DEFINITION. The requests of the reference inputs, the reference records and the selector. -/

namespace Sys2Proof.Machine

/-! ### OFFSET_REPORT (R41) -/

/-- A value of the report lies outside its range (R41). -/
def OffsetReportParts.bad (v : OffsetReportParts) : Bool :=
  !(inRange (-500000000000) 500000000000 v.e && inRange (-3) 3 v.whole && inRange 1 16 v.interval &&
    inRange 0 15 v.quality)

def reportOffset (p : Port) (body : List Byte) (s : State) : Verdict :=
  parsed (parseOffsetReport body) fun v =>
    refuseIf (!s.ofEnabled p) .wrongState <|
    refuseIf v.bad .badValue <|
    .accept .done []
      (s.takeReport p v.e v.whole v.interval.toNat v.quality.toNat v.noise.toNat).syncAlarms

/-- OFFSET_REPORT (R41 to R43). -/
def execOffsetReport (p : Port) (s : State) : Result := .next (s.answer p 32 (reportOffset p))

/-! ### REF_SET (R26, R48) -/

/-- The partner part breaks R48 for a slot. -/
def badPartner (i : Slot) (v : Option PartnerPart) : Bool :=
  match v with
  | none => false
  | some .clear => Slot.isFq i
  | some (.slot n) =>
    match indexOf 8 n with
    | some j => Slot.isFq i || Slot.isFq j || i = j
    | none => true

/-- A measurement parameter is present that is not of the slot's kind, or is out of its range (R26). -/
def RefSetParts.badParams (v : RefSetParts) (i : Slot) : Bool :=
  (!Slot.isTa i && (v.edge.isSome || v.compensation.isSome || v.window.isSome || v.jumpLimit.isSome)) ||
    (!Slot.isFq i && (v.nominal.isSome || v.accept.isSome)) ||
    ((Slot.isTa i || Slot.isFq i) && (v.noiseLimit.isSome || v.minQuality.isSome)) ||
    !(optInRange 0 1 v.edge && optInRange (-10000000) 10000000 v.compensation && optInRange 1 100 v.window &&
      optInRange 50 1000000 v.jumpLimit && optInRange 1000 156250000 v.nominal &&
      optInRange 1000 50000000 v.accept && optInRange 1000 100000000 v.noiseLimit && optInRange 0 15 v.minQuality)

/-- A record part is out of its range (R47, R48). -/
def RefSetParts.badRecord (v : RefSetParts) : Bool :=
  !(optInRange 0 1 v.enable && optInRange 0 15 v.priority && optInRange 1 1000000 v.pairWindow &&
    optInRange 4 600 v.qualifyTime && optInRange 4 32 v.threshold)

/-- The partner that the part makes. -/
def PartnerPart.partner (v : Option PartnerPart) (current : Option Slot) : Option Slot :=
  match v with
  | none => current
  | some .clear => none
  | some (.slot n) => indexOf 8 n

/-- The record with its parts set; a change of partner takes the pair result and sample (R48). An FQ record
holds a pairing window too (DESIGN CHOICE, notes/assumptions/47.md). -/
def RefSetParts.record (v : RefSetParts) (r : RefRecord) : RefRecord :=
  let partner := PartnerPart.partner v.partner r.partner
  { r with
    priority := natPart v.priority r.priority, partner := partner, pairWindow := natPart v.pairWindow r.pairWindow
    qualifyTime := natPart v.qualifyTime r.qualifyTime, threshold := natPart v.threshold r.threshold
    pairResult := if partner = r.partner then r.pairResult else none
    pairSample := if partner = r.partner then r.pairSample else none }

/-- The TA parameters with their parts set. -/
def RefSetParts.taParams (v : RefSetParts) (q : TaParams) : TaParams :=
  { edge := (v.edge.bind ActiveEdge.ofCode).getD q.edge, compensation := v.compensation.getD q.compensation
    window := natPart v.window q.window, jumpLimit := natPart v.jumpLimit q.jumpLimit }

/-- A change of active edge abandons the period and takes the previous edge and jump reference; a change of cable
compensation takes the jump reference (R26). -/
def TaInput.setParams (x : TaInput) (q : TaParams) : TaInput :=
  let edged := { x with
    params := q
    period := if q.edge = x.params.edge then x.period else none
    prevEdge := if q.edge = x.params.edge then x.prevEdge else none }
  if q.edge = x.params.edge ∧ q.compensation = x.params.compensation then edged
  else { edged with jumpRef := none, jumpRun := 0 }

/-- The FQ parameters with their parts set. -/
def RefSetParts.fqParams (v : RefSetParts) (q : FqParams) : FqParams :=
  { nominal := natPart v.nominal q.nominal, accept := v.accept.getD q.accept }

/-- A change of nominal frequency discards origin and history and starts an opening second (R26, R36), while activity
is lost too (DESIGN CHOICE, notes/assumptions/54.md). -/
def FqInput.setParams (x : FqInput) (q : FqParams) (enabled : Bool) : FqInput :=
  if q.nominal = x.params.nominal ∨ enabled = false then { x with params := q }
  else { x.restart .waiting with params := q, renominal := true }

/-- The OF parameters with their parts set. -/
def RefSetParts.ofParams (v : RefSetParts) (q : OfParams) : OfParams :=
  { noiseLimit := v.noiseLimit.getD q.noiseLimit, minQuality := natPart v.minQuality q.minQuality }

/-- Set the measurement parameters of a slot. -/
def State.setParams (s : State) (i : Slot) (v : RefSetParts) : State :=
  if Slot.isTa i then
    s.setTa (Slot.taInput i) ((s.ta[Slot.taInput i]).setParams (v.taParams (s.ta[Slot.taInput i]).params))
  else if Slot.isFq i then
    s.setFq (Slot.fqInput i)
      ((s.fq[Slot.fqInput i]).setParams (v.fqParams (s.fq[Slot.fqInput i]).params) (s.refs[i]).enabled)
  else
    s.setOf (Slot.ofInput i)
      { s.ofs[Slot.ofInput i] with params := v.ofParams (s.ofs[Slot.ofInput i]).params }

/-- Enable or disable, as the part says. -/
def State.switchSlot (s : State) (i : Slot) (enable : Option Int) : State :=
  match enable with
  | some v => if v = 1 then s.enableSlot i else s.disableSlot i
  | none => s

/-- The tests that changed values call for (R48), made in FAULT too (DESIGN CHOICE, notes/assumptions/45.md). -/
def State.retest (s : State) (i : Slot) (old : RefRecord) : State :=
  let t := if (s.refs[i]).qualifyTime < old.qualifyTime then s.testQualifying i else s
  if (t.refs[i]).threshold < old.threshold then t.testQualified i else t

/-- The effects of an accepted REF_SET (R48). -/
def State.setRefParts (s : State) (i : Slot) (v : RefSetParts) : State :=
  let t := (s.setParams i v).setRef i (v.record s.refs[i])
  ((t.switchSlot i v.enable).retest i s.refs[i]).reevaluate

def setRefRequest (p : Port) (body : List Byte) (s : State) : Verdict :=
  parsed (parseRefSet body) fun v =>
    refuseIf (s.notHolder p) .notHolder <|
    match indexOf 8 v.slot with
    | none => .refuse .badValue
    | some i =>
      refuseIf (v.badRecord || badPartner i v.partner || v.badParams i) .badValue <|
      .accept .done [] (s.setRefParts i v).syncAlarms

/-- REF_SET (R26, R48, R49). -/
def execRefSet (p : Port) (s : State) : Result := .next (s.answer p 33 (setRefRequest p))

/-! ### REF_READ (R70) -/

def readRefs (body : List Byte) (s : State) : Verdict :=
  parsed (parseOneOrAll body) fun v =>
    match v with
    | .all => .accept .done (s.refsBody (List.finRange 8)) s
    | .one n =>
      match indexOf 8 n with
      | some i => .accept .done (s.refsBody [i]) s
      | none => .refuse .badValue

/-- REF_READ (R70). -/
def execRefRead (p : Port) (s : State) : Result := .next (s.answer p 34 readRefs)

/-! ### SELECT_SET, SELECT_FORCE (R63) -/

/-- The selector with a mode and a wait-to-restore time set. -/
def Selector.setMode (x : Selector) (v : SelectSetParts) : Selector :=
  { x with
    mode := match v.mode with
      | some m => if m = 1 then .revertive else .nonRevertive
      | none => x.mode
    wtr := natPart v.wtr x.wtr }

def setSelection (p : Port) (body : List Byte) (s : State) : Verdict :=
  parsed (parseSelectSet body) fun v =>
    refuseIf (s.notHolder p) .notHolder <|
    refuseIf (!(optInRange 0 1 v.mode && optInRange 0 3600 v.wtr)) .badValue <|
    .accept .done [] ((s.setSel (s.sel.setMode v)).reevaluate).syncAlarms

/-- SELECT_SET (R63). -/
def execSelectSet (p : Port) (s : State) : Result := .next (s.answer p 35 (setSelection p))

/-- The force that the part sets: none when it is out of range or an FQ slot (R63). -/
def forceOf (v : PartnerPart) : Option (Option Slot) :=
  match v with
  | .clear => some none
  | .slot n =>
    match indexOf 8 n with
    | some i => if Slot.isFq i then none else some (some i)
    | none => none

def forceSelection (p : Port) (body : List Byte) (s : State) : Verdict :=
  parsed (parseSelectForce body) fun v =>
    refuseIf (s.notHolder p) .notHolder <|
    match forceOf v with
    | none => .refuse .badValue
    | some f => .accept .done [] ((s.setSel { s.sel with force := f }).reevaluate).syncAlarms

/-- SELECT_FORCE (R61, R63). -/
def execSelectForce (p : Port) (s : State) : Result := .next (s.answer p 36 (forceSelection p))

end Sys2Proof.Machine
end

