-- ==== Sys2Proof/Machine/EntryRequests.lean ====
section
/-! DEFINITION. The requests of the emission table and of the outputs. -/

namespace Sys2Proof.Machine

/-! ### Forms of an entry (R105, R106) -/

/-- A kind and a target that do not match: a MARK on a pulse output, a PULSE on a drop (R111). -/
def mismatched (kind target : Int) : Bool :=
  match EntryKind.ofCode kind, Output.ofCode target with
  | some .mark, some (.px _) => true
  | some .pulse, some (.drop _) => true
  | _, _ => false

/-- The target that the parts name is an output that the port does not own (R111). -/
def State.targetNotOwned (s : State) (p : Port) (target : Int) : Bool :=
  match Output.ofCode target with
  | some o => s.outputOwner o ≠ some p
  | none => false

/-- The kind and the target that the codes name, when both are of their sets and match (R111, R189). -/
def matchingTarget (kind target : Int) : Option (EntryKind × Output) :=
  match EntryKind.ofCode kind, Output.ofCode target with
  | some .mark, some (.drop d) => some (.mark, .drop d)
  | some .pulse, some (.px x) => some (.pulse, .px x)
  | _, _ => none

/-- A period in one of the two forms (R106). -/
def periodOk (p : Int) : Bool :=
  (1000 ≤ p && p < 1000000 && 1000000 % p = 0) || (1000000 ≤ p && p ≤ 16000000 && p % 1000000 = 0)

/-- The period of an entry that is an anchor. -/
def Entry.anchorPeriod (e : Entry) : Option Nat :=
  match e.fields.link with
  | .anchor period _ _ _ => some period
  | .relative _ _ _ _ => none

/-- The entry that an anchor part names, when it is one that a relative may follow: not FREE, an anchor, and not the
entry being changed (R106; notes/assumptions/22.md). -/
def State.anchorOf (s : State) (self : Option EntryIx) (v : Int) : Option (EntryIx × Entry × Nat) :=
  match indexOf 64 v with
  | none => none
  | some a =>
    match s.entries[a] with
    | none => none
    | some e =>
      match e.anchorPeriod with
      | none => none
      | some period => if self = some a then none else some (a, e, period)

/-- The anchor that the parts name is not FREE and is owned by another port (R106). -/
def State.anchorNotOwned (s : State) (p : Port) (v : Option Int) : Bool :=
  match v.bind (indexOf 64) with
  | some a =>
    match s.entries[a] with
    | some e => e.owner ≠ p
    | none => false
  | none => false

/-- The width: present for a PULSE and less than the period, absent for a MARK (R105, R106). -/
def widthPartOk (kind : EntryKind) (width : Option Int) (period : Int) : Bool :=
  match kind, width with
  | .mark, none => true
  | .mark, some _ => false
  | .pulse, some w => inRange 1000 500000000 w && w < period * 1000
  | .pulse, none => false

/-- The link of an anchor, when its parts have the forms of R106. -/
def EntryParts.anchorLink (v : EntryParts) (kind : EntryKind) : Option Link :=
  match v.period, v.offset with
  | some period, some offset =>
    if periodOk period && offset < period * 1000 && v.relOffset.isNone && v.divider.isNone && v.phase.isNone &&
        widthPartOk kind v.width period &&
        (match v.start, v.stop with
          | some a, some b => a < b
          | _, _ => true) then
      some (.anchor period.toNat offset.toNat (v.start.map Int.toNat) (v.stop.map Int.toNat))
    else none
  | _, _ => none

/-- The link of a relative, when its parts have the forms of R106. -/
def State.relativeLink (s : State) (v : EntryParts) (kind : EntryKind) (self : Option EntryIx) (anchor : Int) :
    Option Link :=
  match s.anchorOf self anchor, v.relOffset, v.divider, v.phase with
  | some (a, _, period), some rel, some divider, some phase =>
    if rel.natAbs < period * 1000 && inRange 1 16 divider && phase < divider && v.period.isNone && v.offset.isNone &&
        v.start.isNone && v.stop.isNone && widthPartOk kind v.width period then
      some (.relative a rel divider.toNat phase.toNat)
    else none
  | _, _, _, _ => none

/-- The link that the parts give. -/
def State.linkOf (s : State) (v : EntryParts) (kind : EntryKind) (self : Option EntryIx) : Option Link :=
  match v.anchor with
  | none => v.anchorLink kind
  | some a => s.relativeLink v kind self a

/-- The squelch part: absent, or a level (R105). -/
def squelchPart (o : Option Int) : Option (Option Grade) :=
  match o with
  | none => some none
  | some v => (Grade.ofCode v).map some

/-- The fields that the parts give, when every value check passes (R106). -/
def State.fieldsOf (s : State) (v : EntryParts) (kind : EntryKind) (target : Output) (self : Option EntryIx) :
    Option EntryFields :=
  match s.linkOf v kind self, squelchPart v.squelch with
  | some link, some squelch =>
    some { kind := kind, target := target, link := link, width := v.width.map Int.toNat, squelch := squelch }
  | _, _ => none

/-- The target, ownership and value checks shared by ENTRY_DEFINE and ENTRY_CHANGE (R106, R111). A kind or target code
outside its set is refused with the value checks (R189); a target code that names no output has no owner to check
(DEDUCED, notes/assumptions/49.md). -/
def State.checkParts (s : State) (p : Port) (v : EntryParts) (self : Option EntryIx) (f : EntryFields → Verdict) :
    Verdict :=
  refuseIf (mismatched v.kind v.target) .badValue <|
  refuseIf (s.targetNotOwned p v.target) .notOwner <|
  refuseIf (s.anchorNotOwned p v.anchor) .notOwner <|
  match (matchingTarget v.kind v.target).bind fun (kind, target) => s.fieldsOf v kind target self with
  | none => .refuse .badValue
  | some fields => f fields

/-! ### ENTRY_DEFINE (R111) -/

/-- The lowest FREE index. -/
def State.lowestFree (s : State) : Option EntryIx := (List.finRange 64).find? fun i => (s.entries[i]).isNone

/-- A new entry. -/
def Entry.fresh (p : Port) (f : EntryFields) : Entry :=
  { state := .idle, owner := p, fields := f, emitted := 0, skipped := 0, suppressed := 0 }

def defineEntry (p : Port) (body : List Byte) (s : State) : Verdict :=
  parsed (parseEntryDefine body) fun v =>
    s.checkParts p v none fun fields =>
      match s.lowestFree with
      | none => .refuse .tableFull
      | some i => .accept .done (numberBytes i.val) (s.setEntry i (some (Entry.fresh p fields)))

/-- ENTRY_DEFINE (R111). -/
def execEntryDefine (p : Port) (s : State) : Result := .next (s.answer p 65 (defineEntry p))

/-! ### Entries named by a request (R112, R113) -/

/-- The index and ownership checks (R113). -/
def State.checkEntry (s : State) (p : Port) (v : Int) (f : EntryIx → Entry → Verdict) : Verdict :=
  match indexOf 64 v with
  | none => .refuse .badValue
  | some i =>
    match s.entries[i] with
    | none => .refuse .badValue
    | some e => refuseIf (e.owner ≠ p) .notOwner (f i e)

/-- Some entry is a relative of this one. -/
def State.hasRelative (s : State) (a : EntryIx) : Bool :=
  anyIndex 64 fun i =>
    match s.entries[i] with
    | some e => e.follows a
    | none => false

/-- A relative, as it stands, would break R106 against a period of its anchor (R112). -/
def Entry.breaks (e : Entry) (period : Nat) : Bool :=
  match e.fields.link with
  | .relative _ rel _ _ => period * 1000 ≤ rel.natAbs || e.fields.width.any fun w => period * 1000 ≤ w
  | .anchor _ _ _ _ => false

/-- Some relative of an anchor would break R106 against a new period (R112). -/
def State.relativeBreaks (s : State) (a : EntryIx) (period : Nat) : Bool :=
  anyIndex 64 fun i =>
    match s.entries[i] with
    | some e => e.follows a && e.breaks period
    | none => false

/-- The change of an anchor that has relatives (R112, check 5). -/
def State.checkRelatives (s : State) (i : EntryIx) (f : EntryFields) (v : Verdict) : Verdict :=
  match f.link with
  | .relative _ _ _ _ => refuseIf (s.hasRelative i) .inUse v
  | .anchor period _ _ _ => refuseIf (s.relativeBreaks i period) .badValue v

/-! ### ENTRY_CHANGE (R112) -/

def changeEntryRequest (p : Port) (body : List Byte) (s : State) : Verdict :=
  parsed (parseEntryChange body) fun v =>
    s.checkEntry p v.1 fun i e =>
      refuseIf e.planned .wrongState <|
      s.checkParts p v.2 (some i) fun fields =>
        s.checkRelatives i fields <|
        .accept .done [] (s.setEntry i (some { Entry.fresh p fields with state := e.state }))

/-- ENTRY_CHANGE (R112). -/
def execEntryChange (p : Port) (s : State) : Result := .next (s.answer p 66 (changeEntryRequest p))

/-! ### ENTRY_START (R113) -/

/-- Start an entry: an anchor by its seconds, a relative with its anchor. -/
def State.start (s : State) (i : EntryIx) (e : Entry) : Verdict :=
  match e.fields.link with
  | .anchor _ _ start stop =>
    refuseIf (stop.any (· ≤ s.counter.sec)) .badValue <|
    .accept .done [] (s.setEntry i (some { e with state := startState start s.counter.sec }))
  | .relative a _ _ _ =>
    match s.entries[a] with
    | some anchor =>
      refuseIf (!anchor.planned) .wrongState <|
      .accept .done [] (s.setEntry i (some { e with state := anchor.state }))
    | none => .refuse .wrongState

def startEntry (p : Port) (body : List Byte) (s : State) : Verdict :=
  parsed (parseByte body) fun v =>
    s.checkEntry p v fun i e => refuseIf (e.state ≠ .idle) .wrongState (s.start i e)

/-- ENTRY_START (R113). -/
def execEntryStart (p : Port) (s : State) : Result := .next (s.answer p 67 (startEntry p))

/-! ### ENTRY_STOP (R114) -/

/-- Stop an entry: one that runs goes to IDLE with the relatives that run; an ENDED one goes to IDLE alone. -/
def State.stop (s : State) (i : EntryIx) (e : Entry) : State :=
  if e.planned then s.moveTrain i .idle
  else if e.state = .ended then s.setEntry i (some { e with state := .idle })
  else s

def stopEntry (p : Port) (body : List Byte) (s : State) : Verdict :=
  parsed (parseByte body) fun v => s.checkEntry p v fun i e => .accept .done [] (s.stop i e)

/-- ENTRY_STOP (R114). -/
def execEntryStop (p : Port) (s : State) : Result := .next (s.answer p 68 (stopEntry p))

/-! ### ENTRY_FREE (R116) -/

def freeEntry (p : Port) (body : List Byte) (s : State) : Verdict :=
  parsed (parseByte body) fun v =>
    s.checkEntry p v fun i e =>
      refuseIf e.planned .wrongState <|
      refuseIf (s.hasRelative i) .inUse <|
      .accept .done [] ((s.withdraw fun n => n = i).setEntry i none)

/-- ENTRY_FREE (R116). -/
def execEntryFree (p : Port) (s : State) : Result := .next (s.answer p 69 (freeEntry p))

/-! ### ENTRY_READ (R127) -/

def readEntries (body : List Byte) (s : State) : Verdict :=
  parsed (parseOneOrAll body) fun v =>
    match v with
    | .all => .accept .done (s.entriesBody (List.finRange 64)) s
    | .one n =>
      match indexOf 64 n with
      | some i => .accept .done (s.entriesBody [i]) s
      | none => .refuse .badValue

/-- ENTRY_READ (R127). -/
def execEntryRead (p : Port) (s : State) : Result := .next (s.answer p 70 readEntries)

/-! ### OUTPUT_ASSIGN (R109, R110) -/

/-- The owner that a code names: a port, or none. -/
def ownerOf (v : Int) : Option (Option Port) := if v = 4 then some none else (indexOf 4 v).map some

/-- Some entry that is not FREE targets an output. -/
def State.targeted (s : State) (o : Output) : Bool :=
  anyIndex 64 fun i =>
    match s.entries[i] with
    | some e => e.fields.target = o
    | none => false

/-- The current owner of an output is OFFLINE (R110). -/
def State.ownerOffline (s : State) (o : Output) : Bool :=
  match s.outputOwner o with
  | some q => !(s.ports[q]).online
  | none => false

/-- An entry that a reclaim frees: it targets the output, or is a relative of an anchor that does (R110). -/
def State.reclaimed (s : State) (o : Output) (i : EntryIx) : Bool :=
  match s.entries[i] with
  | some e =>
    e.fields.target = o ||
      (match e.fields.link with
        | .relative a _ _ _ =>
          match s.entries[a] with
          | some anchor => anchor.fields.target = o
          | none => false
        | .anchor _ _ _ _ => false)
  | none => false

/-- Free the reclaimed entries together, their placed instances withdrawn (R110). -/
def State.freeReclaimed (s : State) (o : Output) : State :=
  let t := s.withdraw (s.reclaimed o)
  { t with entries := mapAll t.entries fun i e => if s.reclaimed o i then none else e }

/-- How many entries a reclaim frees. -/
def State.reclaimCount (s : State) (o : Output) : Nat := ((List.finRange 64).filter (s.reclaimed o)).length

/-- Set the owner of an output (R109). -/
def State.setOwner (s : State) (o : Output) (owner : Option Port) : State :=
  match o with
  | .drop d => s.setDrop d { s.drops[d] with owner := owner }
  | .px x => s.setPx x { s.px[x] with owner := owner }

/-- Set the cable compensation of a pulse output, when present (R109). -/
def State.setCable (s : State) (o : Output) (v : Option Int) : State :=
  match o, v with
  | .px x, some c => s.setPx x { s.px[x] with compensation := c.toNat }
  | .px _, none => s
  | .drop _, _ => s

/-- A cable compensation on a drop, or out of range (R109). -/
def badCable (o : Output) (v : Option Int) : Bool :=
  match o with
  | .drop _ => v.isSome
  | .px _ => !optInRange 0 100000 v

/-- The request changes the owner of an output that entries target (R109, R110). -/
def State.takesAway (s : State) (o : Output) (owner : Option Port) : Bool :=
  s.outputOwner o ≠ owner && s.targeted o

/-- An accepted OUTPUT_ASSIGN: a reclaim frees entries, then the owner and the compensation are set. -/
def State.assign (s : State) (o : Output) (owner : Option Port) (cable : Option Int) : State :=
  let t := if s.takesAway o owner then s.freeReclaimed o else s
  (t.setOwner o owner).setCable o cable

def assignOutput (p : Port) (body : List Byte) (s : State) : Verdict :=
  parsed (parseOutputAssign body) fun v =>
    refuseIf (s.notHolder p) .notHolder <|
    match Output.ofCode v.output, ownerOf v.owner, switchOfCode v.reclaim with
    | some o, some owner, some reclaim =>
      refuseIf (badCable o v.compensation) .badValue <|
      refuseIf (s.takesAway o owner && !(reclaim && s.ownerOffline o)) .inUse <|
      .accept .done (countBytes (if s.takesAway o owner then s.reclaimCount o else 0))
        (s.assign o owner v.compensation).syncAlarms
    | _, _, _ => .refuse .badValue

/-- OUTPUT_ASSIGN (R109, R110). -/
def execOutputAssign (p : Port) (s : State) : Result := .next (s.answer p 64 (assignOutput p))

end Sys2Proof.Machine
end

