-- ==== Sys2Proof/Machine/DropRequests.lean ====
section
/-! DEFINITION. The requests of the drop profiles and of the drops. -/

namespace Sys2Proof.Machine

/-! ### PROFILE_SET (R129, R130) -/

/-- A value on its step, when present. -/
def onStep (step : Int) (v : Option Int) : Bool := v.all fun x => x % step = 0

/-- A parameter out of its range or off its step (R129). -/
def ProfileSetParts.bad (v : ProfileSetParts) : Bool :=
  !(optInRange 0 5 v.squelch && optInRange 10 1000 v.announceInterval && onStep 10 v.announceInterval &&
    optInRange 1 255 v.fullEvery && optInRange (-10000000) 10000000 v.asymmetry &&
    optInRange 0 100000000 v.fixedDelay && optInRange 1 100000 v.tolerance &&
    optInRange 1000000 1000000000 v.maxRtt && optInRange 1 60 v.probeInterval &&
    optInRange 10 1000 v.offerInterval && onStep 10 v.offerInterval && optInRange 500 8000 v.turnLimit &&
    onStep 100 v.turnLimit)

/-- The profile with its parts set. -/
def ProfileSetParts.profileFrom (v : ProfileSetParts) (q : Profile) : Profile :=
  { squelch := (v.squelch.bind Grade.ofCode).getD q.squelch
    announceInterval := natPart v.announceInterval q.announceInterval
    fullEvery := natPart v.fullEvery q.fullEvery, asymmetry := v.asymmetry.getD q.asymmetry
    fixedDelay := v.fixedDelay.getD q.fixedDelay, tolerance := natPart v.tolerance q.tolerance
    maxRtt := v.maxRtt.getD q.maxRtt, probeInterval := natPart v.probeInterval q.probeInterval
    offerInterval := natPart v.offerInterval q.offerInterval, turnLimit := natPart v.turnLimit q.turnLimit }

/-- A profile set; a changed asymmetry or fixed delay forms the applied delay of each drop that names it (R130). -/
def State.setProfileParts (s : State) (i : ProfileIx) (v : ProfileSetParts) : State :=
  let q := v.profileFrom s.profiles[i]
  let t := s.setProfile i q
  if q.asymmetry = (s.profiles[i]).asymmetry ∧ q.fixedDelay = (s.profiles[i]).fixedDelay then t
  else forEach 8 t fun d u => if (u.drops[d]).profile = i then u.reformDelay d else u

def setProfileRequest (p : Port) (body : List Byte) (s : State) : Verdict :=
  parsed (parseProfileSet body) fun v =>
    refuseIf (s.notHolder p) .notHolder <|
    match indexOf 8 v.profile with
    | none => .refuse .badValue
    | some i => refuseIf v.bad .badValue (.accept .done [] (s.setProfileParts i v))

/-- PROFILE_SET (R130). -/
def execProfileSet (p : Port) (s : State) : Result := .next (s.answer p 80 (setProfileRequest p))

/-! ### DROP_SET (R131) -/

/-- The profile part is applied: the delay is formed afresh under the new profile (R131, R144). -/
def State.chooseProfile (s : State) (d : DropIx) (v : Option Int) : State :=
  match v.bind (indexOf 8) with
  | some i =>
    if (s.drops[d]).profile = i then s else (s.setDrop d { s.drops[d] with profile := i }).reformDelay d
  | none => s

/-- The identity part is applied. -/
def State.expectIdentity (s : State) (d : DropIx) (v : Option IdentityPart) : State :=
  match v with
  | some .clear => s.setDrop d { s.drops[d] with expected := none }
  | some (.set id) => s.setDrop d { s.drops[d] with expected := some id }
  | none => s

/-- The enable part is applied, last. -/
def State.switchDrop (s : State) (d : DropIx) (v : Option Int) : State :=
  match v with
  | some e => if e = 1 then s.enableDrop d else s.disableDrop d
  | none => s

def setDropRequest (p : Port) (body : List Byte) (s : State) : Verdict :=
  parsed (parseDropSet body) fun v =>
    match indexOf 8 v.drop with
    | none => .refuse .badValue
    | some d =>
      refuseIf ((s.drops[d]).owner ≠ some p) .notOwner <|
      refuseIf (!(optInRange 0 7 v.profile && optInRange 0 1 v.enable)) .badValue <|
      .accept .done []
        ((((s.chooseProfile d v.profile).expectIdentity d v.expected).switchDrop d v.enable).syncAlarms)

/-- DROP_SET (R131). -/
def execDropSet (p : Port) (s : State) : Result := .next (s.answer p 81 (setDropRequest p))

/-! ### DROP_READ (R154) -/

def readDrops (body : List Byte) (s : State) : Verdict :=
  parsed (parseOneOrAll body) fun v =>
    match v with
    | .all => .accept .done ((List.finRange 8).flatMap s.dropBody) s
    | .one n =>
      match indexOf 8 n with
      | some d => .accept .done (s.dropBody d) s
      | none => .refuse .badValue

/-- DROP_READ (R154). -/
def execDropRead (p : Port) (s : State) : Result := .next (s.answer p 82 readDrops)

end Sys2Proof.Machine
end

