-- ==== Sys2Proof/Machine/AlarmRequests.lean ====
section
/-! DEFINITION. The requests of the alarm unit, of the authority unit and of the port itself. -/

namespace Sys2Proof.Machine

/-! ### ALARM_SEVERITY (R161) -/

def AlarmSeverityParts.bad (v : AlarmSeverityParts) : Bool :=
  !(optInRange 0 4 v.severity && optInRange 0 60 v.raisePersistence && optInRange 0 600 v.clearPersistence)

/-- The record with its parts set. -/
def AlarmSeverityParts.applyTo (v : AlarmSeverityParts) (a : AlarmRec) : AlarmRec :=
  { a with
    severity := (v.severity.bind Severity.ofCode).getD a.severity
    raisePersistence := natPart v.raisePersistence a.raisePersistence
    clearPersistence := natPart v.clearPersistence a.clearPersistence }

def setSeverity (p : Port) (body : List Byte) (s : State) : Verdict :=
  parsed (parseAlarmSeverity body) fun v =>
    refuseIf (s.notHolder p) .notHolder <|
    match indexOf 32 v.record with
    | none => .refuse .badValue
    | some i => refuseIf v.bad .badValue (.accept .done [] (s.setAlarm i (AlarmSeverityParts.applyTo v s.alarms[i])))

/-- ALARM_SEVERITY (R161). -/
def execAlarmSeverity (p : Port) (s : State) : Result := .next (s.answer p 96 (setSeverity p))

/-! ### ALARM_READ (R166) -/

def readAlarms (p : Port) (body : List Byte) (s : State) : Verdict :=
  parsed (parseAlarmRead body) fun v =>
    refuseIf (!(optInRange 0 31 v.first && optInRange 1 32 v.count)) .badValue <|
    .accept .done (s.alarmsBody p (natPart v.first 0) (natPart v.count 32)) s

/-- ALARM_READ (R166). -/
def execAlarmRead (p : Port) (s : State) : Result := .next (s.answer p 97 (readAlarms p))

/-! ### ALARM_SEEN (R164) -/

/-- The records named, as a mask. -/
def recordMask (l : List Nat) : BitVec 32 := l.foldl (fun m i => m ||| BitVec.twoPow 32 i) 0

/-- The view with the unseen flags of the named records cleared. -/
def View.acknowledge (v : View) (l : List Nat) : View := { v with unseen := v.unseen &&& ~~~recordMask l }

/-- The reply is the top unseen alarm in one byte, 255 for none (R164; DESIGN CHOICE, notes/assumptions/52.md). -/
def acknowledge (p : Port) (body : List Byte) (s : State) : Verdict :=
  let l := parseAlarmSeen body
  refuseIf (l.isEmpty || l.any (31 < ·)) .badValue <|
  .accept .done (beBytes 1 (topByte ((s.views[p]).acknowledge l).topUnseen))
    (s.setView p ((s.views[p]).acknowledge l))

/-- ALARM_SEEN (R164). -/
def execAlarmSeen (p : Port) (s : State) : Result := .next (s.answer p 98 (acknowledge p))

/-! ### ALARM_MASK (R163) -/

/-- A whole alarm mask: what it disables loses its flag, what it newly enables is flagged if standing (R163). -/
def View.setMask (v : View) (mask standing : BitVec 32) : View :=
  { v with mask := mask, unseen := (v.unseen &&& mask) ||| (mask &&& ~~~v.mask &&& standing) }

/-- The parts of ALARM_MASK in order: the alarm mask, the event mask, the line enable (R163). -/
def AlarmMaskParts.apply (m : AlarmMaskParts) (v : View) (standing : BitVec 32) : View :=
  let masked :=
    match m.mask with
    | some x => v.setMask (BitVec.ofInt 32 x) standing
    | none => v
  { masked with
    eventMask := match m.eventMask with
      | some x => BitVec.ofInt 9 x
      | none => v.eventMask
    lineEnable := (m.lineEnable.bind switchOfCode).getD v.lineEnable }

/-- The settings that the reply of ALARM_MASK carries. -/
def View.settings (v : View) : List Byte :=
  beBytes 4 v.mask.toNat ++ beBytes 2 v.eventMask.toNat ++ boolBytes v.lineEnable

def setMask (p : Port) (body : List Byte) (s : State) : Verdict :=
  parsed (parseAlarmMask body) fun m =>
    refuseIf (!optInRange 0 1 m.lineEnable) .badValue <|
    .accept .done (m.apply s.views[p] s.standingMask).settings (s.setView p (m.apply s.views[p] s.standingMask))

/-- ALARM_MASK (R163). -/
def execAlarmMask (p : Port) (s : State) : Result := .next (s.answer p 99 (setMask p))

/-! ### NOTICE_READ (R169) -/

/-- The view with its oldest `n` notices removed and its overflow flag cleared. -/
def View.takeNotices (v : View) (n : Nat) : View := { v with notices := v.notices.drop n, overflow := false }

def readNotices (p : Port) (body : List Byte) (s : State) : Verdict :=
  parsed (parseCount body) fun n =>
    refuseIf (!optInRange 1 16 n) .badValue <|
    .accept .done (noticesBody ((s.views[p]).notices.take (natPart n 16)) (s.views[p]).overflow)
      (s.setView p ((s.views[p]).takeNotices (natPart n 16)))

/-- NOTICE_READ (R169). -/
def execNoticeRead (p : Port) (s : State) : Result := .next (s.answer p 100 (readNotices p))

/-! ### AUTH_TAKE, AUTH_RELEASE (R185, R186) -/

/-- Which case of AUTH_TAKE applied: 0 granted, 1 already the holder, 2 waiting; then the place, for a waiting port. -/
def State.takeReply (s : State) (p : Port) : List Byte :=
  if s.holder = none then beBytes 1 0 ++ boolBytes false
  else if s.holder = some p then beBytes 1 1 ++ boolBytes false
  else beBytes 1 2 ++ boolBytes true

/-- The place that a waiting port is told (R185). -/
def State.placeReply (s : State) (p : Port) : List Byte :=
  match placeOf s.waitList p with
  | some n => beBytes 1 n
  | none => []

def takeAuth (p : Port) (body : List Byte) (s : State) : Verdict :=
  parsed (parseByte body) fun v =>
    refuseIf (!inRange 0 3 v) .badValue <|
    .accept .done (s.takeReply p ++ (s.takeAuthority p v.toNat).placeReply p) (s.takeAuthority p v.toNat).syncAlarms

/-- AUTH_TAKE (R185). -/
def execAuthTake (p : Port) (s : State) : Result := .next (s.answer p 112 (takeAuth p))

/-- Which case of AUTH_RELEASE applied: 0 released, 1 left the wait list, 2 nothing to release. -/
def State.releaseReply (s : State) (p : Port) : List Byte :=
  if s.holder = some p then beBytes 1 0
  else if (placeOf s.waitList p).isSome then beBytes 1 1
  else beBytes 1 2

def releaseAuth (p : Port) (body : List Byte) (s : State) : Verdict :=
  parsed (parseEmpty body) fun _ => .accept .done (s.releaseReply p) (s.leaveAuthority p).syncAlarms

/-- AUTH_RELEASE (R186). -/
def execAuthRelease (p : Port) (s : State) : Result := .next (s.answer p 113 (releaseAuth p))

/-! ### PORT_SET, PORT_RESET, and a code that names no request (R177, R179, R182) -/

/-- The port record with its settings. -/
def PortSetParts.record (v : PortSetParts) (q : PortRec) : PortRec :=
  { q with maxSegment := natPart v.segment q.maxSegment, silenceTime := natPart v.silence q.silenceTime }

/-- The settings that the reply of PORT_SET carries. -/
def PortRec.settings (q : PortRec) : List Byte := countBytes q.maxSegment ++ countBytes q.silenceTime

def setPortRequest (p : Port) (body : List Byte) (s : State) : Verdict :=
  parsed (parsePortSet body) fun v =>
    refuseIf (!(optInRange 16 256 v.segment && optInRange 1 60 v.silence)) .badValue <|
    .accept .done (PortSetParts.record v s.ports[p]).settings (s.setPort p (PortSetParts.record v s.ports[p]))

/-- PORT_SET (R179). -/
def execPortSet (p : Port) (s : State) : Result := .next (s.answer p 114 (setPortRequest p))

/-- PORT_RESET (R182). -/
def execPortReset (p : Port) (s : State) : Result := .next (s.portResets p)

/-- UNKNOWN_REQUEST (R177): a code that names no request is refused at its execution. -/
def execUnknownRequest (p : Port) (s : State) : Result :=
  .next (s.execute p (fun c => !knownCode c) fun _ _ => .refuse .unknownRequest)

end Sys2Proof.Machine
end

