-- ==== Sys2Proof/Machine/Schedule.lean ====
section
/-! DEFINITION. What the part does by itself when no command waits (notes/assumptions/2.md): the command of an event
that has fallen due, or else one cycle of LO_IN (R2). -/

namespace Sys2Proof.Machine

/-- A command that has fallen due, and how long ago on its time base: ps of the counter, or ns of monitor time. -/
structure DueCommand where
  command : Instr
  late : Nat
  deriving DecidableEq, Repr

/-- The one due longest; among equals the first. -/
def longestDue : List DueCommand → Option DueCommand
  | [] => none
  | c :: l =>
    match longestDue l with
    | some b => if c.late < b.late then some b else some c
    | none => some c

/-! ### Events of the counter -/

/-- A command of a counter instant, when the instant is not still ahead. -/
def State.dueAt (s : State) (i : Nat) (c : Instr) : List DueCommand :=
  if 0 ≤ signedElapsed i s.counter.instant then [{ command := c, late := (signedElapsed i s.counter.instant).toNat }]
  else []

/-- The boundaries passed and not yet taken (R1, R117). -/
def State.dueBoundaries (s : State) : List DueCommand :=
  (if s.secondOwed = 0 then [] else [{ command := .counterSecondBoundary, late := s.overshoot.ps }]) ++
    (if s.msOwed.boundaries = 0 then []
      else [{ command := .counterMillisecondBoundary
              late := (s.msOwed.boundaries - 1) * Config.psPerMs + s.counter.ps % Config.psPerMs }])

/-- The releases of the plans (R123, R133). -/
def State.dueReleases (s : State) : List DueCommand :=
  s.sched.hardPlan.flatMap (fun h => s.dueAt h.transmit (.hardInstanceRelease h.entry)) ++
    s.sched.softPlan.flatMap (fun x => s.dueAt x.transmit (.softItemRelease x.drop))

/-- The ends of the active periods of the pulse outputs (R124). -/
def State.duePulses (s : State) : List DueCommand :=
  (List.finRange 6).flatMap fun x =>
    match (s.px[x]).until_ with
    | some u => s.dueAt u (.pulseEnd x)
    | none => []

/-- The label windows that close and the glitch guards that end (R27, R30). -/
def State.duePeriods (s : State) : List DueCommand :=
  (List.finRange 2).flatMap fun i =>
    match (s.ta[i]).period with
    | some p =>
      (if p.judged then [] else s.dueAt (wrapInstant (p.edge + Config.labelClosePs)) (.taLabelWindowClose i)) ++
        s.dueAt (wrapInstant (p.edge + (s.ta[i]).guardPs)) (.taGlitchGuardEnd i)
    | none => []

/-- The turns that go out and come back on a drop line (R134). -/
def State.dueTurns (s : State) (d : DropIx) : List DueCommand :=
  (match (s.drops[d]).line with
    | some m =>
      match m.kind with
      | .probe _ _ _ => s.dueAt (wrapInstant (m.start + m.length)) (.turnOut d)
      | .offer _ _ => s.dueAt (wrapInstant (m.start + m.length)) (.turnOut d)
      | .mark => []
      | .announce _ _ => []
    | none => []) ++
    (match (s.drops[d]).turn with
      | .out start _ limit _ _ => s.dueAt (wrapInstant (start + limit)) (.turnLimitExpiry d)
      | .isIn => [])

/-- A drop timer that has reached 0, at the millisecond boundary last taken. -/
def State.dueTimer (s : State) (t : Option Nat) (c : Instr) : List DueCommand :=
  if t = some 0 then
    [{ command := c, late := s.msOwed.boundaries * Config.psPerMs + s.counter.ps % Config.psPerMs }]
  else []

/-- The drop timers at 0 (R136, R140, R146). -/
def State.dueTimers (s : State) (d : DropIx) : List DueCommand :=
  s.dueTimer (s.drops[d]).offerTimer (.offerTimerExpiry d) ++
    s.dueTimer (s.drops[d]).probeTimer (.probeTimerExpiry d) ++
    s.dueTimer (s.drops[d]).annTimer (.announcementTimerExpiry d)

/-- Everything of the counter that is due; a frozen counter reaches no boundary (R13). -/
def State.counterDues (s : State) : List DueCommand :=
  (if s.tb.state = .fault then [] else s.dueBoundaries) ++ s.dueReleases ++ s.duePulses ++ s.duePeriods ++
    (List.finRange 8).flatMap s.dueTurns ++ (List.finRange 8).flatMap s.dueTimers

/-! ### Events of monitor time -/

/-- A timer that runs on monitor time: the instant at which it runs out, in ns, and the command that this then is. -/
structure MonitorTimer where
  ends : Nat
  command : Instr
  deriving DecidableEq, Repr

/-- A timer, when it runs. -/
def timerOf (t : Option Nat) (c : Instr) : List MonitorTimer :=
  match t with
  | some d => [{ ends := d, command := c }]
  | none => []

/-- The timers of a reference record (R54, R60). -/
def State.refTimers (s : State) (i : Slot) : List MonitorTimer :=
  (if (s.refs[i]).state = .holdoff then timerOf (s.refs[i]).holdoff (.holdoffExpiry i) else []) ++
    (if (s.refs[i]).k = 0 then []
      else timerOf ((s.refs[i]).qualifiedSince.map (· + 3600 * Config.nsPerSecond)) (.qualifiedHour i)) ++
    (if s.waitsToReplace i then
      timerOf ((s.refs[i]).candidateSince.map (· + s.sel.wtr * Config.nsPerSecond)) (.revertiveWaitExpiry i)
    else [])

/-- Every timer that runs on monitor time, the gate of the oscillator monitor first. -/
def State.monitorTimers (s : State) : List MonitorTimer :=
  timerOf (some s.osc.gateEnd) (.monitorGateEnd (s.osc.gateEdges + s.osc.passedEdges)) ++
    (if s.tb.state = .warmup then timerOf s.osc.warmup .warmupExpiry else []) ++
    (List.finRange 2).flatMap (fun i =>
      timerOf (s.ta[i]).timer (.taActivityTimeout i) ++
        timerOf ((s.ta[i]).rxDeadline.map (· + 1)) (.labelByteGap i) ++
        timerOf (s.fq[i]).timer (.fqActivityTimeout i)) ++
    (List.finRange 4).flatMap (fun p => timerOf (s.ofs[p]).timer (.ofActivityTimeout p)) ++
    (List.finRange 8).flatMap s.refTimers ++
    timerOf s.sched.overrunHold .emitOverrunHoldExpiry ++
    (List.finRange 32).flatMap (fun a => timerOf (s.alarms[a]).timer (.alarmPersistenceExpiry a)) ++
    (List.finRange 4).flatMap (fun p =>
      if (s.ports[p]).online then timerOf (s.ports[p]).silence (.silenceTimerExpiry p) else [])

/-- Everything of monitor time that is due. -/
def State.monitorDues (s : State) : List DueCommand :=
  (s.monitorTimers.filter fun m => m.ends ≤ s.osc.now).map fun m =>
    { command := m.command, late := s.osc.now - m.ends }

/-- The instant at which the next timer of monitor time runs out; the gate of the oscillator monitor always runs. -/
def State.nextTimer (s : State) : Nat := s.monitorTimers.foldr (fun m t => min m.ends t) s.osc.gateEnd

/-! ### Requests (R176) -/

/-- The command that executes a request of a code (10, "Request codes"). -/
def requestCommand (p : Port) (code : Nat) : Instr :=
  match code with
  | 16 => .timeRead p | 17 => .stateRead p | 18 => .timeStep p | 19 => .leapSet p
  | 32 => .offsetReport p | 33 => .refSet p | 34 => .refRead p | 35 => .selectSet p | 36 => .selectForce p
  | 48 => .loopSet p | 49 => .historyRead p | 50 => .historyRestore p | 51 => .holdoverForce p
  | 64 => .outputAssign p | 65 => .entryDefine p | 66 => .entryChange p | 67 => .entryStart p
  | 68 => .entryStop p | 69 => .entryFree p | 70 => .entryRead p
  | 80 => .profileSet p | 81 => .dropSet p | 82 => .dropRead p
  | 96 => .alarmSeverity p | 97 => .alarmRead p | 98 => .alarmSeen p | 99 => .alarmMask p | 100 => .noticeRead p
  | 112 => .authTake p | 113 => .authRelease p | 114 => .portSet p | 115 => .portReset p
  | _ => .unknownRequest p

/-- The oldest request of a port, when it may be executed: a reply place is free, or it is PORT_RESET (R176). -/
def State.dueRequest (s : State) (p : Port) : Option Instr :=
  match (s.ports[p]).oldest with
  | some (r, _) =>
    if (s.ports[p]).replies.length < Config.replyMax ∨ r.code.toNat = 115 then some (requestCommand p r.code.toNat)
    else none
  | none => none

/-! ### The idle step -/

/-- The command that has fallen due: of the counter, then of monitor time, then the requests in port order. -/
def State.dueCommand (s : State) : Option Instr :=
  match longestDue s.counterDues with
  | some c => some c.command
  | none =>
    match longestDue s.monitorDues with
    | some c => some c.command
    | none => (List.finRange 4).findSome? s.dueRequest

/-- What a cycle of LO_IN adds, in units of 2^-16 ps times 10^7, with what earlier cycles left below the resolution
(R2). -/
def State.cycleSum (s : State) : Nat :=
  s.residue + ((1000000000000 + s.tb.steer) * (Config.fracPerPs : Int)).toNat

/-- The units of 2^-16 ps that the fraction holds after a cycle, before its carry. -/
def State.cycleUnits (s : State) : Nat := s.counter.frac + s.cycleSum / Config.cyclesPerSecond

/-- A cycle of LO_IN at the counter: it gains (10^12 + y) / 10^7 ps, unless it is frozen (R2, R13). -/
def State.cycleCounter (s : State) : State :=
  if s.tb.state = .fault then s
  else
    ({ s with
      residue := s.cycleSum % Config.cyclesPerSecond
      counter := { s.counter with frac := s.cycleUnits % Config.fracPerPs } }).runCounter
      (s.cycleUnits / Config.fracPerPs)

/-- The monitor time from one edge of LO_IN to the next: a free value (notes/assumptions/3.md). -/
def State.cycleNanos (s : State) : Nat := Config.monitorNanos s.loCycles

/-- The monitor time still to pass until the next edge of LO_IN, or until 10 µs without one are complete (R4). -/
def State.cycleRest (s : State) : Nat := min s.cycleNanos Config.gapNs - s.osc.quiet

/-- A cycle of LO_IN at the oscillator monitor: monitor time passes up to the edge, and the edge is counted (R4). -/
def State.cycleMonitor (s : State) : State :=
  { s with
    loCycles := s.loCycles + 1
    osc := { s.osc with now := s.osc.now + s.cycleRest, gateEdges := s.osc.gateEdges + 1, quiet := 0 } }

/-- Monitor time passes up to an instant that comes before the next edge. -/
def State.cycleStall (s : State) (t : Nat) : State :=
  s.setOsc { s.osc with now := s.osc.now + (t - s.osc.now), quiet := s.osc.quiet + (t - s.osc.now) }

/-- No edge has come for 10 µs: the gap is found at once, and the edge is still to come (R4; notes/assumptions/3.md). -/
def State.cycleGap (s : State) : State :=
  { s with
    loCycles := s.loCycles + 1
    osc := { s.osc with now := s.osc.now + s.cycleRest, quiet := 0 }
    pending := s.pending ++ [.loInGap Elapsed.none] }

/-- One cycle of LO_IN, or the gap when its edge stays away for 10 µs. A timer of monitor time that runs out before
either, the gate of the monitor among them, is reached first, so that an edge or a gap counts in the gate that holds it
(R4; notes/assumptions/3.md). -/
def State.loCycle (s : State) : State :=
  if s.nextTimer < s.osc.now + s.cycleRest then s.cycleStall s.nextTimer
  else if s.cycleNanos < Config.gapNs then s.cycleMonitor.cycleCounter
  else s.cycleGap

/-- One step with no command waiting. -/
def State.idle (s : State) : State :=
  match s.dueCommand with
  | some c => s.setPending (s.pending ++ [c])
  | none => s.loCycle

end Sys2Proof.Machine
end

