-- ==== Sys2Proof/Machine/Dispatch.lean ====
section
/-! DEFINITION. The meaning of every command, arm by arm. -/

namespace Sys2Proof.Machine

def exec (i : Instr) (s : State) : Host.Outcome State Fault Refusal :=
  match i with
  | .resetRelease authSel warmSel => Sys2Proof.Machine.execResetRelease authSel warmSel s
  | .counterSecondBoundary => Sys2Proof.Machine.execCounterSecondBoundary s
  | .counterMillisecondBoundary => Sys2Proof.Machine.execCounterMillisecondBoundary s
  | .monitorGateEnd edges => Sys2Proof.Machine.execMonitorGateEnd edges s
  | .loInGap e => Sys2Proof.Machine.execLoInGap e s
  | .warmupExpiry => Sys2Proof.Machine.execWarmupExpiry s
  | .taActiveEdge e input => Sys2Proof.Machine.execTaActiveEdge e input s
  | .taTrailingEdge e input => Sys2Proof.Machine.execTaTrailingEdge e input s
  | .taLabelComplete e input bytes => Sys2Proof.Machine.execTaLabelComplete e input bytes s
  | .labelByteGap input => Sys2Proof.Machine.execLabelByteGap input s
  | .labelFramingError e input => Sys2Proof.Machine.execLabelFramingError e input s
  | .taLabelWindowClose input => Sys2Proof.Machine.execTaLabelWindowClose input s
  | .taGlitchGuardEnd input => Sys2Proof.Machine.execTaGlitchGuardEnd input s
  | .taActivityTimeout input => Sys2Proof.Machine.execTaActivityTimeout input s
  | .fqEdge e input n => Sys2Proof.Machine.execFqEdge e input n s
  | .fqActivityTimeout input => Sys2Proof.Machine.execFqActivityTimeout input s
  | .ofActivityTimeout p => Sys2Proof.Machine.execOfActivityTimeout p s
  | .holdoffExpiry slot => Sys2Proof.Machine.execHoldoffExpiry slot s
  | .qualifiedHour slot => Sys2Proof.Machine.execQualifiedHour slot s
  | .revertiveWaitExpiry slot => Sys2Proof.Machine.execRevertiveWaitExpiry slot s
  | .hardInstanceRelease n => Sys2Proof.Machine.execHardInstanceRelease n s
  | .pulseEnd x => Sys2Proof.Machine.execPulseEnd x s
  | .emitOverrunHoldExpiry => Sys2Proof.Machine.execEmitOverrunHoldExpiry s
  | .softItemRelease d => Sys2Proof.Machine.execSoftItemRelease d s
  | .turnOut d => Sys2Proof.Machine.execTurnOut d s
  | .turnLimitExpiry d => Sys2Proof.Machine.execTurnLimitExpiry d s
  | .dropMessageComplete e d bytes => Sys2Proof.Machine.execDropMessageComplete e d bytes s
  | .dropContention e d => Sys2Proof.Machine.execDropContention e d s
  | .dropLineIdle e d => Sys2Proof.Machine.execDropLineIdle e d s
  | .offerTimerExpiry d => Sys2Proof.Machine.execOfferTimerExpiry d s
  | .probeTimerExpiry d => Sys2Proof.Machine.execProbeTimerExpiry d s
  | .announcementTimerExpiry d => Sys2Proof.Machine.execAnnouncementTimerExpiry d s
  | .alarmPersistenceExpiry a => Sys2Proof.Machine.execAlarmPersistenceExpiry a s
  | .peek e p => Sys2Proof.Machine.execPeek e p s
  | .push e p => Sys2Proof.Machine.execPush e p s
  | .requestArrival e p code tag body => Sys2Proof.Machine.execRequestArrival e p code tag body s
  | .transactionCutShort e p => Sys2Proof.Machine.execTransactionCutShort e p s
  | .pull e p => Sys2Proof.Machine.execPull e p s
  | .segmentPulled e p => Sys2Proof.Machine.execSegmentPulled e p s
  | .unknownTransactionType e p => Sys2Proof.Machine.execUnknownTransactionType e p s
  | .silenceTimerExpiry p => Sys2Proof.Machine.execSilenceTimerExpiry p s
  | .timeRead p => Sys2Proof.Machine.execTimeRead p s
  | .stateRead p => Sys2Proof.Machine.execStateRead p s
  | .timeStep p => Sys2Proof.Machine.execTimeStep p s
  | .leapSet p => Sys2Proof.Machine.execLeapSet p s
  | .offsetReport p => Sys2Proof.Machine.execOffsetReport p s
  | .refSet p => Sys2Proof.Machine.execRefSet p s
  | .refRead p => Sys2Proof.Machine.execRefRead p s
  | .selectSet p => Sys2Proof.Machine.execSelectSet p s
  | .selectForce p => Sys2Proof.Machine.execSelectForce p s
  | .loopSet p => Sys2Proof.Machine.execLoopSet p s
  | .historyRead p => Sys2Proof.Machine.execHistoryRead p s
  | .historyRestore p => Sys2Proof.Machine.execHistoryRestore p s
  | .holdoverForce p => Sys2Proof.Machine.execHoldoverForce p s
  | .outputAssign p => Sys2Proof.Machine.execOutputAssign p s
  | .entryDefine p => Sys2Proof.Machine.execEntryDefine p s
  | .entryChange p => Sys2Proof.Machine.execEntryChange p s
  | .entryStart p => Sys2Proof.Machine.execEntryStart p s
  | .entryStop p => Sys2Proof.Machine.execEntryStop p s
  | .entryFree p => Sys2Proof.Machine.execEntryFree p s
  | .entryRead p => Sys2Proof.Machine.execEntryRead p s
  | .profileSet p => Sys2Proof.Machine.execProfileSet p s
  | .dropSet p => Sys2Proof.Machine.execDropSet p s
  | .dropRead p => Sys2Proof.Machine.execDropRead p s
  | .alarmSeverity p => Sys2Proof.Machine.execAlarmSeverity p s
  | .alarmRead p => Sys2Proof.Machine.execAlarmRead p s
  | .alarmSeen p => Sys2Proof.Machine.execAlarmSeen p s
  | .alarmMask p => Sys2Proof.Machine.execAlarmMask p s
  | .noticeRead p => Sys2Proof.Machine.execNoticeRead p s
  | .authTake p => Sys2Proof.Machine.execAuthTake p s
  | .authRelease p => Sys2Proof.Machine.execAuthRelease p s
  | .portSet p => Sys2Proof.Machine.execPortSet p s
  | .portReset p => Sys2Proof.Machine.execPortReset p s
  | .unknownRequest p => Sys2Proof.Machine.execUnknownRequest p s
  | .labelStartByte e input => Sys2Proof.Machine.execLabelStartByte e input s
  | .unitMessageFirstByte e d => Sys2Proof.Machine.execUnitMessageFirstByte e d s

end Sys2Proof.Machine
end

