-- ==== Sys2Proof/Safety.lean ====
section
/-! DEFINITION. The terms of claims: a step that goes on, what a command leaves unchanged, the counter's position to
its full resolution, and what holds of the part in every state that it can be in. -/

namespace Sys2Proof.Machine

/-! ### Outcomes -/

/-- The outcome is a next state. -/
def Result.isNext (r : Result) : Bool :=
  match r with
  | .next _ => true
  | .fault _ => false
  | .refused _ => false

/-- A step from the state goes on. -/
def State.safe (s : State) : Bool := Result.isNext (step s)

/-! ### What a command leaves unchanged -/

/-- The fields of State. -/
inductive Field where
  | counter | residue | secondOwed | msOwed | loCycles | osc | straps | tb | lp | hp | loop | hold | ta | fq
  | ofs | aligned | refs | conflicts | sel | entries | profiles | px | sched | drops | alarms | views | ports
  | holder | waitList | pending
  deriving DecidableEq, Repr

/-- Two states agree in a field. -/
def Field.same (f : Field) (s t : State) : Prop :=
  match f with
  | .counter => t.counter = s.counter
  | .residue => t.residue = s.residue
  | .secondOwed => t.secondOwed = s.secondOwed
  | .msOwed => t.msOwed = s.msOwed
  | .loCycles => t.loCycles = s.loCycles
  | .osc => t.osc = s.osc
  | .straps => t.straps = s.straps
  | .tb => t.tb = s.tb
  | .lp => t.lp = s.lp
  | .hp => t.hp = s.hp
  | .loop => t.loop = s.loop
  | .hold => t.hold = s.hold
  | .ta => t.ta = s.ta
  | .fq => t.fq = s.fq
  | .ofs => t.ofs = s.ofs
  | .aligned => t.aligned = s.aligned
  | .refs => t.refs = s.refs
  | .conflicts => t.conflicts = s.conflicts
  | .sel => t.sel = s.sel
  | .entries => t.entries = s.entries
  | .profiles => t.profiles = s.profiles
  | .px => t.px = s.px
  | .sched => t.sched = s.sched
  | .drops => t.drops = s.drops
  | .alarms => t.alarms = s.alarms
  | .views => t.views = s.views
  | .ports => t.ports = s.ports
  | .holder => t.holder = s.holder
  | .waitList => t.waitList = s.waitList
  | .pending => t.pending = s.pending

/-- The second state differs from the first in the named fields alone. -/
def OnlyChanges (fs : List Field) (s t : State) : Prop := ∀ f : Field, f ∉ fs → f.same s t

/-! ### The fields that each command may change -/

/-- The fields of elapsed time: counter time, and monitor time. -/
def Field.running : List Field := [.counter, .secondOwed, .msOwed]
def Field.elapsed : List Field := [.counter, .secondOwed, .msOwed, .osc]

/-- The fields of selection and of the steering that follows it (R58, R64). -/
def Field.selecting : List Field := [.tb, .loop, .hold, .refs, .sel, .alarms, .views]

/-- The fields of a measurement taken whole (R66). -/
def Field.measuring : List Field := .aligned :: .conflicts :: Field.selecting

/-- The fields of entry to FAULT (R13). -/
def Field.faulting : List Field :=
  [.osc, .ta, .fq, .entries, .px, .sched, .drops] ++ Field.measuring

/-- The fields of a passing of the authority (R181, R186). -/
def Field.passing : List Field := [.ports, .hold, .alarms, .views, .holder, .waitList]

/-- The fields that a command may change, in any state. -/
def touches : Instr → List Field
  | .resetRelease _ _ =>
    [.counter, .residue, .secondOwed, .msOwed, .loCycles, .osc, .straps, .tb, .lp, .hp, .loop, .hold, .ta, .fq, .ofs, .aligned,
      .refs, .conflicts, .sel, .entries, .profiles, .px, .sched, .drops, .alarms, .views, .ports, .holder, .waitList]
  | .counterSecondBoundary => [.ta, .fq, .entries, .px, .sched, .drops] ++ Field.running ++ Field.measuring
  | .counterMillisecondBoundary => [.sched, .entries, .drops, .alarms, .views] ++ Field.running
  | .monitorGateEnd _ => .msOwed :: Field.faulting
  | .loInGap _ => Field.running ++ Field.faulting
  | .warmupExpiry => [.osc, .tb, .loop, .hold, .alarms, .views]
  | .taActiveEdge _ _ => .ta :: Field.elapsed ++ Field.measuring
  | .taTrailingEdge _ _ => .ta :: Field.elapsed ++ Field.measuring
  | .taLabelComplete _ _ _ => .ta :: Field.elapsed ++ Field.measuring
  | .labelByteGap _ => [.osc, .ta]
  | .labelFramingError _ _ => .ta :: Field.elapsed
  | .taLabelWindowClose _ => .ta :: Field.running ++ Field.measuring
  | .taGlitchGuardEnd _ => .ta :: Field.running ++ Field.measuring
  | .taActivityTimeout _ => [.osc, .ta, .conflicts] ++ Field.selecting
  | .fqEdge _ _ _ => .fq :: Field.elapsed
  | .fqActivityTimeout _ => [.osc, .fq, .conflicts] ++ Field.selecting
  | .ofActivityTimeout _ => [.osc, .ofs, .conflicts] ++ Field.selecting
  | .holdoffExpiry _ => .osc :: Field.selecting
  | .qualifiedHour _ => [.osc, .refs]
  | .revertiveWaitExpiry _ => .osc :: Field.selecting
  | .hardInstanceRelease _ => [.entries, .px, .sched, .drops, .alarms, .views] ++ Field.running
  | .pulseEnd _ => .px :: Field.running
  | .emitOverrunHoldExpiry => [.osc, .sched, .alarms, .views]
  | .softItemRelease _ => [.sched, .drops, .alarms, .views] ++ Field.running
  | .turnOut _ => .drops :: Field.running
  | .turnLimitExpiry _ => [.drops, .alarms, .views] ++ Field.running
  | .dropMessageComplete _ _ _ => [.drops, .alarms, .views] ++ Field.elapsed
  | .dropContention _ _ => [.drops, .alarms, .views] ++ Field.elapsed
  | .dropLineIdle _ _ => [.drops, .alarms, .views] ++ Field.elapsed
  | .offerTimerExpiry _ => [.drops]
  | .probeTimerExpiry _ => [.drops]
  | .announcementTimerExpiry _ => [.drops, .alarms, .views]
  | .alarmPersistenceExpiry _ => [.osc, .alarms, .views]
  | .peek _ _ => .ports :: Field.elapsed
  | .push _ _ => [.ports, .alarms, .views] ++ Field.elapsed
  | .requestArrival _ _ _ _ _ => .ports :: Field.elapsed
  | .transactionCutShort _ _ => .ports :: Field.elapsed
  | .pull _ _ => .ports :: Field.elapsed
  | .segmentPulled _ _ => .ports :: Field.elapsed
  | .unknownTransactionType _ _ => .ports :: Field.elapsed
  | .silenceTimerExpiry _ => .osc :: Field.passing
  | .timeRead _ => [.ports]
  | .stateRead _ => [.ports]
  | .timeStep _ => [.ports, .tb]
  | .leapSet _ => [.ports, .tb]
  | .offsetReport _ => [.ports, .ofs] ++ Field.measuring
  | .refSet _ => [.ports, .ta, .fq, .ofs, .conflicts] ++ Field.selecting
  | .refRead _ => [.ports]
  | .selectSet _ => .ports :: Field.selecting
  | .selectForce _ => .ports :: Field.selecting
  | .loopSet _ => [.ports, .lp, .hp, .tb, .loop, .hold, .alarms, .views]
  | .historyRead _ => [.ports]
  | .historyRestore _ => [.ports, .hold, .tb]
  | .holdoverForce _ => [.ports, .tb, .loop, .hold, .alarms, .views]
  | .outputAssign _ => [.ports, .entries, .px, .sched, .drops, .alarms, .views]
  | .entryDefine _ => [.ports, .entries]
  | .entryChange _ => [.ports, .entries]
  | .entryStart _ => [.ports, .entries]
  | .entryStop _ => [.ports, .entries]
  | .entryFree _ => [.ports, .entries, .sched]
  | .entryRead _ => [.ports]
  | .profileSet _ => [.ports, .profiles, .drops, .views]
  | .dropSet _ => [.ports, .drops, .alarms, .views]
  | .dropRead _ => [.ports]
  | .alarmSeverity _ => [.ports, .alarms]
  | .alarmRead _ => [.ports]
  | .alarmSeen _ => [.ports, .views]
  | .alarmMask _ => [.ports, .views]
  | .noticeRead _ => [.ports, .views]
  | .authTake _ => Field.passing
  | .authRelease _ => Field.passing
  | .portSet _ => [.ports]
  | .portReset _ => Field.passing
  | .unknownRequest _ => [.ports]
  | .labelStartByte _ _ => .ta :: Field.elapsed ++ Field.measuring
  | .unitMessageFirstByte _ _ => [.drops, .alarms, .views] ++ Field.elapsed

/-! ### The one record that a command is about -/

/-- The port that a transaction, a request or a silence timer belongs to. -/
def commandPort : Instr → Option Port
  | .peek _ p => some p
  | .push _ p => some p
  | .requestArrival _ p _ _ _ => some p
  | .transactionCutShort _ p => some p
  | .pull _ p => some p
  | .segmentPulled _ p => some p
  | .unknownTransactionType _ p => some p
  | .silenceTimerExpiry p => some p
  | .timeRead p => some p
  | .stateRead p => some p
  | .timeStep p => some p
  | .leapSet p => some p
  | .offsetReport p => some p
  | .refSet p => some p
  | .refRead p => some p
  | .selectSet p => some p
  | .selectForce p => some p
  | .loopSet p => some p
  | .historyRead p => some p
  | .historyRestore p => some p
  | .holdoverForce p => some p
  | .outputAssign p => some p
  | .entryDefine p => some p
  | .entryChange p => some p
  | .entryStart p => some p
  | .entryStop p => some p
  | .entryFree p => some p
  | .entryRead p => some p
  | .profileSet p => some p
  | .dropSet p => some p
  | .dropRead p => some p
  | .alarmSeverity p => some p
  | .alarmRead p => some p
  | .alarmSeen p => some p
  | .alarmMask p => some p
  | .noticeRead p => some p
  | .authTake p => some p
  | .authRelease p => some p
  | .portSet p => some p
  | .portReset p => some p
  | .unknownRequest p => some p
  | _ => none

/-- The TA input that an event of a TA input or label line is about. -/
def commandTa : Instr → Option InputIx
  | .taActiveEdge _ i => some i
  | .taTrailingEdge _ i => some i
  | .taLabelComplete _ i _ => some i
  | .labelByteGap i => some i
  | .labelFramingError _ i => some i
  | .labelStartByte _ i => some i
  | .taLabelWindowClose i => some i
  | .taGlitchGuardEnd i => some i
  | .taActivityTimeout i => some i
  | _ => none

/-- The FQ input that an edge or timeout is about. -/
def commandFq : Instr → Option InputIx
  | .fqEdge _ i _ => some i
  | .fqActivityTimeout i => some i
  | _ => none

/-- The drop that an event of a drop line or a drop timer is about. -/
def commandDrop : Instr → Option DropIx
  | .softItemRelease d => some d
  | .turnOut d => some d
  | .turnLimitExpiry d => some d
  | .dropMessageComplete _ d _ => some d
  | .dropContention _ d => some d
  | .dropLineIdle _ d => some d
  | .unitMessageFirstByte _ d => some d
  | .offerTimerExpiry d => some d
  | .probeTimerExpiry d => some d
  | .announcementTimerExpiry d => some d
  | _ => none

/-! ### The time counter (R1, R2) -/

/-- The counter's position with its fraction and what lies below the fraction's resolution, in units of 2^-16 ps
divided by 10^7. -/
def State.ticks (s : State) : Nat :=
  (s.counter.instant * Config.fracPerPs + s.counter.frac) * Config.cyclesPerSecond + s.residue

/-- The span of those units, after which the counter's reading comes again (R1). -/
def tickSpan : Nat := Config.siteSpan * Config.fracPerPs * Config.cyclesPerSecond

/-- The fields of the counter lie in their ranges (R1). -/
def State.counterInRange (s : State) : Prop :=
  s.counter.sec < Config.siteSeconds ∧ s.counter.ps < Config.psPerSecond ∧ s.counter.frac < Config.fracPerPs ∧
    s.residue < Config.cyclesPerSecond

/-! ### Steering (R72) -/

/-- A value lies within ±bound. -/
def within (bound v : Int) : Prop := -bound ≤ v ∧ v ≤ bound

/-- The steer value in force, the loop's steer value and its integrator are held to Ymax. -/
def State.steerBounded (s : State) : Prop :=
  0 ≤ s.lp.yMax ∧ within s.lp.yMax s.tb.steer ∧ within s.lp.yMax s.loop.y ∧ within (s.lp.yMax * 65536) s.loop.integ

/-! ### The frequency history (R88, R91) -/

/-- The minute indices of a list of records rise strictly. -/
def indicesRise (l : List MinuteRecord) : Prop := l.Pairwise fun a b => a.index < b.index

/-- The history and the staging list hold at most 64 records each, in strictly rising minute index. -/
def State.historyOrdered (s : State) : Prop :=
  s.hold.history.length ≤ 64 ∧ indicesRise s.hold.history ∧ s.hold.staging.length ≤ 64 ∧ indicesRise s.hold.staging

/-! ### Counts of the records (R47, R67, R71, R120, R128, R146) -/

/-- The units and the items of each drop that the two windows have spent lie within the budget (R120). -/
def Scheduler.spentInBudget (x : Scheduler) : Prop :=
  x.unitsNow ≤ 24 ∧ x.unitsNext ≤ 24 ∧ ∀ d : DropIx, x.itemsNow[d] ≤ 4 ∧ x.itemsNext[d] ≤ 4

/-- The counts that the records hold lie in their ranges. -/
def State.countsInRange (s : State) : Prop :=
  s.sched.spentInBudget ∧
  (∀ i : Slot, (s.refs[i]).score ≤ 32 ∧ (s.refs[i]).k ≤ 4 ∧ (s.refs[i]).streak ≤ 65535) ∧
    (∀ k : Fin 64, (s.conflicts[k]).run ≤ 3) ∧ s.loop.lockRun ≤ 8 ∧ s.loop.lossRun ≤ 3 ∧
    ∀ d : DropIx, (s.drops[d]).backlog ≤ 15 ∧ (s.drops[d]).ring.length ≤ 8 ∧ (s.drops[d]).failRun ≤ 255 ∧
      (s.drops[d]).annCounter ≤ 254

/-! ### Drops (R144) -/

/-- Each applied delay is what the drop's ring and profile give. -/
def State.delaysFormed (s : State) : Prop :=
  ∀ d : DropIx, (s.drops[d]).delay = delayOf (s.drops[d]).ring (s.profileOf d)

/-! ### The emission table (R106, R109, R113) -/

/-- An entry's link: a relative follows an anchor of its own owner, and is planned only while its anchor is. -/
def State.linkSound (s : State) (e : Entry) : Prop :=
  match e.fields.link with
  | .anchor _ _ _ _ => True
  | .relative a _ _ _ =>
    ∃ anchor, s.entries[a] = some anchor ∧ anchor.anchorPeriod.isSome ∧ anchor.owner = e.owner ∧
      (e.planned = true → anchor.planned = true)

/-- Every entry that is not FREE targets an output of its owner, and its link is sound. -/
def State.tableSound (s : State) : Prop :=
  ∀ (i : EntryIx) (e : Entry), s.entries[i] = some e → s.outputOwner e.fields.target = some e.owner ∧ s.linkSound e

/-! ### Alarms (R155 to R158) -/

/-- The state of an alarm record agrees with its condition and its persistence timer. -/
def AlarmRec.agrees (a : AlarmRec) : Prop :=
  (a.condition = true ↔ a.state = .raising ∨ a.state = .active) ∧
    (a.timer.isSome = true ↔ a.state = .raising ∨ a.state = .clearing)

/-- Every record holds the condition that its owner now hands over, in a state that agrees with it. -/
def State.alarmsFollow (s : State) : Prop :=
  ∀ i : AlarmIx, (s.alarms[i]).condition = s.conditionOf i ∧ (s.alarms[i]).agrees

/-! ### Ports, notices and authority (R168, R170, R181, R184) -/

/-- The notices of a kind that wait at a port. -/
def State.noticesOf (s : State) (p : Port) (k : NoticeKind) : List Notice :=
  (s.views[p]).notices.filter fun n => n.kind = k

/-- From one state to the next a port is given these notices of a kind, in this order. One that is ONLINE and whose
event mask passes the kind queues those that find room, and its overflow flag shows the loss of the others; any other
is given none (R167, R168). -/
def State.given (s t : State) (p : Port) (k : NoticeKind) (l : List Notice) : Prop :=
  if (s.ports[p]).online = true ∧ (s.views[p]).eventMask.getLsbD k.code = true then
    t.noticesOf p k = s.noticesOf p k ++ l ∨
      ((t.views[p]).overflow = true ∧ ∃ n ∈ List.range l.length, t.noticesOf p k = s.noticesOf p k ++ l.take n)
  else t.noticesOf p k = s.noticesOf p k

/-- A port's queues are within their sizes, and those of an OFFLINE port are empty. -/
def PortRec.queuesBounded (q : PortRec) : Prop :=
  q.shortQueue.length ≤ 8 ∧ (∀ r ∈ q.shortQueue, r.body.length ≤ 16) ∧ q.longQueue.length ≤ 2 ∧
    (∀ r ∈ q.longQueue, 17 ≤ r.body.length ∧ r.body.length ≤ 512) ∧ q.replies.length ≤ 4 ∧
    (q.online = false → q.shortQueue = [] ∧ q.longQueue = [] ∧ q.replies = [])

/-- Every port's queues and notice queue are within their sizes. -/
def State.queuesBounded (s : State) : Prop :=
  ∀ p : Port, (s.ports[p]).queuesBounded ∧ (s.views[p]).notices.length ≤ 16

/-- The wait list holds ONLINE ports other than the holder, each once, by falling urgency; without a holder it is
empty. -/
def State.waitListSound (s : State) : Prop :=
  (s.holder = none → s.waitList = []) ∧ s.waitList.Pairwise (fun a b => b.urgency ≤ a.urgency ∧ a.port ≠ b.port) ∧
    ∀ w ∈ s.waitList, s.holder ≠ some w.port ∧ (s.ports[w.port]).online = true ∧ w.urgency ≤ 3

/-! ### Budget units (R120) -/

/-- The units that a soft item costs. -/
def SoftItem.units (x : SoftItem) : Nat :=
  match x.kind with
  | .announce a => a.units
  | .probe => 1
  | .offer => 1

/-- The hard items of a list that a drop carries, and the soft ones. -/
def hardOf (d : DropIx) (l : List HardItem) : Nat := (l.filter fun h => h.target = .drop d).length
def softOf (d : DropIx) (l : List SoftItem) : Nat := (l.filter fun x => x.drop = d).length

/-! ### Requests (R176) -/

/-- The port's oldest request is `r`, it has the code, and a reply has room; `q` is the port without it. -/
abbrev State.ready (s : State) (p : Port) (code : Nat) (r : Request) (q : PortRec) : Prop :=
  (s.ports[p]).oldest = some (r, q) ∧ r.code.toNat = code ∧ (s.ports[p]).replies.length < Config.replyMax

/-- The reply to a request. -/
def Request.reply (r : Request) (status : Status) (body : List Byte) : Reply :=
  { tag := r.tag, code := r.code, status := status, body := body }

/-- The port after the execution of its oldest request: the request is out of its queue, and its reply is the newest. -/
def PortRec.replied (q : PortRec) (r : Request) (status : Status) (body : List Byte) : PortRec :=
  { q with replies := q.replies ++ [r.reply status body] }

/-- After the command, the port has executed its oldest request `r` with this reply, and the other ports are as they
were; `q` is the port without the request. -/
def State.answered (s t : State) (p : Port) (r : Request) (q : PortRec) (status : Status) (body : List Byte) : Prop :=
  t.ports = s.ports.set p (q.replied r status body)

end Sys2Proof.Machine
end

