-- ==== Sys2Proof/Certificates/Slice0/Obligations.lean ====
section
/-! DEFINITION. The statements about the model, for the provers: the machine and its invariants, the counter and its
boundaries, the timebase, the loop, the reference inputs, qualification and selection, emission, the drops, alarms and
notices, the ports, and the requests. Elapsed time, what an idle step does and the order of one command's effects are
the model's own (notes/assumptions/1.md, 2.md, 5.md and 7.md); a clause that rests on another of the model's choices names
its row, and the rest are rules of the manual. -/

section

open Sys2Proof Sys2Proof.Machine

/-! ### The machine -/

/-- A step takes the command at the front of the queue, with the queue's rest; with none waiting it does what
`State.idle` says (the model's choice, notes/assumptions/2.md). -/
def Obligations.StepRunsFrontCommand : Prop := (∀ (c : Instr) (rest : List Instr) (s : State), s.pending = c :: rest → step s = exec c (s.setPending rest)) ∧
    ∀ s : State, s.pending = [] → step s = .next s.idle

/-- No step of the part ends in a fault or a refusal, from any state (notes/assumptions/29.md). -/
def Obligations.StepAlwaysGoesOn : Prop := ∀ s : State, ∃ t, step s = .next t

/-- Whatever the state, a command changes no field of State but those that `touches` names for it; a command of one
port changes no other port's record, an event of one TA or FQ input no other input, and an event of one drop line or
drop timer no other drop; no command but a reset release changes the straps. -/
def Obligations.CommandsChangeOnlyTheirParts : Prop :=
  (∀ (c : Instr) (s t : State), exec c s = .next t → OnlyChanges (touches c) s t) ∧
  ∀ (c : Instr) (s t : State), exec c s = .next t →
    (∀ p, commandPort c = some p → ∀ q : Port, q ≠ p → t.ports[q] = s.ports[q]) ∧
      (∀ i, commandTa c = some i → ∀ j : InputIx, j ≠ i → t.ta[j] = s.ta[j]) ∧
      (∀ i, commandFq c = some i → ∀ j : InputIx, j ≠ i → t.fq[j] = s.fq[j]) ∧
      (∀ d, commandDrop c = some d → ∀ x : DropIx, x ≠ d → t.drops[x] = s.drops[x]) ∧
      ((∀ a w, c ≠ .resetRelease a w) → t.straps = s.straps)

/-! ### Reset (R1, R5, R6, R25, R26, R47, R58, R71, R86, R103, R105, R109, R128, R129, R155, R162, R168, R170, R184) -/

/-- RESET_RELEASE leaves every field at the value that the manual gives for power-on and the RESET pin, the straps
sampled as given. (The strap codes: notes/assumptions/6.md and 24.md; the other values that no rule gives are left
out). Cited rules: the reset clauses alone. -/
def Obligations.ResetReleaseTakesResetValues : Prop := ∀ (a : Fin 8) (w : Fin 4) (s : State), ∃ t, exec (.resetRelease a w) s = .next t ∧ t.pending = s.pending ∧
    t.counter = { sec := 0, ps := 0, frac := 0 } ∧
    t.osc.judgement = .good ∧ t.osc.goodRun = 0 ∧ t.osc.now = 0 ∧ t.osc.gateEnd = 100000000 ∧ t.osc.gateEdges = 0 ∧
    t.osc.warmup = some ((match w with
      | 0 => 0
      | 1 => 60
      | 2 => 300
      | 3 => 900) * 1000000000) ∧
    t.tb.state = .warmup ∧ t.tb.grade = .free ∧ t.tb.traced = false ∧ t.tb.episode = none ∧ t.tb.heldGrade = none ∧
    t.tb.force = false ∧ t.tb.pendingStep = none ∧ t.tb.utcOffset = 0 ∧ t.tb.leap = none ∧
    t.tb.labelAdoption = true ∧ t.tb.lastLabel = none ∧ t.tb.yFree = 0 ∧ t.tb.steer = 0 ∧ t.tb.minuteIndex = 0 ∧
    t.lp.trackingClass = 3 ∧ t.lp.assistClass = 5 ∧ t.lp.yMax = 10000000 ∧ t.lp.stepThreshold = 1000000 ∧
    t.lp.stepPolicy = .always ∧ t.lp.lockThreshold = 100 ∧ t.lp.lossThreshold = 1000 ∧
    t.hp.guardRecords = 2 ∧ t.hp.recordCount = 16 ∧ t.hp.spreadFloor = 50 ∧ t.hp.drift = true ∧
    t.hp.driftLimit = 1000 ∧ t.hp.lockNoise = 20 ∧ t.hp.aging = 100 ∧ t.hp.assistUncertainty = 2 ∧
    t.hp.t1 = 400 ∧ t.hp.t2 = 1100 ∧ t.hp.t3 = 1500 ∧
    t.loop.cls = 0 ∧ t.loop.integ = 0 ∧ t.loop.y = 0 ∧ t.loop.freqLimit = false ∧ t.loop.lockRun = 0 ∧
    t.loop.lossRun = 0 ∧ t.loop.minuteHeld = false ∧ t.loop.firstAcq = true ∧ t.loop.lastU = none ∧
    t.loop.phi0 = none ∧ t.hold.history = [] ∧ t.hold.staging = [] ∧ t.hold.episode = none ∧ t.aligned = false ∧
    t.hold.acc.locked = false ∧ t.hold.acc.sum = 0 ∧ t.hold.acc.count = 0 ∧ t.hold.acc.least = none ∧
    t.hold.acc.greatest = none ∧ t.hold.acc.disturbed = false ∧ t.hold.acc.carried = false ∧
    (∀ i : InputIx, (t.ta[i]).params = { edge := .rising, compensation := 0, window := 2, jumpLimit := 500 } ∧
      (t.ta[i]).period = none ∧ (t.ta[i]).prevEdge = none ∧ (t.ta[i]).jumpRef = none ∧ (t.ta[i]).timer = none ∧
      (t.ta[i]).stray = 0 ∧
      (t.fq[i]).params = { nominal := 10000000, accept := 4600000 } ∧ (t.fq[i]).origin = none ∧
      (t.fq[i]).lastEdge = none ∧ (t.fq[i]).timer = none) ∧
    (∀ p : Port, (t.ofs[p]).params = { noiseLimit := 1000000, minQuality := 6 } ∧ (t.ofs[p]).timer = none) ∧
    (∀ i : Slot, (t.refs[i]).enabled = false ∧ (t.refs[i]).state = .disabled ∧ (t.refs[i]).score = 0 ∧
      (t.refs[i]).streak = 0 ∧ (t.refs[i]).holdoff = none ∧ (t.refs[i]).k = 0 ∧ (t.refs[i]).qualifiedSince = none ∧
      (t.refs[i]).priority = 0 ∧ (t.refs[i]).partner = none ∧ (t.refs[i]).pairWindow = 200 ∧
      (t.refs[i]).pairSample = none ∧ (t.refs[i]).pairResult = none ∧ (t.refs[i]).labelSample = none ∧
      (t.refs[i]).rankQuality = 15 ∧ (t.refs[i]).candidateSince = none ∧ (t.refs[i]).qualifyTime = 30 ∧
      (t.refs[i]).threshold = 16 ∧ (t.refs[i]).latest = none ∧ (t.refs[i]).goodCount = 0 ∧
      (t.refs[i]).badCount = 0 ∧ (t.refs[i]).conflictCount = 0) ∧
    (∀ k : Fin 64, (t.conflicts[k]).run = 0 ∧ (t.conflicts[k]).flag = false) ∧
    t.sel = { phase := none, assist := none, mode := .nonRevertive, force := none, wtr := 300 } ∧
    (∀ i : EntryIx, t.entries[i] = none) ∧
    (∀ i : ProfileIx, t.profiles[i] =
      { squelch := .hold3, announceInterval := 100, fullEvery := 16, asymmetry := 0, fixedDelay := 0, tolerance := 100
        maxRtt := 200000000, probeInterval := 10, offerInterval := 50, turnLimit := 2000 }) ∧
    (∀ x : Px, (t.px[x]).owner = none ∧ (t.px[x]).compensation = 0 ∧ (t.px[x]).until_ = none) ∧
    t.sched.pointer = 0 ∧ t.sched.overrunHold = none ∧ (∀ d : DropIx, t.sched.dropHorizon[d] = 0) ∧
    (∀ x : Px, t.sched.pxHorizon[x] = 0) ∧
    (∀ d : DropIx, (t.drops[d]).owner = none ∧ (t.drops[d]).enabled = false ∧ (t.drops[d]).state = .disabled ∧
      (t.drops[d]).profile = 0 ∧ (t.drops[d]).expected = none ∧ (t.drops[d]).joined = none ∧
      (t.drops[d]).refused = none ∧ (t.drops[d]).compact = false ∧ (t.drops[d]).ring = [] ∧ (t.drops[d]).delay = 0 ∧
      (t.drops[d]).failRun = 0 ∧ (t.drops[d]).turn = .isIn ∧ (t.drops[d]).backlog = 0 ∧ (t.drops[d]).placed = 0 ∧
      (t.drops[d]).lastFullUpper = none ∧ (t.drops[d]).lastFullOffset = none ∧ (t.drops[d]).annCounter = 0 ∧
      (t.drops[d]).stepFlag = false ∧ (t.drops[d]).annTimer = none ∧ (t.drops[d]).probeTimer = none ∧
      (t.drops[d]).offerTimer = none ∧ (t.drops[d]).probeDue = false ∧ (t.drops[d]).offerDue = false ∧
      (t.drops[d]).probeDueSince = none ∧ (t.drops[d]).unitStatus = none ∧ (t.drops[d]).newestResult = none ∧
      (t.drops[d]).offersSent = 0 ∧ (t.drops[d]).joinsAccepted = 0 ∧ (t.drops[d]).joinsRefused = 0 ∧
      (t.drops[d]).probesSent = 0 ∧ (t.drops[d]).validExchanges = 0 ∧ (t.drops[d]).failNoEcho = 0 ∧
      (t.drops[d]).failCheck = 0 ∧ (t.drops[d]).failRange = 0 ∧ (t.drops[d]).failWrongReply = 0 ∧
      (t.drops[d]).failContention = 0 ∧ (t.drops[d]).contentions = 0 ∧ (t.drops[d]).aborted = 0 ∧
      (t.drops[d]).fullSent = 0 ∧ (t.drops[d]).shortSent = 0 ∧ (t.drops[d]).unsent = 0) ∧
    (∀ i : AlarmIx, ((t.alarms[i]).condition = true ↔ i.val = 2 ∨ i.val = 4 ∨ i.val = 11 ∧ 4 ≤ a.val) ∧
      (t.alarms[i]).condition = t.conditionOf i ∧
      (t.alarms[i]).severity =
        (if i.val ≤ 1 then .critical else if i.val ≤ 5 then .major else if i.val ≤ 10 then .minor
          else if i.val = 11 then .warning else if i.val ≤ 19 then .major else if i.val ≤ 27 then .minor else .major) ∧
      (t.alarms[i]).raisePersistence = (if i.val = 0 then 0 else 2) ∧ (t.alarms[i]).clearPersistence = 10 ∧
      (t.alarms[i]).state = (if (t.alarms[i]).condition then .raising else .clear) ∧
      (t.alarms[i]).timer = (if (t.alarms[i]).condition then some 2000000000 else none) ∧
      (t.alarms[i]).raiseCount = 0 ∧ (t.alarms[i]).lastRaise = none ∧ (t.alarms[i]).lastClear = none) ∧
    (∀ p : Port, (t.views[p]).mask = BitVec.allOnes 32 ∧ (t.views[p]).unseen = 0 ∧ (t.views[p]).lineEnable = false ∧
      (t.views[p]).eventMask = BitVec.allOnes 9 ∧ (t.views[p]).notices = [] ∧ (t.views[p]).overflow = false ∧
      (t.ports[p]).online = true ∧ (t.ports[p]).shortQueue = [] ∧ (t.ports[p]).longQueue = [] ∧
      (t.ports[p]).replies = [] ∧ (t.ports[p]).progress = none ∧ (t.ports[p]).overrun = false ∧
      (t.ports[p]).silence = some 5000000000 ∧ (t.ports[p]).maxSegment = 64 ∧ (t.ports[p]).silenceTime = 5) ∧
    t.waitList = [] ∧ (∀ h : a.val < 4, t.holder = some ⟨a.val, h⟩) ∧ (4 ≤ a.val → t.holder = none) ∧
    t.almCrit = false ∧ t.almMaj = false

/-! ### Invariants that every step keeps -/

/-- The state after reset meets every invariant below. State.reset samples the straps as notes/assumptions/6.md says.
-/
def Obligations.ResetMeetsEveryInvariant : Prop := State.reset.steerBounded ∧ State.reset.counterInRange ∧ State.reset.historyOrdered ∧ State.reset.countsInRange ∧
    State.reset.delaysFormed ∧ State.reset.tableSound ∧ State.reset.queuesBounded ∧ State.reset.waitListSound ∧
    State.reset.alarmsFollow

/-- R72: the steer value in force and the loop's steer value lie within ±Ymax, the integrator within ±Ymax × 65,536.
R1, R2: each field of the counter stays in its range, and so does what is kept below its resolution. -/
def Obligations.SteerAndCounterStayInRange : Prop :=
  (∀ s t : State, s.steerBounded → step s = .next t → t.steerBounded) ∧
  ∀ s t : State, s.counterInRange → step s = .next t → t.counterInRange

/-- R88, R91: the history and the staging list hold at most 64 records, in strictly increasing minute index. -/
def Obligations.HistoryStaysOrdered : Prop := ∀ s t : State, s.historyOrdered → step s = .next t → t.historyOrdered

/-- R47, R67, R71, R120, R128, R146: fault score, hold-off step, streak, conflict runs, lock and loss runs, the units
and items of a window, backlog, ring, failure run and announcement counter stay in their ranges. -/
def Obligations.CountsStayInRange : Prop := ∀ s t : State, s.countsInRange → step s = .next t → t.countsInRange

/-- R144: the applied delay of every drop stays what its ring and its profile give. -/
def Obligations.DelaysStayFormed : Prop := ∀ s t : State, s.delaysFormed → step s = .next t → t.delaysFormed

/-- R106, R109, R113: every entry targets an output of its own owner; a relative follows an anchor of its owner and is
WAITING or RUNNING only while that anchor is. -/
def Obligations.EmissionTableStaysSound : Prop := ∀ s t : State, s.tableSound → step s = .next t → t.tableSound

/-- R168, R170, R181: queues stay within their sizes, and those of an OFFLINE port stay empty. R184: the wait list
holds ONLINE ports other than the holder, each once, by falling urgency, and is empty without a holder. The invariant
of the queues goes with it: a port that is OFFLINE has no request to execute. -/
def Obligations.QueuesAndWaitListStaySound : Prop :=
  (∀ s t : State, s.queuesBounded → step s = .next t → t.queuesBounded) ∧
  ∀ s t : State, s.queuesBounded → s.waitListSound → step s = .next t → t.waitListSound

/-- R156, R157, R158: every alarm record holds the condition that the state of the part gives it, and its state agrees
with that condition and with its persistence timer. -/
def Obligations.AlarmsFollowConditions : Prop := ∀ s t : State, s.alarmsFollow → step s = .next t → t.alarmsFollow

/-! ### The counter and its boundaries -/

/-- R2: a cycle of LO_IN (an idle step, notes/assumptions/2.md) adds (10^12 + y) / 10^7 ps to the counter, keeping
what lies below its resolution; in FAULT it adds nothing (R13); its edge comes at the monitor time that the free value
gives (notes/assumptions/3.md). R4: when no edge comes for 10 µs, that is a gap, at once: the command of the gap
waits, and the counter has not moved. Where a timer of monitor time runs out before the edge or the gap, the step
reaches that instant alone, and a gate that has ended is taken before any more time passes, so that neither an edge
nor a gap counts in a gate that ended before it. Ten million cycles at one steer value gain exactly 10^12 + y ps. -/
def Obligations.CyclesGainSteeredTime : Prop := (∀ (s : State) (rest : Nat), s.pending = [] → s.dueCommand = none →
    rest = min (Config.monitorNanos s.loCycles) 10000 - s.osc.quiet →
    ∃ t, step s = .next t ∧
      ((∃ m ∈ s.monitorTimers, m.ends < s.osc.now + rest) →
        ∃ m ∈ s.monitorTimers, (∀ x ∈ s.monitorTimers, m.ends ≤ x.ends) ∧ s.osc.now < m.ends ∧ t = { s with
          osc := { s.osc with now := m.ends, quiet := s.osc.quiet + (m.ends - s.osc.now) } }) ∧
      (s.osc.gateEnd < s.osc.now + rest →
        t.osc.now ≤ s.osc.gateEnd ∧ t.osc.gateEdges = s.osc.gateEdges ∧ t.pending = []) ∧
      ((∀ m ∈ s.monitorTimers, s.osc.now + rest ≤ m.ends) → Config.monitorNanos s.loCycles < 10000 →
        t.loCycles = s.loCycles + 1 ∧ t.pending = [] ∧
        t.osc = { s.osc with now := s.osc.now + rest, gateEdges := s.osc.gateEdges + 1, quiet := 0 } ∧
        (s.tb.state ≠ .fault → 0 ≤ 1000000000000 + s.tb.steer →
          t.ticks = (s.ticks + (1000000000000 + s.tb.steer).toNat * 65536) % tickSpan) ∧
        (s.tb.state = .fault → t.counter = s.counter ∧ t.residue = s.residue)) ∧
      ((∀ m ∈ s.monitorTimers, s.osc.now + rest ≤ m.ends) → 10000 ≤ Config.monitorNanos s.loCycles → t = { s with
        loCycles := s.loCycles + 1, osc := { s.osc with now := s.osc.now + rest, quiet := 0 }
        pending := [.loInGap Elapsed.none] }) ∧
      OnlyChanges [.counter, .residue, .secondOwed, .msOwed, .loCycles, .osc, .pending] s t) ∧
    (∀ s : State, s.pending = [] → s.osc.gateEnd ≤ s.osc.now →
      ∃ c, step s = .next { s with pending := [c] }) ∧
    ∀ s : State, s.tb.state ≠ .fault → s.counterInRange → 0 ≤ 1000000000000 + s.tb.steer →
      (State.cycleCounter^[10000000] s).counter =
        Reading.at ((s.counter.instant + (1000000000000 + s.tb.steer).toNat) % Config.siteSpan) s.counter.frac ∧
      (State.cycleCounter^[10000000] s).residue = s.residue

/-- R1, R3, R21, R87: a counter second boundary, reached by running, at which no edge of an FQ input waits to be
closed and no step is due: the next one, or the oldest that time has passed over and that is owed its command. The
counter reads the next second, or goes on from the reading that it had; at a minute the site minute index rises, up to
2^31 − 1; a leap whose effect second it is takes effect; otherwise the loop steer value joins the running minute.
R113, R115, R167: at a counter second boundary an anchor that is WAITING or RUNNING starts, waits or ends by the
second that the boundary opens, and its relatives with it; each entry that ends gives its owner a notice, the anchor's
first. Owed boundaries and the order of the work: notes/assumptions/4.md and 7.md. -/
def Obligations.SecondBoundaryReachesNextSecond : Prop :=
  (∀ (s : State) (next : Nat), next = (((s.counter.sec : Int) + 1 - s.secondOwed) % 2 ^ 48).toNat →
    s.tb.state ≠ .fault → (∀ i : InputIx, (s.fq[i]).lastEdge = none) → (∀ p ∈ s.tb.pendingStep, p.due ≠ next) →
    ∃ t, exec .counterSecondBoundary s = .next t ∧
      (s.secondOwed = 0 → t.counter = { sec := next, ps := 0, frac := 0 }) ∧
      (0 < s.secondOwed → s.counterInRange → t.counter = s.counter ∧ t.msOwed = s.msOwed) ∧
      t.secondOwed = s.secondOwed - 1 ∧
      t.tb.state = s.tb.state ∧ t.tb.pendingStep = s.tb.pendingStep ∧
      t.tb.minuteIndex = (if next % 60 = 0 then min 2147483647 (s.tb.minuteIndex + 1) else s.tb.minuteIndex) ∧
      (∀ l, s.tb.leap = some l → l.effect = next → t.tb.utcOffset = l.offset ∧ t.tb.leap = none) ∧
      ((∀ l ∈ s.tb.leap, l.effect ≠ next) → t.tb.utcOffset = s.tb.utcOffset ∧ t.tb.leap = s.tb.leap) ∧
      (next % 60 ≠ 0 →
        t.hold.acc.sum = s.hold.acc.sum + s.loop.y ∧ t.hold.acc.count = s.hold.acc.count + 1 ∧
          t.loop = s.loop ∧ t.tb.steer = s.tb.steer ∧ t.tb.grade = s.tb.grade ∧ t.hold.history = s.hold.history) ∧
      OnlyChanges [.counter, .secondOwed, .msOwed, .hold, .tb, .loop, .fq, .entries, .views, .alarms] s t) ∧
  ∀ (s : State) (next period offset : Nat) (start stop : Option Nat) (a : EntryIx) (e : Entry),
    next = (((s.counter.sec : Int) + 1 - s.secondOwed) % 2 ^ 48).toNat → s.tb.state ≠ .fault →
    (∀ i : InputIx, (s.fq[i]).lastEdge = none) → (∀ p ∈ s.tb.pendingStep, p.due ≠ next) → s.entries[a] = some e →
    e.fields.link = .anchor period offset start stop → e.state = .waiting ∨ e.state = .running →
    (∀ b : EntryIx, b ≠ a → ∀ x, s.entries[b] = some x → x.liveAnchor.isNone = true) →
    ∃ t, exec .counterSecondBoundary s = .next t ∧
      (∀ (i : EntryIx) (x : Entry), s.entries[i] = some x → i = a ∨ x.follows a = true →
        x.state = .waiting ∨ x.state = .running → t.entries[i] = some { x with
          state := if stop = some next then .ended else if (start.any fun v => next < v) = true then .waiting
            else .running }) ∧
      (∀ (i : EntryIx) (x : Entry), s.entries[i] = some x → (i ≠ a ∧ x.follows a = false) ∨ x.state = .idle ∨
        x.state = .ended → t.entries[i] = some x) ∧
      (∀ i : EntryIx, s.entries[i] = none → t.entries[i] = none) ∧
      ∀ p : Port, s.given t p .entryEnded
        (if stop = some next then
          (if e.owner = p then
            [{ kind := .entryEnded, sec := next, ns := 0, subject := a.val, old := e.state.code, new := 4 }]
            else []) ++
            (List.finRange 64).filterMap fun i =>
              match s.entries[i] with
              | some x =>
                if (x.state = .waiting ∨ x.state = .running) ∧ x.follows a = true ∧ x.owner = p then
                  some { kind := .entryEnded, sec := next, ns := 0, subject := i.val, old := x.state.code, new := 4 }
                else none
              | none => none
        else [])

/-- R78, R88: at a counter minute boundary, the closing minute makes a record when it opened on a LOCKED timebase that
stayed so and its index is greater than the newest one's; the new minute opens with the carried mark; the loop class
descends when the minute was held. Owed boundaries and the order of the work: notes/assumptions/4.md and 7.md. -/
def Obligations.MinuteBoundaryMakesRecord : Prop := ∀ (s : State) (next : Nat), next = (((s.counter.sec : Int) + 1 - s.secondOwed) % 2 ^ 48).toNat → next % 60 = 0 →
    s.tb.state ≠ .fault → (∀ i : InputIx, (s.fq[i]).lastEdge = none) → (∀ p ∈ s.tb.pendingStep, p.due ≠ next) →
    ∃ t, exec .counterSecondBoundary s = .next t ∧
      (s.hold.acc.locked = true → newerThanAll s.hold.history s.tb.minuteIndex = true →
        ∃ r, t.hold.history = (s.hold.history ++ [r]).drop (s.hold.history.length + 1 - 64) ∧
          r.index = s.tb.minuteIndex ∧
          r.mean = (s.hold.acc.sum + s.loop.y) / ((s.hold.acc.count + 1 : Nat) : Int) ∧
          r.samples = min 255 (s.hold.acc.count + 1) ∧ r.slot = slotCode s.sel.phase ∧ r.cls = s.loop.cls ∧
          r.disturbed = s.hold.acc.disturbed ∧ r.restored = false) ∧
      (s.hold.acc.locked = false ∨ newerThanAll s.hold.history s.tb.minuteIndex = false →
        t.hold.history = s.hold.history) ∧
      t.hold.acc.sum = 0 ∧ t.hold.acc.count = 0 ∧ t.hold.acc.least = none ∧ t.hold.acc.greatest = none ∧
      t.hold.acc.carried = false ∧ t.hold.acc.locked = decide (s.tb.state = .locked) ∧
      t.loop.minuteHeld = decide (s.tb.state = .locked) ∧
      (s.loop.minuteHeld = true → s.loop.cls < s.lp.trackingClass →
        t.loop.cls = s.loop.cls + 1 ∧ t.hold.acc.disturbed = true) ∧
      (s.loop.minuteHeld = false ∨ s.lp.trackingClass ≤ s.loop.cls →
        t.loop.cls = s.loop.cls ∧ t.hold.acc.disturbed = s.hold.acc.carried)

/-- R19, R34, R36, R39, R44, R68, R167: a pending step is applied at the boundary of its due second, here one that is
no minute boundary and at which no edge of an FQ input waits to be closed. The amount is added to the boundary's
reading, from which the counter goes on by the time that has passed since an owed boundary; the steering is untouched,
the step blank begins, the running minute is disturbed, the edges and samples held are dealt with, no opening second
begins at a step that leaves a second that is not whole, and every port is given the notice. How the reading runs on
from an owed boundary, the order of the work and the end of the blank: notes/assumptions/4.md, 7.md and 12.md. -/
def Obligations.StepIsAppliedAtItsSecond : Prop := ∀ (s : State) (next land : Nat) (p : PendingStep), next = (((s.counter.sec : Int) + 1 - s.secondOwed) % 2 ^ 48).toNat →
    land = (((next * 1000000000000 : Nat) + p.amount) % ((2 ^ 48 * 1000000000000 : Nat) : Int)).toNat →
    next % 60 ≠ 0 → s.tb.state ≠ .fault → (∀ i : InputIx, (s.fq[i]).lastEdge = none) →
    s.tb.pendingStep = some p → p.due = next →
    ∃ t, exec .counterSecondBoundary s = .next t ∧
      (s.secondOwed = 0 → t.counter.instant = land ∧ t.counter.frac = 0) ∧
      (0 < s.secondOwed → t.counter.frac = s.counter.frac ∧
        t.counter.instant =
          (land + (s.secondOwed - 1) * 1000000000000 + s.counter.ps) % (2 ^ 48 * 1000000000000)) ∧
      t.counter.ps < 1000000000000 ∧
      t.tb.pendingStep = none ∧ t.tb.state = s.tb.state ∧ t.tb.steer = s.tb.steer ∧
      t.tb.minuteIndex = s.tb.minuteIndex ∧ t.loop = s.loop ∧ t.hold.history = s.hold.history ∧
      t.hold.acc.disturbed = true ∧
      t.tb.blank = some
        { start := land
          length := (max (((if land % 1000000000000 = 0 then land / 1000000000000 + 1 else land / 1000000000000 + 2) *
            1000000000000 : Nat) - (land : Int)) (-p.amount)).toNat } ∧
      t.aligned = (s.aligned && p.origin ≠ .manual) ∧
      (∀ i : InputIx, (t.ta[i]).jumpRef = none ∧ (t.ta[i]).prevEdge = (s.ta[i]).prevEdge.map (moveInstant p.amount) ∧
        (t.fq[i]).origin = (s.fq[i]).origin.map (moveInstant p.amount) ∧ (t.fq[i]).skipCount = true ∧
        (p.amount % 1000000000000 ≠ 0 → (t.fq[i]).stage ≠ .opening)) ∧
      (∀ i : Slot, (t.refs[i]).pairSample = none ∧ (t.refs[i]).labelSample = none ∧
        (t.refs[i]).pairResult = (s.refs[i]).pairResult ∧ (t.refs[i]).state = (s.refs[i]).state) ∧
      (∀ x : Px, (t.px[x]).until_ = (s.px[x]).until_.map (moveInstant p.amount)) ∧
      (∀ q : Port, s.given t q .timeStepped
        [{ kind := .timeStepped, sec := land / 1000000000000, ns := land % 1000000000000 / 1000
           subject := p.origin.code, old := next, new := (land / 1000000000000 : Nat) }]) ∧
      OnlyChanges [.counter, .secondOwed, .msOwed, .hold, .tb, .ta, .fq, .aligned, .refs, .entries, .px, .sched, .drops,
        .views, .alarms] s t

/-- R117, R118, R120, R125, R136, R139, R140, R146: a counter millisecond boundary: the next one, or the oldest that
time has passed over and that is owed its command; one may be left with its timers alone, by a step application or the
return from FAULT. The drop timers count down; the window after the one that begins is planned to at most 24 units,
and the horizon of every target becomes its end plus the delay, or stays where it lies beyond that (the reading of
notes/assumptions/34.md). The owed marks: notes/assumptions/4.md. A timer that comes to 0 expires after this planning
(68.md). -/
def Obligations.MillisecondBoundaryPlansWindow : Prop := ∀ (s : State) (b : Nat), s.tb.state ≠ .fault → s.counterInRange →
    b = (((s.counter.instant / 1000000000 : Nat) + 1 - s.msOwed.boundaries : Int) * 1000000000 %
      (2 ^ 48 * 1000000000000)).toNat →
    ∃ t, exec .counterMillisecondBoundary s = .next t ∧
      t.msOwed = { boundaries := s.msOwed.boundaries - 1, planned := s.msOwed.planned - 1 } ∧
      (∀ d : DropIx, (t.drops[d]).annTimer = (s.drops[d]).annTimer.map (· - 1) ∧
        (t.drops[d]).probeTimer = (s.drops[d]).probeTimer.map (· - 1) ∧
        (t.drops[d]).offerTimer = (s.drops[d]).offerTimer.map (· - 1)) ∧
      (s.msOwed.boundaries = 0 → t.counter.frac = 0 ∧ t.counter.instant = b) ∧
      (s.msOwed.boundaries ≠ 0 → t.counter = s.counter ∧ t.secondOwed = s.secondOwed) ∧
      (s.msOwed.planned = 0 →
        t.sched.unitsNow = s.sched.unitsNext ∧ t.sched.unitsNext ≤ 24 ∧ t.sched.gradeUsed = s.tb.grade ∧
          (∀ d : DropIx, t.sched.itemsNow[d] = s.sched.itemsNext[d] ∧ t.sched.itemsNext[d] ≤ 4 ∧
            t.sched.dropHorizon[d] = wrapInstant
              (max (b + signedElapsed b s.sched.dropHorizon[d]) ((b + 2000000000 : Nat) + (s.drops[d]).delay))) ∧
          ∀ x : Px, t.sched.pxHorizon[x] = wrapInstant
            (max (b + signedElapsed b s.sched.pxHorizon[x]) (b + 2000000000 + (s.px[x]).compensation * 1000 : Nat))) ∧
      (s.msOwed.planned ≠ 0 → t.sched = s.sched ∧ t.entries = s.entries) ∧
      OnlyChanges [.counter, .secondOwed, .msOwed, .sched, .entries, .drops, .alarms, .views] s t

/-- R119, R120, R121, R122: what one planning adds to the plans, on top of what its window has spent. Its units are
one for each hard item, two for each full announcement and one for any other soft item, at most 24 in all; a drop gets
at most four items in all; nothing is placed in WARMUP, for a MARK whose drop is not SERVING, within the step blank,
or at a grade worse than the squelch level: the entry's own, or else its drop's profile's, or HOLD4 for a PULSE. R119,
R120, R121: a gathered hard instance is suppressed exactly for one of the six causes, each as the manual gives it; one
that is not is placed when a unit and, for a MARK, a place of its drop remain, and is skipped otherwise, which starts
the EMIT_OVERRUN hold. It is counted once. The step blank is half open (the model's reading, notes/assumptions/12.md).
-/
def Obligations.WindowBudgetHolds : Prop :=
  (∀ (s : State) (ahead : Nat) (spent : Budget), spent.units ≤ 24 → (∀ d : DropIx, spent.items[d] ≤ 4) →
    ∃ (hs : List HardItem) (ss : List SoftItem) (p : Planning), p = s.plan ahead spent ∧
    p.s.sched.hardPlan = s.sched.hardPlan ++ hs ∧ p.s.sched.softPlan = s.sched.softPlan ++ ss ∧
      p.budget.units = spent.units + hs.length + (ss.map SoftItem.units).sum ∧ p.budget.units ≤ 24 ∧
      (∀ d : DropIx, p.budget.items[d] = spent.items[d] + hardOf d hs + softOf d ss ∧ p.budget.items[d] ≤ 4) ∧
      ∀ h ∈ hs, s.tb.state ≠ .warmup ∧ s.tb.grade.code ≤ h.squelch.code ∧
        (∀ b, s.tb.blank = some b → b.length ≤ elapsed b.start h.due) ∧
        (∀ d : DropIx, h.target = .drop d → (s.drops[d]).state = .serving) ∧
        ∃ e, s.entries[h.entry] = some e ∧ e.fields.target = h.target ∧ (e.state = .waiting ∨ e.state = .running) ∧
          h.squelch = (match e.fields.squelch, h.target with
            | some g, _ => g
            | none, .drop d => (s.profiles[(s.drops[d]).profile]).squelch
            | none, .px _ => .hold4)) ∧
  ∀ (p : Planning) (g : Gathered) (level : Grade),
    level = (match g.fields.squelch, g.fields.target with
      | some x, _ => x
      | none, .drop d => (p.s.profiles[(p.s.drops[d]).profile]).squelch
      | none, .px _ => .hold4) →
    (p.s.suppressed p.start g = true ↔
      p.s.tb.state = .warmup ∨ (∃ d, g.fields.target = .drop d ∧ (p.s.drops[d]).state ≠ .serving) ∨
        level.code < p.s.tb.grade.code ∨
        (∃ b, p.s.tb.blank = some b ∧ elapsed b.start (wrapInstant g.due) < b.length) ∨
        (∃ d start message limit t1 maxRtt, g.fields.target = .drop d ∧
          (p.s.drops[d]).turn = .out start message limit t1 maxRtt ∧
          g.transmit < p.s.counter.instant + signedElapsed p.s.counter.instant start +
            (p.s.profiles[(p.s.drops[d]).profile]).turnLimit * 1000000) ∨
        g.transmit < p.start) ∧
    (p.s.suppressed p.start g = true →
      p.hard g = { p with s := p.s.changeEntry g.entry fun e =>
        { e with suppressed := min 4294967295 (e.suppressed + 1) } }) ∧
    (p.s.suppressed p.start g = false → p.budget.units < 24 →
      (∀ d, g.fields.target = .drop d → p.budget.items[d] < 4) →
      (p.hard g).budget.units = p.budget.units + 1 ∧
        (∀ d, g.fields.target = .drop d → (p.hard g).budget.items = p.budget.items.set d (p.budget.items[d] + 1)) ∧
        (∀ x, g.fields.target = .px x → (p.hard g).budget.items = p.budget.items) ∧
        (p.hard g).s = p.s.setSched { p.s.sched with hardPlan := p.s.sched.hardPlan ++
          [{ entry := g.entry, target := g.fields.target, due := wrapInstant g.due, transmit := wrapInstant g.transmit
             window := wrapInstant p.start / 1000000000, squelch := level, width := g.fields.width.getD 0 }] }) ∧
    (p.s.suppressed p.start g = false →
      24 ≤ p.budget.units ∨ (∃ d, g.fields.target = .drop d ∧ 4 ≤ p.budget.items[d]) →
      p.hard g = { p with
        s := (p.s.changeEntry g.entry fun e => { e with skipped := min 4294967295 (e.skipped + 1) }).setSched
          { p.s.sched with overrunHold := some (p.s.osc.now + 10000000000) } })

/-! ### The timebase -/

/-- R4, R14: a gate of the oscillator monitor ends. In GOOD a count out of range judges LOST, and the timebase enters
FAULT; in LOST a count in range of a gate without a gap raises the run, and the tenth judges GOOD, which takes the
timebase from FAULT to WARMUP with the warm-up timer loaded and y_free in force. The edges that time let pass beyond
the gate's end are those of the gates that follow (the model's choice, notes/assumptions/41.md). A gate end lets the
monitor time up to its end pass (notes/assumptions/5.md). -/
def Obligations.GateJudgesOscillator : Prop := ∀ (n : Nat) (s : State), ∃ t, exec (.monitorGateEnd n) s = .next t ∧
    t.osc.gateEnd = s.osc.gateEnd + 100000000 ∧ t.osc.gateEdges = 0 ∧ t.osc.gapInGate = false ∧
    t.osc.now = max s.osc.now s.osc.gateEnd ∧
    (s.osc.gateEnd ≤ s.osc.now → t.osc.passedEdges = min s.osc.aheadEdges 1000000 ∧
      t.osc.aheadEdges = s.osc.aheadEdges - 1000000) ∧
    (s.osc.judgement = .good → 999000 ≤ n ∧ n ≤ 1001000 → t.osc.judgement = .good ∧ t.tb = s.tb ∧
      t.osc.goodRun = s.osc.goodRun) ∧
    (s.osc.judgement = .good → ¬(999000 ≤ n ∧ n ≤ 1001000) →
      t.osc.judgement = .lost ∧ t.osc.goodRun = 0 ∧ t.tb.state = .fault) ∧
    (s.osc.judgement = .lost → ¬(999000 ≤ n ∧ n ≤ 1001000) ∨ s.osc.gapInGate = true →
      t.osc.judgement = .lost ∧ t.osc.goodRun = 0 ∧ t.tb = s.tb) ∧
    (s.osc.judgement = .lost → 999000 ≤ n ∧ n ≤ 1001000 → s.osc.gapInGate = false → s.osc.goodRun < 9 →
      t.osc.judgement = .lost ∧ t.osc.goodRun = s.osc.goodRun + 1 ∧ t.tb = s.tb) ∧
    (s.osc.judgement = .lost → 999000 ≤ n ∧ n ≤ 1001000 → s.osc.gapInGate = false → 9 ≤ s.osc.goodRun →
      t.osc.judgement = .good ∧ t.osc.goodRun = 0 ∧ t.counter = s.counter ∧
        (s.tb.state = .fault → t.tb.state = .warmup ∧ t.tb.traced = false ∧ t.tb.grade = .free ∧
          t.tb.steer = max (-s.lp.yMax) (min s.lp.yMax s.tb.yFree) ∧
          t.osc.warmup = some (t.osc.now + Config.warmupSeconds s.straps.warmSel * 1000000000)) ∧
        (s.tb.state ≠ .fault → t.tb = s.tb))

/-- R4, R13, R20, R68, R124, R125, R152: a gap in the edges of LO_IN, in GOOD, takes the timebase into FAULT from
whatever state it is in. What R13 lists is done, and what it keeps is kept; the inputs, the plans, the outputs and the
turns of the drops hold nothing more, and a joined drop is SEEKING. R16, R141, R167: every port is given the notices
of the state and, when it changes, of the grade, and the owner of a drop that of its move. In LOST a gap takes the run
back to 0. Elapsed time is the model's operand (notes/assumptions/1.md). The one re-evaluation of the entry: 38.md;
messages leaving: 36.md. -/
def Obligations.GapTakesPartToFault : Prop := (∀ (e : Elapsed) (s : State), s.osc.judgement = .good → s.tb.state ≠ .fault →
    ∃ t, exec (.loInGap e) s = .next t ∧ t.osc.judgement = .lost ∧ t.osc.goodRun = 0 ∧ t.osc.gapInGate = true ∧
      t.osc.warmup = none ∧ t.counter = (s.pass e).counter ∧ t.tb.state = .fault ∧ t.tb.grade = .free ∧
      t.tb.pendingStep = none ∧ t.tb.episode = none ∧ t.tb.heldGrade = none ∧ t.tb.traced = s.tb.traced ∧
      t.tb.yFree = s.tb.yFree ∧ t.tb.utcOffset = s.tb.utcOffset ∧ t.tb.leap = s.tb.leap ∧ t.tb.force = s.tb.force ∧
      t.tb.labelAdoption = s.tb.labelAdoption ∧ t.tb.steer = s.tb.steer ∧ t.lp = s.lp ∧
      t.loop.lockRun = 0 ∧ t.loop.lossRun = 0 ∧ t.hold.history = s.hold.history ∧ t.hold.staging = [] ∧
      t.aligned = false ∧
      (∀ q : Port, s.given t q .timebaseState
        ({ kind := .timebaseState, sec := (s.pass e).counter.sec, ns := (s.pass e).counter.ps / 1000, subject := 0
           old := s.tb.state.code, new := TbState.fault.code } ::
          if s.tb.grade = .free then [] else
            [{ kind := .timebaseState, sec := (s.pass e).counter.sec, ns := (s.pass e).counter.ps / 1000, subject := 1
               old := s.tb.grade.code, new := Grade.free.code }])) ∧
      (∀ i : InputIx, (t.ta[i]).period = none ∧ (t.ta[i]).prevEdge = none ∧ (t.fq[i]).origin = none) ∧
      (∀ i : Slot, (t.refs[i]).state = (s.refs[i]).state ∧ (t.refs[i]).score = (s.refs[i]).score ∧
        (t.refs[i]).pairSample = none ∧ (t.refs[i]).pairResult = none ∧ (t.refs[i]).labelSample = none) ∧
      (∀ k : Fin 64, (t.conflicts[k]).run = 0 ∧ (t.conflicts[k]).flag = false) ∧
      (∀ i : EntryIx, (t.entries[i]).map (·.state) = (s.entries[i]).map (·.state) ∧
        (t.entries[i]).map (·.fields) = (s.entries[i]).map (·.fields)) ∧
      (∀ x : Px, (t.px[x]).until_ = none) ∧ t.sched.hardPlan = [] ∧ t.sched.softPlan = [] ∧
      ∀ d : DropIx, (t.drops[d]).turn = .isIn ∧
        ((s.drops[d]).state = .calibrating ∨ (s.drops[d]).state = .serving → (t.drops[d]).state = .seeking) ∧
        ((s.drops[d]).state = .disabled ∨ (s.drops[d]).state = .seeking → (t.drops[d]).state = (s.drops[d]).state) ∧
        ∀ q : Port, (s.drops[d]).owner = some q → s.given t q .dropState ((List.finRange 8).filterMap fun x =>
          if (s.drops[x]).owner = some q ∧ ((s.drops[x]).state = .calibrating ∨ (s.drops[x]).state = .serving) then
            some { kind := .dropState, sec := (s.pass e).counter.sec, ns := (s.pass e).counter.ps / 1000
                   subject := x.val, old := (s.drops[x]).state.code, new := DropState.seeking.code }
          else none)) ∧
    ∀ (e : Elapsed) (s : State), s.osc.judgement = .lost → ∃ t, exec (.loInGap e) s = .next t ∧
      t.osc.judgement = .lost ∧ t.osc.goodRun = 0 ∧ t.osc.gapInGate = true ∧ t.tb = s.tb ∧
      (s.tb.state = .fault → t.counter = s.counter)

/-- R2, R8, R81: the warm-up timer runs out in WARMUP. y_free comes into force; then the timebase goes to ACQUIRING
when a phase reference is selected and the force is off, to ASSISTED when only an assist reference is to be had, and
stays in FREERUN otherwise. An expiry lets the time up to its timer pass (notes/assumptions/5.md). -/
def Obligations.WarmupExpiryFollowsSelection : Prop := ∀ (s : State) (d : Nat), s.tb.state = .warmup → s.osc.warmup = some d →
    ∃ t, exec .warmupExpiry s = .next t ∧ t.osc.warmup = none ∧ t.osc.now = max s.osc.now d ∧ t.tb.traced = false ∧
      t.tb.steer = max (-s.lp.yMax) (min s.lp.yMax s.tb.yFree) ∧
      (s.sel.phase.isSome = true ∧ s.tb.force = false → t.tb.state = .acquiring ∧ t.tb.heldGrade = some .free ∧
        t.tb.grade = .free ∧ t.loop.cls = 0 ∧ t.loop.lockRun = 0 ∧ t.loop.y = t.tb.steer ∧
        t.loop.integ = t.tb.steer * 65536) ∧
      (s.sel.phase = none ∨ s.tb.force = true → s.sel.assist.isSome = true → s.tb.episode = none →
        t.tb.state = .assisted ∧ t.tb.episode = some .untraced ∧ t.tb.grade = .free ∧ t.loop.cls = s.loop.cls ∧
          t.loop.y = t.tb.steer ∧ t.loop.integ = t.tb.steer * 65536 ∧ t.loop.phi0 = none) ∧
      (s.sel.phase = none ∨ s.tb.force = true → s.sel.assist = none →
        t.tb.state = .freerun ∧ t.tb.grade = .free ∧ t.loop.y = s.loop.y ∧ t.loop.integ = s.loop.integ) ∧
      OnlyChanges [.osc, .tb, .loop, .hold, .alarms, .views] s t

/-! ### The discipline loop -/

/-- R42, R66, R73, R75, R77, R80: an OFFSET_REPORT that is GOOD, of the slot that the selection force holds selected,
in LOCKED with nothing pending. One update is made with u = −e at the class in force, with the gains of R77; the steer
value is in force at once, and a third update running above the lock-loss threshold goes back to ACQUIRING. Bodies and
replies: notes/assumptions/8.md to 10.md. -/
def Obligations.ReportSteersLockedLoop : Prop := ∀ (p : Port) (s : State) (r : Request) (q : PortRec) (v : OffsetReportParts) (u integ raw y : Int),
    s.ready p 32 r q → parseOffsetReport r.body = some v → v.bad = false → v.noise ≤ (s.ofs[p]).params.noiseLimit →
    v.quality ≤ (s.ofs[p]).params.minQuality → (s.refs[Slot.ofPort p]).enabled = true →
    (s.refs[Slot.ofPort p]).state = .qualified → s.sel.force = some (Slot.ofPort p) →
    s.sel.phase = some (Slot.ofPort p) → s.tb.state = .locked → s.tb.force = false → s.tb.pendingStep = none →
    s.loop.cls ≤ 6 → u = -v.e →
    integ = max (-(s.lp.yMax * 65536)) (min (s.lp.yMax * 65536)
      (s.loop.integ + u * [8192, 2048, 512, 128, 32, 8, 2].getD s.loop.cls 0)) →
    raw = integ / 65536 + u * [32768, 16384, 8192, 4096, 2048, 1024, 512].getD s.loop.cls 0 / 65536 →
    y = max (-s.lp.yMax) (min s.lp.yMax raw) →
    ∃ t, exec (.offsetReport p) s = .next t ∧ s.answered t p r q .done [] ∧ t.loop.integ = integ ∧ t.loop.y = y ∧
      t.tb.steer = y ∧ t.loop.cls = s.loop.cls ∧ t.loop.lastU = some u ∧ t.loop.freqLimit = decide (y ≠ raw) ∧
      (u.natAbs ≤ s.lp.lossThreshold * 1000 → t.loop.lossRun = 0 ∧ t.tb.state = .locked) ∧
      (s.lp.lossThreshold * 1000 < u.natAbs → s.loop.lossRun < 2 →
        t.loop.lossRun = s.loop.lossRun + 1 ∧ t.tb.state = .locked) ∧
      (s.lp.lossThreshold * 1000 < u.natAbs → 2 ≤ s.loop.lossRun →
        t.loop.lossRun = 0 ∧ t.tb.state = .acquiring ∧ t.tb.heldGrade = some .lock ∧ t.tb.grade = .lock ∧
          t.loop.lockRun = 0) ∧
      t.sel.phase = s.sel.phase

/-- R18, R34, R73, R74, R75, R79: the same report in ACQUIRING, its whole-second part 0. When the step decision asks,
a pending step of +u is made and the loop is not updated; the label comparison then brings its amount to whole seconds
of the reading as it will stand. Otherwise one update is made, and the eighth small enough locks. Bodies and replies:
notes/assumptions/8.md to 10.md. -/
def Obligations.ReportAcquiresWithLoop : Prop := ∀ (p : Port) (s : State) (r : Request) (q : PortRec) (v : OffsetReportParts) (u integ raw y : Int) (asked : Prop),
    s.counterInRange → s.ready p 32 r q → parseOffsetReport r.body = some v → v.bad = false → v.whole = 0 →
    v.noise ≤ (s.ofs[p]).params.noiseLimit →
    v.quality ≤ (s.ofs[p]).params.minQuality → (s.refs[Slot.ofPort p]).enabled = true →
    (s.refs[Slot.ofPort p]).state = .qualified → s.sel.force = some (Slot.ofPort p) →
    s.sel.phase = some (Slot.ofPort p) → s.tb.state = .acquiring → s.tb.force = false → s.tb.pendingStep = none →
    s.loop.cls ≤ 6 → u = -v.e →
    integ = max (-(s.lp.yMax * 65536)) (min (s.lp.yMax * 65536)
      (s.loop.integ + u * [8192, 2048, 512, 128, 32, 8, 2].getD s.loop.cls 0)) →
    raw = integ / 65536 + u * [32768, 16384, 8192, 4096, 2048, 1024, 512].getD s.loop.cls 0 / 65536 →
    y = max (-s.lp.yMax) (min s.lp.yMax raw) →
    (asked ↔ s.lp.stepThreshold < u.natAbs ∧
      (s.lp.stepPolicy = .always ∨ s.lp.stepPolicy = .firstOnly ∧ s.loop.firstAcq = true)) →
    ∃ t, exec (.offsetReport p) s = .next t ∧ s.answered t p r q .done [] ∧ t.loop.cls = s.loop.cls ∧
      (asked → t.tb.state = .acquiring ∧ t.loop.y = s.loop.y ∧ t.loop.integ = s.loop.integ ∧ t.loop.lockRun = 0 ∧
        t.tb.steer = s.tb.steer ∧
        t.tb.pendingStep = some
          { amount := u + ((nearestSecond s.counter.instant : Int) -
              nearestSecond ((s.counter.instant + u) % (2 ^ 48 * 1000000000000)).toNat) * 1000000000000
            origin := .automatic
            due := (if s.counter.ps * 65536 + s.counter.frac ≤ 990000000000 * 65536 then s.counter.sec + 1
              else s.counter.sec + 2) % 2 ^ 48 }) ∧
      (¬asked → t.loop.integ = integ ∧ t.loop.y = y ∧ t.tb.steer = y ∧ t.loop.lastU = some u ∧
        t.loop.freqLimit = decide (y ≠ raw) ∧ t.tb.pendingStep = none ∧
        (s.lp.lockThreshold * 1000 ≤ u.natAbs →
          t.loop.lockRun = 0 ∧ t.tb.state = .acquiring ∧ t.aligned = true) ∧
        (u.natAbs < s.lp.lockThreshold * 1000 → s.loop.lockRun < 7 →
          t.loop.lockRun = s.loop.lockRun + 1 ∧ t.tb.state = .acquiring ∧ t.aligned = true) ∧
        (u.natAbs < s.lp.lockThreshold * 1000 → 7 ≤ s.loop.lockRun →
          t.loop.lockRun = 0 ∧ t.tb.state = .locked ∧ t.tb.grade = .lock ∧ t.tb.traced = true ∧
            t.tb.heldGrade = none ∧ t.loop.firstAcq = false))

/-- R82: a GOOD measurement of the assist reference. In ASSISTED the first gives the phase origin, and each later one
makes an update at the assist class with u the negative of its distance from that origin; any other state uses none.
R36, R37, R38, R39: a counter second boundary closes the FQ second of one input that holds an edge; no minute closes,
no step is due, and the other input holds no edge. A running input is measured: φ, the frequency over at most 16
periods, the count and the causes. An opening second takes its last edge as the origin. The order of the work of one
boundary: notes/assumptions/7.md. -/
def Obligations.FrequencyInputIsMeasuredAndSteers : Prop :=
  (∀ (s : State) (m : Measurement) (phi : Int), s.sel.phase ≠ some m.slot → s.sel.assist = some m.slot →
    m.phi = some phi →
    (s.tb.state = .assisted → m.causes = [] → s.loop.phi0 = none →
      s.handOn m = s.setLoop { s.loop with phi0 := some phi }) ∧
    (∀ phi0, s.tb.state = .assisted → m.causes = [] → s.loop.phi0 = some phi0 → s.lp.assistClass ≤ 6 →
      ∀ integ, integ = max (-(s.lp.yMax * 65536)) (min (s.lp.yMax * 65536)
        (s.loop.integ + (phi0 - phi) * [8192, 2048, 512, 128, 32, 8, 2].getD s.lp.assistClass 0)) →
      ∀ raw, raw = integ / 65536 +
        (phi0 - phi) * [32768, 16384, 8192, 4096, 2048, 1024, 512].getD s.lp.assistClass 0 / 65536 →
      ∀ y, y = max (-s.lp.yMax) (min s.lp.yMax raw) →
      (s.handOn m).loop = { s.loop with integ := integ, y := y, freqLimit := decide (y ≠ raw) } ∧
        (s.handOn m).tb = { s.tb with steer := y } ∧ OnlyChanges [.loop, .tb, .hold] s (s.handOn m)) ∧
    (s.tb.state ≠ .assisted ∨ m.causes ≠ [] → s.handOn m = s)) ∧
  ∀ (i j : InputIx) (s : State) (x : FqInput) (last next : Nat), i ≠ j → x = s.fq[i] → x.lastEdge = some last →
    (s.fq[j]).lastEdge = none → (s.refs[Slot.ofFq i]).enabled = true → s.tb.state ≠ .fault →
    next = (((s.counter.sec : Int) + 1 - s.secondOwed) % 2 ^ 48).toNat → next % 60 ≠ 0 → (∀ p ∈ s.tb.pendingStep, p.due ≠ next) →
    ∃ t, exec .counterSecondBoundary s = .next t ∧
      (x.stage = .opening → t.fq[i] = { x with
        stage := .running, origin := some last, total := 0, periods := 0, phis := [0], active := true, count := 0
        lastEdge := none, prevCount := some x.count, skipCount := false, renominal := false }) ∧
      ∀ origin, x.stage = .running → x.origin = some origin → ∀ n, n = min (x.periods + 1) 16 →
        ∀ phi : Int, phi = (elapsed origin last : Int) - (x.total * 1000000000000 / x.params.nominal : Nat) →
        ∀ f : Int, f = (phi - (x.phis ++ [phi]).getD (x.phis.length - n) 0) / n →
        t.fq[i] = { x with
          periods := x.periods + 1, phis := (x.phis ++ [phi]).drop (x.phis.length + 1 - 17), count := 0
          lastEdge := none, prevCount := some x.count, skipCount := false } ∧
          ∃ m, (t.refs[Slot.ofFq i]).latest = some m ∧ m.phi = some phi ∧ m.freq = some f ∧ m.count = some x.count ∧
            (Cause.freqWindow ∈ m.causes ↔ x.params.accept < (f.natAbs : Int)) ∧
            (Cause.countStep ∈ m.causes ↔ x.skipCount = false ∧
              ∃ c, x.prevCount = some c ∧ 1 < ((x.count : Int) - c).natAbs) ∧
            ∀ c ∈ m.causes, c = .freqWindow ∨ c = .countStep

/-! ### Reference inputs -/

/-- R41, R42, R43, R50: an OFFSET_REPORT of an enabled slot in range is accepted, outside FAULT: the activity timer is
loaded with three intervals, and its measurement is the record's latest and is counted GOOD or BAD. In FAULT nothing
is measured. Bodies and replies: notes/assumptions/8.md to 10.md. -/
def Obligations.OffsetReportIsMeasured : Prop := ∀ (p : Port) (s : State) (r : Request) (q : PortRec) (v : OffsetReportParts) (c : List Cause),
    s.ready p 32 r q → parseOffsetReport r.body = some v → v.bad = false → (s.refs[Slot.ofPort p]).enabled = true →
    (s.refs[Slot.ofPort p]).state ≠ .disabled → (s.ofs[p]).active = false ∨ (s.refs[Slot.ofPort p]).state ≠ .absent →
    c = (if (s.ofs[p]).params.noiseLimit < v.noise then [Cause.noise] else []) ++
      (if (s.ofs[p]).params.minQuality < v.quality then [Cause.quality] else []) →
    ∃ t, exec (.offsetReport p) s = .next t ∧ s.answered t p r q .done [] ∧ (t.ofs[p]).active = true ∧
      (t.ofs[p]).timer = some (s.osc.now + 3 * v.interval.toNat * 1000000000) ∧
      (t.ofs[p]).params = (s.ofs[p]).params ∧ (∀ x : Port, x ≠ p → t.ofs[x] = s.ofs[x]) ∧
      (s.tb.state = .fault → (t.refs[Slot.ofPort p]).latest = (s.refs[Slot.ofPort p]).latest) ∧
      (s.tb.state ≠ .fault → (t.refs[Slot.ofPort p]).latest = some
        { slot := Slot.ofPort p, time := s.counter, causes := c, e := some v.e, u := some (-v.e)
          labelSec := some (((nearestSecond s.counter.instant : Int) + v.whole) % 2 ^ 48).toNat
          quality := some v.quality.toNat, status := none, utc := none, leap := none, leapSec := none
          straddles := false, phi := none, freq := none, count := none, noise := some v.noise.toNat
          interval := some v.interval.toNat } ∧
        (c = [] → (t.refs[Slot.ofPort p]).goodCount = min 4294967295 ((s.refs[Slot.ofPort p]).goodCount + 1) ∧
          (t.refs[Slot.ofPort p]).badCount = (s.refs[Slot.ofPort p]).badCount ∧
          (t.refs[Slot.ofPort p]).rankQuality = v.quality.toNat) ∧
        (c ≠ [] → (t.refs[Slot.ofPort p]).badCount = min 4294967295 ((s.refs[Slot.ofPort p]).badCount + 1) ∧
          (t.refs[Slot.ofPort p]).goodCount = (s.refs[Slot.ofPort p]).goodCount ∧
          (t.refs[Slot.ofPort p]).streak = 0)) ∧
      OnlyChanges (touches (.offsetReport p)) s t

/-- R27, R35, R45: an active edge of a TA input. On an input whose record is not enabled it does nothing; in FAULT it
restarts the activity timer alone; with no period held it opens one, at the reading rounded down to 125 ps; within the
glitch guard of a period it is a glitch of that period, or, once that is judged, of the next; after the guard of a
judged period it opens the next. `u` is the state at the edge (elapsed time: notes/assumptions/1.md). R28, R30: the
first inactive edge after the period edge gives the width (taken unrounded, notes/assumptions/31.md); with the label
held it judges the period. Where no period waits for its width, or the input is not enabled, or in FAULT, it does
nothing. -/
def Obligations.TaEdgesGivePeriodAndWidth : Prop :=
  (∀ (e : Elapsed) (i : InputIx) (s u : State), u = s.pass e →
    ∃ t, exec (.taActiveEdge e i) s = .next t ∧ t.counter = u.counter ∧ t.osc = u.osc ∧
      ((s.refs[Slot.ofTa i]).enabled = false → t.ta = s.ta ∧ t.refs = s.refs) ∧
      ((s.refs[Slot.ofTa i]).enabled = true → (t.ta[i]).active = true ∧
        (t.ta[i]).timer = some (u.osc.now + 3000000000) ∧
        (s.tb.state = .fault → (t.ta[i]).period = (s.ta[i]).period ∧ (t.ta[i]).carried = (s.ta[i]).carried) ∧
        (s.tb.state ≠ .fault → (s.ta[i]).period = none → (t.ta[i]).carried = false ∧
          (t.ta[i]).period = some
            { edge := u.counter.instant / 125 * 125, straddles := false, glitch := (s.ta[i]).carried, width := none
              label := none, judged := false }) ∧
        ∀ x, s.tb.state ≠ .fault → (s.ta[i]).period = some x →
          (elapsed x.edge u.counter.instant < 1000000000000 - (s.ta[i]).params.window * 1000000 →
            (x.judged = false → (t.ta[i]).period = some { x with glitch := true } ∧
              (t.ta[i]).carried = (s.ta[i]).carried) ∧
            (x.judged = true → (t.ta[i]).period = some x ∧ (t.ta[i]).carried = true)) ∧
          (1000000000000 - (s.ta[i]).params.window * 1000000 ≤ elapsed x.edge u.counter.instant → x.judged = true →
            (t.ta[i]).carried = false ∧
            (t.ta[i]).period = some
              { edge := u.counter.instant / 125 * 125, straddles := false, glitch := (s.ta[i]).carried, width := none
                label := none, judged := false })) ∧
      OnlyChanges (touches (.taActiveEdge e i)) s t) ∧
  ∀ (e : Elapsed) (i : InputIx) (s u : State), u = s.pass e →
    ∃ t, exec (.taTrailingEdge e i) s = .next t ∧ t.counter = u.counter ∧ t.osc = u.osc ∧
      (∀ x, (s.refs[Slot.ofTa i]).enabled = true → s.tb.state ≠ .fault → (s.ta[i]).period = some x → x.width = none →
        x.judged = false →
        (x.label = none → t.ta[i] = { s.ta[i] with
          period := some { x with width := some (elapsed x.edge u.counter.instant) } } ∧ t.refs = s.refs) ∧
        (x.label ≠ none → (t.ta[i]).prevEdge = some x.edge ∧ (t.ta[i]).period = some
          { x with width := some (elapsed x.edge u.counter.instant), judged := true })) ∧
      ((s.refs[Slot.ofTa i]).enabled = false ∨ s.tb.state = .fault ∨ (s.ta[i]).period = none ∨
        (∃ x, (s.ta[i]).period = some x ∧ (x.width ≠ none ∨ x.judged = true)) → t.ta = s.ta ∧ t.refs = s.refs) ∧
      OnlyChanges (touches (.taTrailingEdge e i)) s t

/-- R29, R192: bytes on a label line of an enabled input. A start byte begins a message; the nineteenth byte after it
completes one, which goes to an open period that has no label yet and whose label window holds the reading, or else is
stray; a framing error or a gap discards what is held. A message made as R192 gives it is read back as its fields.
Elapsed time is the model's operand (notes/assumptions/1.md). A completion may carry several bytes (33.md). -/
def Obligations.LabelsAreReceived : Prop := (∀ (e : Elapsed) (i : InputIx) (s : State), (s.refs[Slot.ofTa i]).enabled = true → (s.ta[i]).rx = none →
    (s.ta[i]).rxDeadline = none →
    ∃ t, exec (.labelStartByte e i) s = .next t ∧ t.ta[i] = { s.ta[i] with
      rx := some [], rxDeadline := some ((s.pass e).osc.now + 2000000) }) ∧
    (∀ (e : Elapsed) (i : InputIx) (s u : State) (held : List Byte) (b : Byte) (d : Nat), u = s.pass e →
      (s.refs[Slot.ofTa i]).enabled = true → (s.ta[i]).rx = some held → held.length = 18 →
      (s.ta[i]).rxDeadline = some d → u.osc.now ≤ d →
      ∃ t, exec (.taLabelComplete e i [b]) s = .next t ∧ (t.ta[i]).rx = none ∧ (t.ta[i]).rxDeadline = none ∧
        (∀ x, s.tb.state ≠ .fault → (s.ta[i]).period = some x → x.judged = false → x.label = none →
          10000000000 ≤ elapsed x.edge u.counter.instant → elapsed x.edge u.counter.instant ≤ 900000000000 →
          (t.ta[i]).stray = (s.ta[i]).stray ∧ (t.ta[i]).period = some
            { x with label := some (readLabel (held ++ [b])), judged := x.width.isSome }) ∧
        ((s.ta[i]).period = none ∨ s.tb.state = .fault ∨ (∃ x, (s.ta[i]).period = some x ∧
            (x.judged = true ∨ x.label ≠ none ∨ elapsed x.edge u.counter.instant < 10000000000 ∨
              900000000000 < elapsed x.edge u.counter.instant)) →
          (t.ta[i]).stray = min 65535 ((s.ta[i]).stray + 1) ∧ (t.ta[i]).period = (s.ta[i]).period ∧ t.refs = s.refs)) ∧
    (∀ (e : Elapsed) (i : InputIx) (s : State), ∃ t, exec (.labelFramingError e i) s = .next t ∧
      t.ta[i] = { s.ta[i] with rx := none, rxDeadline := none }) ∧
    (∀ (i : InputIx) (s : State) (d : Nat), (s.ta[i]).rxDeadline = some d → ∃ t, exec (.labelByteGap i) s = .next t ∧
      t.ta[i] = { s.ta[i] with rx := none, rxDeadline := none } ∧ t.osc.now = max s.osc.now d ∧
      OnlyChanges [.osc, .ta] s t) ∧
    ∀ l : TaLabel, l.sec < 2 ^ 48 → l.quality ≤ 15 → -32768 ≤ l.utc → l.utc ≤ 32767 → l.leapSec < 2 ^ 48 →
      readLabel (withCheck (beBytes 6 l.sec ++ beBytes 1 l.status.code ++ beBytes 1 l.quality ++ beInt 2 l.utc ++
        beBytes 1 l.leap.code ++ beBytes 6 l.leapSec)) = .passed l

/-- R31, R32: the causes for which a TA period is BAD, and its time error. The period is GOOD exactly when the
interval from the previous edge and the width are in range, no glitch fell in it, and its label is there, passed its
check, names the expected second (once aligned), reports a fix, and its time error has not jumped. R27, R30, R31, R33,
R66: the label window closes on an open period 900 ms after its edge: the period is judged on what it holds, and its
measurement is the latest of the record; the jump reference follows R33. The glitch guard then ends, and the input
holds no period. A close lets the time up to its instant pass (notes/assumptions/5.md). -/
def Obligations.TaPeriodIsJudgedAtItsWindow : Prop :=
  ((∀ (s : State) (x : TaInput) (p : TaPeriod), s.taCauses x p = [] ↔
    (∀ e, x.prevEdge = some e → ((elapsed e p.edge : Int) - 1000000000000).natAbs ≤ x.params.window * 1000000) ∧
      (∃ w, p.width = some w ∧ 1000000 ≤ w ∧ w ≤ 900000000000) ∧ p.glitch = false ∧
      (∃ l, p.label = some (.passed l) ∧ l.status ≠ .noFix ∧ (s.aligned = true → l.sec = s.expectedSecond p.edge)) ∧
      ∀ j, x.jumpRef = some j → (x.timeError p.edge - j).natAbs ≤ x.params.jumpLimit * 1000) ∧
    (∀ (x : TaInput) (edge : Nat), (edge % 1000000000000 < 500000000000 →
        x.timeError edge = ((edge % 1000000000000 : Nat) : Int) - x.params.compensation) ∧
      (500000000000 ≤ edge % 1000000000000 →
        x.timeError edge = ((edge % 1000000000000 : Nat) : Int) - 1000000000000 - x.params.compensation)) ∧
    ∀ (s : State) (edge : Nat), s.expectedSecond edge =
      ((((edge : Int) + s.tb.pendingAmount) % (2 ^ 48 * 1000000000000)).toNat + 500000000000) / 1000000000000 % 2 ^ 48) ∧
  (∀ (i : InputIx) (s : State) (x : TaPeriod), (s.ta[i]).period = some x → x.judged = false →
    (s.refs[Slot.ofTa i]).enabled = true →
    ∃ t, exec (.taLabelWindowClose i) s = .next t ∧ (t.ta[i]).period = some { x with judged := true } ∧
      (t.ta[i]).prevEdge = some x.edge ∧
      (∃ m, (t.refs[Slot.ofTa i]).latest = some m ∧ m.slot = Slot.ofTa i ∧ m.causes = s.taCauses s.ta[i] x ∧
        m.e = some ((s.ta[i]).timeError x.edge) ∧ m.u = some (-(s.ta[i]).timeError x.edge) ∧
        m.straddles = x.straddles) ∧
      (s.taCauses s.ta[i] x = [] →
        (t.ta[i]).jumpRef = some ((s.ta[i]).timeError x.edge) ∧ (t.ta[i]).jumpRun = 0) ∧
      (s.taCauses s.ta[i] x = [.jump] → (s.ta[i]).jumpRun = 3 → (t.ta[i]).jumpRef = none ∧ (t.ta[i]).jumpRun = 0) ∧
      (s.taCauses s.ta[i] x = [.jump] → (s.ta[i]).jumpRun < 3 →
        (t.ta[i]).jumpRef = (s.ta[i]).jumpRef ∧ (t.ta[i]).jumpRun = (s.ta[i]).jumpRun + 1) ∧
      (s.tb.state ≠ .fault → s.counterInRange → x.edge < 2 ^ 48 * 1000000000000 →
        elapsed x.edge s.counter.instant ≤ 900000000000 →
        t.counter.instant = (x.edge + 900000000000) % (2 ^ 48 * 1000000000000))) ∧
    ∀ (i : InputIx) (s : State) (x : TaPeriod), (s.ta[i]).period = some x → x.judged = true →
      ∃ t, exec (.taGlitchGuardEnd i) s = .next t ∧ t.ta[i] = { s.ta[i] with period := none } ∧ t.refs = s.refs ∧
        OnlyChanges [.counter, .secondOwed, .msOwed, .ta, .alarms, .views] s t

/-- R33, R35, R40, R43, R51: the activity timer of an active input or slot runs out. The input holds nothing more, and
a record in QUALIFYING, QUALIFIED or HOLDOFF goes to ABSENT with its score kept. An expiry lets the time up to its
timer pass (notes/assumptions/5.md). -/
def Obligations.ActivityTimeoutTakesRecordToAbsent : Prop := ∀ (s : State) (d : Nat) (c : Instr) (slot : Slot),
    ((∃ i, c = .taActivityTimeout i ∧ slot = Slot.ofTa i ∧ (s.ta[i]).timer = some d ∧ (s.ta[i]).active = true) ∨
      (∃ i, c = .fqActivityTimeout i ∧ slot = Slot.ofFq i ∧ (s.fq[i]).timer = some d ∧ (s.fq[i]).active = true) ∨
      ∃ p, c = .ofActivityTimeout p ∧ slot = Slot.ofPort p ∧ (s.ofs[p]).timer = some d ∧ (s.ofs[p]).active = true) →
    ∃ t, exec c s = .next t ∧ t.osc.now = max s.osc.now d ∧
      (t.refs[slot]).score = (s.refs[slot]).score ∧
      ((s.refs[slot]).state ≠ .disabled → (t.refs[slot]).state = .absent) ∧
      ((s.refs[slot]).state = .disabled → (t.refs[slot]).state = .disabled) ∧
      ((s.refs[slot]).state ≠ .disabled ∧ (s.refs[slot]).state ≠ .absent →
        (t.refs[slot]).streak = 0 ∧ (t.refs[slot]).holdoff = none ∧ (t.refs[slot]).qualifiedSince = none) ∧
      (∀ j : Slot, j ≠ slot → (t.refs[j]).state = (s.refs[j]).state ∧ (t.refs[j]).score = (s.refs[j]).score) ∧
      (∀ i, c = .taActivityTimeout i → (t.ta[i]).active = false ∧ (t.ta[i]).timer = none ∧ (t.ta[i]).period = none ∧
        (t.ta[i]).prevEdge = none ∧ (t.ta[i]).jumpRef = none ∧ (t.ta[i]).params = (s.ta[i]).params) ∧
      (∀ i, c = .fqActivityTimeout i → (t.fq[i]).active = false ∧ (t.fq[i]).timer = none ∧ (t.fq[i]).stage = .lost ∧
        (t.fq[i]).origin = none ∧ (t.fq[i]).phis = [] ∧ (t.fq[i]).params = (s.fq[i]).params) ∧
      ∀ p, c = .ofActivityTimeout p → (t.ofs[p]).active = false ∧ (t.ofs[p]).timer = none ∧
        (t.ofs[p]).params = (s.ofs[p]).params

/-- R36, R40, R45: edges of an FQ input, the last of them at the reading that the passed time reaches. One command
carries a number of edges (notes/assumptions/11.md); elapsed time is the model's operand (notes/assumptions/1.md). -/
def Obligations.FqEdgesAreCounted : Prop := ∀ (e : Elapsed) (i : InputIx) (n : Nat) (s u : State), u = s.pass e → 0 < n →
    ∃ t, exec (.fqEdge e i n) s = .next t ∧ t.counter = u.counter ∧ t.osc = u.osc ∧
      ((s.refs[Slot.ofFq i]).enabled = false → t.fq = s.fq) ∧
      ((s.refs[Slot.ofFq i]).enabled = true → (t.fq[i]).timer = some (u.osc.now + 1000000000) ∧
        (t.fq[i]).params = (s.fq[i]).params ∧ (t.fq[i]).origin = (s.fq[i]).origin ∧
        (t.fq[i]).phis = (s.fq[i]).phis ∧
        (s.tb.state = .fault → (t.fq[i]).stage = (s.fq[i]).stage ∧ (t.fq[i]).count = (s.fq[i]).count) ∧
        (s.tb.state ≠ .fault →
          ((s.fq[i]).stage = .lost → (t.fq[i]).stage = .waiting ∧ (t.fq[i]).count = (s.fq[i]).count) ∧
          ((s.fq[i]).stage = .waiting → (t.fq[i]).stage = .waiting ∧ (t.fq[i]).count = (s.fq[i]).count) ∧
          ((s.fq[i]).stage = .opening ∨ (s.fq[i]).stage = .running → (t.fq[i]).stage = (s.fq[i]).stage ∧
            (t.fq[i]).count = (s.fq[i]).count + n ∧ (t.fq[i]).lastEdge = some (u.counter.instant / 125 * 125)) ∧
          ((s.fq[i]).stage = .opening → (t.fq[i]).total = (s.fq[i]).total) ∧
          ((s.fq[i]).stage = .running → (t.fq[i]).total = (s.fq[i]).total + n))) ∧
      OnlyChanges (.fq :: Field.elapsed) s t

/-! ### Qualification and selection -/

/-- R50, R52, R53, R54: a measurement at the record of its slot. A GOOD one takes 1 off the score, a BAD one adds 4;
the streak, the counts and the rank quality follow; QUALIFYING is left when the score is 0 and the streak long enough,
and QUALIFIED for HOLDOFF when the score reaches the threshold. A DISABLED or ABSENT record is not scored. -/
def Obligations.MeasurementMovesScore : Prop := ∀ (s : State) (m : Measurement) (r : RefRecord), r = s.refs[m.slot] → r.score ≤ 32 →
    (((s.score m).refs[m.slot]).latest = some m) ∧
    (∀ j : Slot, j ≠ m.slot → (s.score m).refs[j] = s.refs[j]) ∧ OnlyChanges [.refs, .conflicts] s (s.score m) ∧
    (r.state = .disabled ∨ r.state = .absent → (s.score m).refs[m.slot] = { r with latest := some m }) ∧
    (r.state ≠ .disabled → r.state ≠ .absent → m.causes = [] →
      ((s.score m).refs[m.slot]).score = r.score - 1 ∧
        ((s.score m).refs[m.slot]).streak = min 65535 (r.streak + 1) ∧
        ((s.score m).refs[m.slot]).goodCount = min 4294967295 (r.goodCount + 1) ∧
        ((s.score m).refs[m.slot]).badCount = r.badCount ∧
        ((s.score m).refs[m.slot]).rankQuality = m.quality.getD r.rankQuality ∧
        ((s.score m).refs[m.slot]).state =
          (if r.state = .qualifying ∧ r.score ≤ 1 ∧ r.qualifyTime ≤ min 65535 (r.streak + 1) then .qualified
            else r.state)) ∧
    (r.state ≠ .disabled → r.state ≠ .absent → m.causes ≠ [] →
      ((s.score m).refs[m.slot]).score = min 32 (r.score + 4) ∧ ((s.score m).refs[m.slot]).streak = 0 ∧
        ((s.score m).refs[m.slot]).badCount = min 4294967295 (r.badCount + 1) ∧
        ((s.score m).refs[m.slot]).goodCount = r.goodCount ∧
        ((s.score m).refs[m.slot]).rankQuality = r.rankQuality ∧
        (r.state ≠ .qualified ∨ min 32 (r.score + 4) < r.threshold →
          ((s.score m).refs[m.slot]).state = r.state ∧ ((s.score m).refs[m.slot]).k = r.k) ∧
        (∀ t, r.state = .qualified → r.threshold ≤ min 32 (r.score + 4) → r.qualifiedSince = some t → ∀ k,
          k = (if (s.osc.now - t) / 1000000000 < 3600 then min 4 (r.k + 1) else 0) →
          ((s.score m).refs[m.slot]).state = .holdoff ∧ ((s.score m).refs[m.slot]).k = k ∧
            ((s.score m).refs[m.slot]).qualifiedSince = none ∧
            ((s.score m).refs[m.slot]).holdoff = some (s.osc.now + 60 * 2 ^ k * 1000000000)))

/-- R53, R54, R60: the hold-off timer takes a record to QUALIFYING; an hour in QUALIFIED takes its hold-off step to 0;
and the wait-to-restore time of the best candidate, which ranks before the selected one, makes it the selection. R65,
R167: every port is given the notice of the switch, and of a change of the assist reference after it. An expiry lets
the time up to its timer pass (notes/assumptions/5.md). -/
def Obligations.RecordTimersRunOut : Prop := (∀ (i : Slot) (s : State) (d : Nat), (s.refs[i]).state = .holdoff → (s.refs[i]).holdoff = some d →
    ∃ t, exec (.holdoffExpiry i) s = .next t ∧ t.osc.now = max s.osc.now d ∧ (t.refs[i]).state = .qualifying ∧
      (t.refs[i]).streak = 0 ∧ (t.refs[i]).holdoff = none ∧ (t.refs[i]).score = (s.refs[i]).score ∧
      (t.refs[i]).k = (s.refs[i]).k ∧ ∀ j : Slot, j ≠ i → (t.refs[j]).state = (s.refs[j]).state) ∧
    (∀ (i : Slot) (s : State) (d : Nat), (s.refs[i]).qualifiedSince = some d →
      ∃ t, exec (.qualifiedHour i) s = .next t ∧ t.osc.now = max s.osc.now (d + 3600000000000) ∧
        t.refs = s.refs.set i { s.refs[i] with k := 0 } ∧ OnlyChanges [.osc, .refs] s t) ∧
    ∀ (i p : Slot) (s : State) (d : Nat), s.sel.mode = .revertive → s.sel.force = none → s.sel.phase = some p →
      s.phaseCandidate p = true → s.phaseCandidate i = true → (s.refs[i]).candidateSince = some d →
      i ≠ p → (∀ j : Slot, s.phaseCandidate j = true → j ≠ i → s.ranksBefore i j = true) →
      ∃ t, exec (.revertiveWaitExpiry i) s = .next t ∧ t.osc.now = max s.osc.now (d + s.sel.wtr * 1000000000) ∧
        t.sel.phase = some i ∧ t.sel.mode = .revertive ∧
        (∀ x : Port, s.given t x .refSwitched
          ({ kind := .refSwitched, sec := s.counter.sec, ns := s.counter.ps / 1000, subject := 0, old := p.val
             new := i.val } ::
            if t.sel.assist = s.sel.assist then [] else
              [{ kind := .refSwitched, sec := s.counter.sec, ns := s.counter.ps / 1000, subject := 1
                 old := slotCode s.sel.assist, new := slotCode t.sel.assist }])) ∧
        (s.tb.state = .locked → t.tb.state = .acquiring ∧ t.tb.heldGrade = some .lock ∧ t.loop.cls = s.loop.cls) ∧
        t.hold.acc.disturbed = true

/-- R56: phase candidates are ranked by rank quality, then priority, then slot, and FQ records by priority, then slot;
the best candidate of a kind is the one that no other ranks before, and there is none only without a candidate. -/
def Obligations.BestCandidateRanksFirst : Prop := ∀ s : State,
    (∀ i j : Slot, s.ranksBefore i j = true ↔ (s.refs[i]).rankQuality < (s.refs[j]).rankQuality ∨
      (s.refs[i]).rankQuality = (s.refs[j]).rankQuality ∧ ((s.refs[i]).priority < (s.refs[j]).priority ∨
        (s.refs[i]).priority = (s.refs[j]).priority ∧ i.val < j.val)) ∧
    (∀ i j : Slot, s.assistBefore i j = true ↔ (s.refs[i]).priority < (s.refs[j]).priority ∨
      (s.refs[i]).priority = (s.refs[j]).priority ∧ i.val < j.val) ∧
    (∀ i j : Slot, i ≠ j → (s.ranksBefore i j = true ↔ s.ranksBefore j i = false) ∧
      (s.assistBefore i j = true ↔ s.assistBefore j i = false)) ∧
    (∀ i, s.bestPhase = some i ↔ s.phaseCandidate i = true ∧
      ∀ j, s.phaseCandidate j = true → j ≠ i → s.ranksBefore i j = true) ∧
    (s.bestPhase = none ↔ ∀ j, s.phaseCandidate j = false) ∧
    (s.sel.assist = none → ∀ i, s.chooseAssist = some i ↔ s.assistCandidate i = true ∧
      ∀ j, s.assistCandidate j = true → j ≠ i → s.assistBefore i j = true) ∧
    ∀ i j : Slot, s.sel.phase ≠ some i → s.sel.phase ≠ some j → s.chargedOf i j = if s.ranksBefore i j then j else i

/-! ### The emission table and its windows -/

/-- R107: the due instants of an anchor between two instants, in the sub-second form and in the multi-second form,
with its start and stop seconds; seconds count modulo 2^48. R108: a relative has one instance for each eligible
instance of its anchor whose number modulo the divider is the divider phase, at the relative offset from it. -/
def Obligations.TrainDuesFollowPeriodAndDivider : Prop :=
  ((∀ (period offset : Nat) (start stop : Option Nat) (lo hi : Int) (d : Due), 0 < period → period < 1000000 →
    1000000 % period = 0 → offset < period * 1000 →
    (d ∈ anchorDues period offset start stop lo hi ↔ lo ≤ d.at_ ∧ d.at_ < hi ∧ ∃ second : Int,
      d.number < 1000000 / period ∧
        d.at_ = second * 1000000000000 + d.number * (period * 1000000) + offset * 1000 ∧
        (∀ v, start = some v → v ≤ (second % 2 ^ 48).toNat) ∧ ∀ v, stop = some v → (second % 2 ^ 48).toNat < v)) ∧
    ∀ (m offset : Nat) (start stop : Option Nat) (lo hi : Int) (d : Due), 1 ≤ m → m ≤ 16 →
      (d ∈ anchorDues (m * 1000000) offset start stop lo hi ↔ lo ≤ d.at_ ∧ d.at_ < hi ∧ ∃ second : Int,
        d.at_ = second * 1000000000000 + offset * 1000 ∧ (second % 2 ^ 48).toNat % m = 0 ∧
          d.number = (second % 2 ^ 48).toNat / m ∧
          (∀ v, start = some v → v ≤ (d.at_ / 1000000000000 % 2 ^ 48).toNat) ∧
          ∀ v, stop = some v → (d.at_ / 1000000000000 % 2 ^ 48).toNat < v)) ∧
  ∀ (s : State) (e anchor : Entry) (a : EntryIx) (rel lo hi at_ : Int) (divider phase period offset : Nat)
    (start stop : Option Nat), e.fields.link = .relative a rel divider phase → s.entries[a] = some anchor →
    anchor.fields.link = .anchor period offset start stop →
    (at_ ∈ s.entryDues e lo hi ↔
      ∃ d ∈ anchorDues period offset start stop (lo - rel * 1000) (hi - rel * 1000),
        d.number % divider = phase ∧ at_ = d.at_ + rel * 1000)

/-- R123, R124: the first placed hard item of an entry at its release; `v` is the state as the release finds it, with
what the drop's line has then reached. It is withheld and counted suppressed in WARMUP or FAULT, when its drop is not
SERVING, has its turn out or waits for the line, or at a grade worse than the squelch level its window was planned
with; otherwise it is counted emitted, a MARK is on the drop's line and a PULSE asserts its output for its width, or
to whichever end is later. R121, R124: the active period of a pulse output ends, and so does the EMIT_OVERRUN hold.
The squelch level is that of the planning (notes/assumptions/35.md); a MARK takes the place of a message still on the
line (59.md); a release or an end lets the time up to its instant pass (5.md). -/
def Obligations.HardItemsAndPulsesAreReleased : Prop :=
  (∀ (n : EntryIx) (s v : State) (x : Entry) (before after : List HardItem) (h : HardItem),
    s.sched.hardPlan = before ++ h :: after → h.entry = n → (∀ y ∈ before, y.entry ≠ n) → s.entries[n] = some x →
    v = ((s.setSched { s.sched with hardPlan := before ++ after }).reachInstant h.transmit).settleTarget h.target →
    ∃ t, exec (.hardInstanceRelease n) s = .next t ∧ t.sched = { s.sched with hardPlan := before ++ after } ∧
      (∀ m : EntryIx, m ≠ n → t.entries[m] = s.entries[m]) ∧
      ((∀ d, h.target = .drop d → (s.drops[d]).line = none ∧ ((s.drops[d]).turn = .isIn ∨
          ∃ start w limit t1 maxRtt, (s.drops[d]).turn = .out start w limit t1 maxRtt ∧
            elapsed start v.counter.instant ≤ limit)) → v.drops = s.drops) ∧
      (s.tb.state = .warmup ∨ s.tb.state = .fault ∨ h.squelch.code < s.tb.grade.code ∨
          (∃ d, h.target = .drop d ∧ ((v.drops[d]).state ≠ .serving ∨ (v.drops[d]).turn ≠ .isIn ∨
            (v.drops[d]).lineActive = true)) →
        t.entries[n] = some { x with suppressed := min 4294967295 (x.suppressed + 1) } ∧ t.drops = v.drops ∧
          t.px = s.px) ∧
      (∀ d, s.tb.state ≠ .warmup → s.tb.state ≠ .fault → s.tb.grade.code ≤ h.squelch.code → h.target = .drop d →
        (v.drops[d]).state = .serving → (v.drops[d]).turn = .isIn → (v.drops[d]).lineActive = false →
        t.entries[n] = some { x with emitted := min 4294967295 (x.emitted + 1) } ∧ t.px = s.px ∧
          t.drops = v.drops.set d { v.drops[d] with
            line := some
              { kind := .mark, bytes := withCheck [1, BitVec.ofNat 8 n.val], start := h.transmit, length := 40000
                limit := 0, maxRtt := 0 } }) ∧
      (∀ p stop, s.tb.state ≠ .warmup → s.tb.state ≠ .fault → s.tb.grade.code ≤ h.squelch.code → h.target = .px p →
        stop = (h.transmit + h.width * 1000) % (2 ^ 48 * 1000000000000) →
        t.entries[n] = some { x with emitted := min 4294967295 (x.emitted + 1) } ∧ t.drops = s.drops ∧
          ((s.px[p]).until_ = none → t.px = s.px.set p { s.px[p] with until_ := some stop }) ∧
          ∀ old, (s.px[p]).until_ = some old → t.px = s.px.set p { s.px[p] with
            until_ := some (if 0 < signedElapsed old stop then stop else old) }) ∧
      OnlyChanges (touches (.hardInstanceRelease n)) s t) ∧
  (∀ (x : Px) (s : State) (u : Nat), (s.px[x]).until_ = some u → ∃ t, exec (.pulseEnd x) s = .next t ∧
    t.px = s.px.set x { s.px[x] with until_ := none } ∧ OnlyChanges (.px :: Field.running) s t) ∧
    ∀ (s : State) (d : Nat), s.sched.overrunHold = some d → ∃ t, exec .emitOverrunHoldExpiry s = .next t ∧
      t.sched = { s.sched with overrunHold := none } ∧ t.osc.now = max s.osc.now d ∧
      (t.alarms[(9 : AlarmIx)]).condition = false ∧ OnlyChanges [.osc, .sched, .alarms, .views] s t

/-- R133, R139, R140, R150: the first placed soft item of a drop at its release, the drop's line idle and its turn IN.
It is sent when the drop is in the state that it serves; an announcement that is withheld leaves the backlog and makes
the next one full. R133, R134, R150: a soft item whose release finds the turn OUT, or the unit still active on the
line, is withheld: an announcement leaves the backlog, makes the next one full and gives its step flag back to a
SERVING drop; a PROBE or OFFER stays due. A release lets the time up to its instant pass (notes/assumptions/5.md). -/
def Obligations.SoftItemIsReleased : Prop :=
  (∀ (d : DropIx) (s : State) (x : SoftItem) (before after : List SoftItem) (r : DropRec) (p : Profile),
    s.sched.softPlan = before ++ x :: after → x.drop = d → (∀ y ∈ before, y.drop ≠ d) → r = s.drops[d] →
    p = s.profiles[r.profile] → r.line = none → r.turn = .isIn → r.lineActive = false →
    ∃ t, exec (.softItemRelease d) s = .next t ∧ t.sched = { s.sched with softPlan := before ++ after } ∧
      (∀ a, x.kind = .announce a → r.state = .serving →
        (t.drops[d]).backlog = r.backlog - 1 ∧ (t.drops[d]).placed = r.placed - 1 ∧
          (t.drops[d]).fullSent = (if a.full = true then min 4294967295 (r.fullSent + 1) else r.fullSent) ∧
          (t.drops[d]).shortSent = (if a.full = true then r.shortSent else min 4294967295 (r.shortSent + 1)) ∧
          ∃ m, (t.drops[d]).line = some m ∧ m.bytes = a.message ∧ m.start = x.transmit ∧
            m.length = a.message.length * 10000) ∧
      (∀ a, x.kind = .announce a → r.state ≠ .serving →
        t.drops[d] = { r with
          placed := r.placed - 1, lastFullUpper := none, lastFullOffset := none
          unsent := min 4294967295 (r.unsent + 1) }) ∧
      (x.kind = .probe → r.state = .calibrating ∨ r.state = .serving →
        (t.drops[d]).probeDue = false ∧ (t.drops[d]).probesSent = min 4294967295 (r.probesSent + 1) ∧
          (t.drops[d]).probeTimer = some (if r.state = .serving then p.probeInterval * 1000 else 100) ∧
          ∃ m, (t.drops[d]).line = some m ∧ m.bytes = withCheck [4, BitVec.ofNat 8 (p.turnLimit / 100)] ∧
            m.start = x.transmit ∧ m.length = 40000 ∧ m.limit = p.turnLimit * 1000000 ∧ m.maxRtt = p.maxRtt) ∧
      (x.kind = .offer → r.state = .seeking →
        (t.drops[d]).offerDue = false ∧ (t.drops[d]).offersSent = min 4294967295 (r.offersSent + 1) ∧
          (t.drops[d]).offerTimer = some p.offerInterval ∧
          ∃ m, (t.drops[d]).line = some m ∧ m.bytes = withCheck [5, BitVec.ofNat 8 d.val] ∧ m.start = x.transmit ∧
            m.length = 40000 ∧ m.limit = p.turnLimit * 1000000 ∧ m.maxRtt = p.maxRtt) ∧
      (x.kind = .probe ∧ (r.state = .disabled ∨ r.state = .seeking) ∨ x.kind = .offer ∧ r.state ≠ .seeking →
        t.drops = s.drops) ∧
      OnlyChanges (touches (.softItemRelease d)) s t) ∧
  ∀ (d : DropIx) (s : State) (x : SoftItem) (before after : List SoftItem) (r : DropRec),
    s.sched.softPlan = before ++ x :: after → x.drop = d → (∀ y ∈ before, y.drop ≠ d) → r = s.drops[d] →
    r.line = none →
    (r.turn = .isIn ∧ r.lineActive = true ∨ ∃ start w limit t1 maxRtt, r.turn = .out start w limit t1 maxRtt ∧
      elapsed start (s.reachInstant x.transmit).counter.instant ≤ limit) →
    ∃ t, exec (.softItemRelease d) s = .next t ∧ t.sched = { s.sched with softPlan := before ++ after } ∧
      (∀ a, x.kind = .announce a → t.drops = s.drops.set d { r with
        placed := r.placed - 1, lastFullUpper := none, lastFullOffset := none
        unsent := min 4294967295 (r.unsent + 1)
        stepFlag := r.stepFlag || (a.stepFlag && decide (r.state = .serving)) }) ∧
      (x.kind = .probe ∨ x.kind = .offer → t.drops = s.drops)

/-! ### Radio drops -/

/-- R134, R139, R140, R143: the turn goes OUT as the last byte of a PROBE or OFFER leaves, and comes back when the
turn limit of the exchange passes from the turn start, a PROBE's exchange having failed with NO_ECHO. The eighth
failure in a row in CALIBRATING, and the third in SERVING, take the drop to SEEKING. The exchange keeps its limit
(notes/assumptions/32.md); an end lets the time up to its instant pass (5.md). -/
def Obligations.TurnGoesOutAndComesBack : Prop := (∀ (d : DropIx) (s : State) (m : LineMessage) (a b : Option Nat) (c : Option Reading) (n : Nat) (w : TurnMessage),
    (s.drops[d]).line = some m →
    (m.kind = .probe c a n ∧ w = .probe) ∨ (m.kind = .offer b n ∧ w = .offer) →
    ∃ t, exec (.turnOut d) s = .next t ∧ t.drops = s.drops.set d { s.drops[d] with
      line := none, turn := .out m.start w m.limit (m.start / 125 * 125) m.maxRtt } ∧
      OnlyChanges (.drops :: Field.running) s t) ∧
    ∀ (d : DropIx) (s : State) (start limit t1 : Nat) (w : TurnMessage) (maxRtt : Int) (r : DropRec), r = s.drops[d] →
      r.turn = .out start w limit t1 maxRtt → r.line = none →
      ∃ t, exec (.turnLimitExpiry d) s = .next t ∧ (t.drops[d]).turn = .isIn ∧ (t.drops[d]).arriving = none ∧
        (w = .offer → t.drops[d] = { r with turn := .isIn, arriving := none }) ∧
        (w = .probe → (t.drops[d]).failNoEcho = min 4294967295 (r.failNoEcho + 1) ∧
          (r.state = .calibrating → r.failRun < 7 →
            (t.drops[d]).state = .calibrating ∧ (t.drops[d]).failRun = r.failRun + 1) ∧
          (r.state = .serving → r.failRun < 2 →
            (t.drops[d]).state = .serving ∧ (t.drops[d]).failRun = r.failRun + 1) ∧
          (r.state = .calibrating ∧ 7 ≤ r.failRun ∨ r.state = .serving ∧ 2 ≤ r.failRun →
            (t.drops[d]).state = .seeking ∧ (t.drops[d]).failRun = 0 ∧ (t.drops[d]).ring = [] ∧
              (t.drops[d]).offerDue = true ∧ (t.drops[d]).joined = none ∧ (t.drops[d]).backlog = 0) ∧
          (r.state = .seeking ∨ r.state = .disabled →
            (t.drops[d]).state = r.state ∧ (t.drops[d]).failRun = r.failRun))

/-- R135, R142, R143, R150: line activity of the unit that begins while the chip holds the turn is contention, whether
the sender names it so or as the first byte of a message. A message of the chip's on the line is stopped: a MARK stays
counted emitted, an announcement has not been sent, and stays owed while the drop is SERVING, and a PROBE or OFFER
stays due. With the turn OUT a first byte is timestamped as t4. While the line is already active nothing more is
counted, until it falls idle. Elapsed time is the model's operand (notes/assumptions/1.md). One mark holds the
activity of a unit (17.md), and a first byte in the chip's turn is contention (19.md). What a stopped message gives
back, its count and its timer among it, is the model's reading (18.md). -/
def Obligations.UnitActivityIsTakenByTurn : Prop := (∀ (e : Elapsed) (d : DropIx) (s : State) (r : DropRec) (c : Instr), r = s.drops[d] →
    c = .dropContention e d ∨ c = .unitMessageFirstByte e d → r.line = none → r.turn = .isIn →
    ∃ t, exec c s = .next t ∧
      (r.lineActive = true → t.drops = s.drops) ∧
      (r.lineActive = false → (t.drops[d]).contentions = min 4294967295 (r.contentions + 1) ∧
        (t.drops[d]).lineActive = true ∧ (t.drops[d]).aborted = r.aborted ∧
        (r.state = .seeking ∨ r.state = .disabled →
          (t.drops[d]).failContention = r.failContention ∧ (t.drops[d]).state = r.state) ∧
        (r.state = .calibrating ∨ r.state = .serving →
          (t.drops[d]).failContention = min 4294967295 (r.failContention + 1)) ∧
        (r.state = .serving → r.failRun < 2 →
          (t.drops[d]).state = .serving ∧ (t.drops[d]).failRun = r.failRun + 1) ∧
        (r.state = .serving → 2 ≤ r.failRun → (t.drops[d]).state = .seeking))) ∧
    (∀ (e : Elapsed) (d : DropIx) (s u : State) (r : DropRec) (m : LineMessage) (c : Instr), u = s.pass e →
      r = s.drops[d] → c = .dropContention e d ∨ c = .unitMessageFirstByte e d → r.line = some m →
      elapsed m.start u.counter.instant < m.length → r.turn = .isIn → r.lineActive = false →
      ∃ t, exec c s = .next t ∧ (t.drops[d]).line = none ∧ (t.drops[d]).lineActive = true ∧ t.entries = s.entries ∧
        (t.drops[d]).contentions = min 4294967295 (r.contentions + 1) ∧
        (t.drops[d]).aborted = min 4294967295 (r.aborted + 1) ∧
        (t.drops[d]).failContention = (if r.state = .calibrating ∨ r.state = .serving then
          min 4294967295 (r.failContention + 1) else r.failContention) ∧
        (r.state = .serving → r.failRun < 2 → (t.drops[d]).state = .serving) ∧
        (r.state = .seeking ∨ r.state = .disabled → (t.drops[d]).state = r.state) ∧
        (m.kind = .mark → (t.drops[d]).fullSent = r.fullSent ∧ (t.drops[d]).shortSent = r.shortSent ∧
          (t.drops[d]).unsent = r.unsent) ∧
        (∀ a prior, m.kind = .announce a prior → (t.drops[d]).unsent = min 4294967295 (r.unsent + 1) ∧
          (t.drops[d]).lastFullUpper = none ∧ (t.drops[d]).lastFullOffset = none ∧
          (t.drops[d]).fullSent = (if a.full = true then prior else r.fullSent) ∧
          (t.drops[d]).shortSent = (if a.full = true then r.shortSent else prior) ∧
          (r.state = .serving → r.failRun < 2 → (t.drops[d]).backlog = min 15 (r.backlog + 1) ∧
            (t.drops[d]).stepFlag = (r.stepFlag || a.stepFlag)) ∧
          (r.state = .seeking ∨ r.state = .disabled → (t.drops[d]).backlog = r.backlog)) ∧
        (∀ since timer prior, m.kind = .probe since timer prior → (t.drops[d]).probesSent = prior ∧
          (r.state = .serving → r.failRun < 2 → (t.drops[d]).probeDue = true ∧ (t.drops[d]).probeDueSince = since ∧
            (t.drops[d]).probeTimer = timer)) ∧
        ∀ timer prior, m.kind = .offer timer prior → (t.drops[d]).offersSent = prior ∧
          (r.state = .seeking → (t.drops[d]).offerDue = true ∧ (t.drops[d]).offerTimer = timer)) ∧
    (∀ (e : Elapsed) (d : DropIx) (s u : State) (start limit t1 : Nat) (w : TurnMessage) (maxRtt : Int), u = s.pass e →
      (s.drops[d]).turn = .out start w limit t1 maxRtt → (s.drops[d]).line = none → (s.drops[d]).lineActive = false →
      elapsed start u.counter.instant ≤ limit →
      ∃ t, exec (.unitMessageFirstByte e d) s = .next t ∧ t.drops = s.drops.set d { s.drops[d] with
        arriving := some (u.counter.instant / 125 * 125), lineActive := true }) ∧
    ∀ (e : Elapsed) (d : DropIx) (s : State), (s.drops[d]).turn = .isIn → (s.drops[d]).line = none →
      ∃ t, exec (.dropLineIdle e d) s = .next t ∧ t.drops = s.drops.set d { s.drops[d] with
        lineActive := false, arriving := none }

/-- R137, R141, R167, R193: a JOIN message completes in an OUT turn that an OFFER handed out, on a SEEKING drop,
within the turn limit. The turn is back IN; an identity that is not the expected one is refused; otherwise the drop
goes to CALIBRATING with a probe due, and its owner is given the notice of the move. Elapsed time is the model's
operand (notes/assumptions/1.md). -/
def Obligations.JoinTakesDropToCalibrating : Prop := ∀ (e : Elapsed) (d : DropIx) (s u : State) (r : DropRec) (start limit t1 t4 identity : Nat) (maxRtt : Int)
    (compact : Bool) (st : UnitStatus), u = s.pass e → r = s.drops[d] → r.state = .seeking → r.line = none →
    r.turn = .out start .offer limit t1 maxRtt → r.arriving = some t4 → elapsed start u.counter.instant ≤ limit →
    identity < 2 ^ 64 →
    ∃ t, exec (.dropMessageComplete e d (withCheck
        (beBytes 1 8 ++ beBytes 8 identity ++ beBytes 1 (if compact then 1 else 0) ++ beBytes 1 st.code))) s = .next t ∧
      (t.drops[d]).turn = .isIn ∧ (t.drops[d]).arriving = none ∧
      (r.expected = none ∨ r.expected = some identity →
        (t.drops[d]).state = .calibrating ∧ (t.drops[d]).joined = some identity ∧ (t.drops[d]).compact = compact ∧
          (t.drops[d]).unitStatus = some st ∧ (t.drops[d]).refused = none ∧
          (t.drops[d]).joinsAccepted = min 4294967295 (r.joinsAccepted + 1) ∧ (t.drops[d]).probeDue = true ∧
          (t.drops[d]).probeDueSince = some u.counter) ∧
      (∀ x, r.expected = some x → x ≠ identity →
        (t.drops[d]).state = .seeking ∧ (t.drops[d]).refused = some identity ∧
          (t.drops[d]).joinsRefused = min 4294967295 (r.joinsRefused + 1) ∧ (t.drops[d]).joined = r.joined) ∧
      (∀ q : Port, s.given t q .dropState
        (if r.owner = some q ∧ (r.expected = none ∨ r.expected = some identity) then
          [{ kind := .dropState, sec := u.counter.sec, ns := u.counter.ps / 1000, subject := d.val
             old := DropState.seeking.code, new := DropState.calibrating.code }]
        else [])) ∧
      OnlyChanges (touches (.dropMessageComplete e d [])) s t

/-- R139, R140, R142, R143, R144, R193: an ECHO message completes in an OUT turn that a PROBE handed out, within the
turn limit. A round trip from 0 to the maximum joins the ring, which forms the applied delay, and the fourth result of
a CALIBRATING drop takes it to SERVING; any other is a failure with RANGE; RESTARTING takes the drop to SEEKING. R145,
R167: an applied delay that moves by more than the tolerance gives the drop's owner a notice of the jump. Elapsed time
is the model's operand (notes/assumptions/1.md). RESTARTING against a valid result: 16.md. -/
def Obligations.EchoMeasuresDelay : Prop := ∀ (e : Elapsed) (d : DropIx) (s u : State) (r : DropRec) (p : Profile) (start limit t1 t2 t3 t4 : Nat)
    (maxRtt rtt : Int) (ring : List Int) (st : UnitStatus), u = s.pass e → r = s.drops[d] → p = s.profiles[r.profile] →
    r.state = .calibrating ∨ r.state = .serving → r.line = none → r.turn = .out start .probe limit t1 maxRtt →
    r.arriving = some t4 → elapsed start u.counter.instant ≤ limit → t2 < 2 ^ 48 → t3 < 2 ^ 48 →
    rtt = signedElapsed t1 t4 - ((t3 : Int) - t2) % 2 ^ 48 → ring = (r.ring ++ [rtt]).drop (r.ring.length + 1 - 8) →
    ∃ t, exec (.dropMessageComplete e d (withCheck
        (beBytes 1 9 ++ beBytes 6 t2 ++ beBytes 6 t3 ++ beBytes 1 st.code))) s = .next t ∧
      (t.drops[d]).turn = .isIn ∧ (t.drops[d]).arriving = none ∧ (t.drops[d]).unitStatus = some st ∧
      (0 ≤ rtt → rtt ≤ maxRtt → st ≠ .restarting →
        (t.drops[d]).ring = ring ∧ (t.drops[d]).failRun = 0 ∧ (t.drops[d]).newestResult = some t4 ∧
          (t.drops[d]).validExchanges = min 4294967295 (r.validExchanges + 1) ∧
          (∃ least, ringLeast ring = some least ∧ least ∈ ring ∧ (∀ v ∈ ring, least ≤ v) ∧
            (t.drops[d]).delay = least / 2 + p.asymmetry) ∧
          (r.state = .calibrating ∧ r.ring.length < 3 ∨ r.state = .serving → (t.drops[d]).state = r.state) ∧
          (r.state = .calibrating ∧ 3 ≤ r.ring.length → (t.drops[d]).state = .serving ∧
            (t.drops[d]).probeTimer = some (p.probeInterval * 1000) ∧
            (t.drops[d]).annTimer = some p.announceInterval ∧ (t.drops[d]).probeDue = false)) ∧
      (rtt < 0 ∨ maxRtt < rtt → st ≠ .restarting →
        (t.drops[d]).failRange = min 4294967295 (r.failRange + 1) ∧
          (t.drops[d]).validExchanges = r.validExchanges ∧
          (r.state = .serving → r.failRun < 2 → (t.drops[d]).failRun = r.failRun + 1 ∧ (t.drops[d]).ring = r.ring)) ∧
      (st = .restarting → (t.drops[d]).state = .seeking ∧ (t.drops[d]).ring = [] ∧
        (t.drops[d]).delay = p.fixedDelay) ∧
      (∀ q : Port, s.given t q .dropDelayJump
        (if r.owner = some q ∧ p.tolerance * 1000 < ((t.drops[d]).delay - r.delay).natAbs then
          [{ kind := .dropDelayJump, sec := u.counter.sec, ns := u.counter.ps / 1000, subject := d.val
             old := r.delay, new := (t.drops[d]).delay }]
        else [])) ∧
      OnlyChanges (touches (.dropMessageComplete e d [])) s t

/-- R136, R139, R140, R146: the timers of a drop at 0. The offer timer makes an OFFER due; the probe timer makes a
PROBE due since this reading; the announcement timer is loaded again and one announcement falls owed, up to 15,
outside WARMUP and FAULT. The timer of a drop that is not SEEKING: notes/assumptions/39.md. -/
def Obligations.DropTimersRunOut : Prop := ∀ (d : DropIx) (s : State) (r : DropRec), r = s.drops[d] →
    (r.offerTimer = some 0 → ∃ t, exec (.offerTimerExpiry d) s = .next t ∧
      t.drops = s.drops.set d { r with offerTimer := none, offerDue := true } ∧ OnlyChanges [.drops] s t) ∧
    (r.probeTimer = some 0 → ∃ t, exec (.probeTimerExpiry d) s = .next t ∧
      t.drops = s.drops.set d { r with probeTimer := none, probeDue := true, probeDueSince := some s.counter } ∧
      OnlyChanges [.drops] s t) ∧
    (r.annTimer = some 0 → ∃ t, exec (.announcementTimerExpiry d) s = .next t ∧
      t.drops = s.drops.set d { r with
        annTimer := some (s.profiles[r.profile]).announceInterval
        backlog := if s.tb.state = .warmup ∨ s.tb.state = .fault then r.backlog else min 15 (r.backlog + 1) } ∧
      OnlyChanges [.drops, .alarms, .views] s t)

/-! ### Alarms and notices -/

/-- R155, R157, R158, R159: the persistence timer of a RAISING record runs out: it is ACTIVE, its raise is counted and
stamped, and every ONLINE port whose mask enables it has its unseen flag set and is given a notice; of a CLEARING one:
it is CLEAR, its clear stamped, and shown in the same way. R160, R162: the contacts and the attention line. ALM_CRIT
is closed while a CRITICAL record stands, ALM_MAJ while a CRITICAL or MAJOR one does; ATTN is asserted while the line
is enabled and a record the mask enables is unseen, and the top unseen alarm is the lowest of those. An expiry lets
the time up to its timer pass (notes/assumptions/5.md). -/
def Obligations.AlarmsAreRaisedClearedAndShown : Prop :=
  (∀ (a : AlarmIx) (s : State) (d : Nat) (raises : Bool) (n : Notice), (s.alarms[a]).timer = some d →
    (s.alarms[a]).state = (if raises then .raising else .clearing) →
    n = { kind := if raises then .alarmRaised else .alarmCleared, sec := s.counter.sec, ns := s.counter.ps / 1000
          subject := a.val, old := if raises then 1 else 3, new := if raises then 2 else 0 } →
    ∃ t, exec (.alarmPersistenceExpiry a) s = .next t ∧ t.osc.now = max s.osc.now d ∧
      t.alarms = s.alarms.set a (if raises then { s.alarms[a] with
          state := .active, timer := none, raiseCount := min 65535 ((s.alarms[a]).raiseCount + 1)
          lastRaise := some s.counter }
        else { s.alarms[a] with state := .clear, timer := none, lastClear := some s.counter }) ∧
      (∀ p : Port, (s.ports[p]).online = false ∨ (s.views[p]).mask.getLsbD a.val = false → t.views[p] = s.views[p]) ∧
      (∀ p : Port, (s.ports[p]).online = true → (s.views[p]).mask.getLsbD a.val = true →
        (t.views[p]).unseen = (s.views[p]).unseen ||| BitVec.twoPow 32 a.val ∧
          (t.views[p]).mask = (s.views[p]).mask ∧
          ((s.views[p]).eventMask.getLsbD n.kind.code = false →
            (t.views[p]).notices = (s.views[p]).notices ∧ (t.views[p]).overflow = (s.views[p]).overflow) ∧
          ((s.views[p]).eventMask.getLsbD n.kind.code = true → (s.views[p]).notices.length < 16 →
            (t.views[p]).notices = (s.views[p]).notices ++ [n] ∧
              (t.views[p]).overflow = (s.views[p]).overflow) ∧
          ((s.views[p]).eventMask.getLsbD n.kind.code = true → 16 ≤ (s.views[p]).notices.length →
            (t.views[p]).notices = (s.views[p]).notices ∧ (t.views[p]).overflow = true)) ∧
      OnlyChanges [.osc, .alarms, .views] s t) ∧
  ∀ (s : State) (p : Port),
    (s.almCrit = true ↔ ∃ i : AlarmIx, ((s.alarms[i]).state = .active ∨ (s.alarms[i]).state = .clearing) ∧
      (s.alarms[i]).severity = .critical) ∧
    (s.almMaj = true ↔ ∃ i : AlarmIx, ((s.alarms[i]).state = .active ∨ (s.alarms[i]).state = .clearing) ∧
      ((s.alarms[i]).severity = .critical ∨ (s.alarms[i]).severity = .major)) ∧
    ((s.views[p]).attn = true ↔ (s.views[p]).lineEnable = true ∧
      ∃ i : AlarmIx, (s.views[p]).mask.getLsbD i.val = true ∧ (s.views[p]).unseen.getLsbD i.val = true) ∧
    ((s.views[p]).topUnseen = 32 ↔
      ∀ i : AlarmIx, (s.views[p]).mask.getLsbD i.val = false ∨ (s.views[p]).unseen.getLsbD i.val = false) ∧
    ∀ i : AlarmIx, (s.views[p]).topUnseen = i.val ↔
      ((s.views[p]).mask.getLsbD i.val = true ∧ (s.views[p]).unseen.getLsbD i.val = true ∧
        ∀ j : AlarmIx, j < i → (s.views[p]).mask.getLsbD j.val = false ∨ (s.views[p]).unseen.getLsbD j.val = false)

/-! ### Control ports -/

/-- R171, R173: a PEEK, and a transaction of an unknown type, return the status block as it stands and clear the
overrun flag that it shows; the silence timer, the port state and every queue stay as they are. R172: the eight bytes
of the port status block. The port is within the sizes of its queues. Elapsed time is the model's operand
(notes/assumptions/1.md). The bytes returned: 28.md; the transaction under way: 20.md. -/
def Obligations.PeekShowsPortAndClearsOverrunAlone : Prop :=
  (∀ (e : Elapsed) (p : Port) (s : State) (c : Instr), c = .peek e p ∨ c = .unknownTransactionType e p →
    ∃ t, exec c s = .next t ∧ t.ports = s.ports.set p { s.ports[p] with
      dataOut := (s.pass e).statusBlock p, overrun := false, transaction := .idle } ∧
      OnlyChanges (.ports :: Field.elapsed) s t) ∧
  ∀ (p : Port) (s : State) (q : PortRec) (v : View), q = s.ports[p] → v = s.views[p] →
    ∃ flags next top authority : Nat,
      s.statusBlock p = [BitVec.ofNat 8 flags, BitVec.ofNat 8 (8 - q.shortQueue.length),
        BitVec.ofNat 8 (2 - q.longQueue.length), BitVec.ofNat 8 (next / 256), BitVec.ofNat 8 next,
        BitVec.ofNat 8 v.notices.length, BitVec.ofNat 8 top, BitVec.ofNat 8 authority] ∧
      flags = (if q.online then 1 else 0) + (if v.attn then 2 else 0) + (if q.overrun then 4 else 0) ∧
      (q.replies = [] → next = 0) ∧
      (∀ r rest, q.replies = r :: rest → q.progress = none → next = min q.maxSegment (4 + r.body.length)) ∧
      (∀ r rest g, q.replies = r :: rest → q.progress = some g → next = min g.segment (4 + r.body.length - g.pulled)) ∧
      (v.topUnseen = 32 → top = 255) ∧ (v.topUnseen < 32 → top = v.topUnseen) ∧
      (s.holder = some p → s.waitList = [] → authority = 1) ∧
      (∀ w rest, s.holder = some p → s.waitList = w :: rest → authority = 3 + 4 * w.urgency) ∧
      (s.holder ≠ some p → (∀ w ∈ s.waitList, w.port ≠ p) → authority = 0) ∧
      (s.holder ≠ some p → (∃ w ∈ s.waitList, w.port = p) → authority = 2)

/-- R165, R174, R180, R183: the type byte of a PUSH loads the silence timer and, on an OFFLINE port, makes it ONLINE
with the standing records that its mask enables unseen; the request that then arrives joins the queue its length calls
for, or is discarded with the overrun flag set; a PUSH cut short sets that flag too. The block that brings a port
ONLINE is taken after its new state is handed over for PORT_SILENT (R172, R188). A request that arrives at a port gone
OFFLINE is discarded (the flag: notes/assumptions/20.md). Elapsed time is the model's operand
(notes/assumptions/1.md). The transaction under way is held (20.md). -/
def Obligations.PushBringsRequest : Prop := (∀ (e : Elapsed) (p : Port) (s u : State), u = s.pass e → ∃ t, exec (.push e p) s = .next t ∧
    (t.ports[p]).online = true ∧ (t.ports[p]).transaction = .pushing ∧ (t.ports[p]).overrun = false ∧
    (t.ports[p]).silence = some (u.osc.now + (s.ports[p]).silenceTime * 1000000000) ∧
    (t.ports[p]).shortQueue = (s.ports[p]).shortQueue ∧ (t.ports[p]).longQueue = (s.ports[p]).longQueue ∧
    (t.ports[p]).replies = (s.ports[p]).replies ∧
    ((s.ports[p]).online = true → (t.ports[p]).dataOut = u.statusBlock p) ∧
    ((s.ports[p]).online = false → (t.ports[p]).dataOut.length = 8 ∧
      (t.ports[p]).dataOut.getD 5 0 = BitVec.ofNat 8 (t.views[p]).notices.length ∧
      (t.ports[p]).dataOut.getD 6 0 = if (t.views[p]).topUnseen < 32 then BitVec.ofNat 8 (t.views[p]).topUnseen else 255) ∧
    ((s.ports[p]).online = false → ∀ i : AlarmIx, (s.views[p]).mask.getLsbD i.val = true →
      (s.alarms[i]).state = .active ∨ (s.alarms[i]).state = .clearing → (t.views[p]).unseen.getLsbD i.val = true) ∧
    OnlyChanges (touches (.push e p)) s t) ∧
  (∀ (e : Elapsed) (p : Port) (s : State) (q : PortRec) (code : Byte) (tag : BitVec 16) (body : List Byte) (r : Request),
    q = s.ports[p] → q.transaction = .pushing → q.online = true →
    r = { code := code, tag := tag, body := body, order := q.nextOrder } →
    ∃ t, exec (.requestArrival e p code tag body) s = .next t ∧ OnlyChanges (.ports :: Field.elapsed) s t ∧
      (body.length ≤ 16 → q.shortQueue.length < 8 → t.ports = s.ports.set p { q with
        transaction := .idle, shortQueue := q.shortQueue ++ [r], nextOrder := q.nextOrder + 1 }) ∧
      (16 < body.length → body.length ≤ 512 → q.longQueue.length < 2 → t.ports = s.ports.set p { q with
        transaction := .idle, longQueue := q.longQueue ++ [r], nextOrder := q.nextOrder + 1 }) ∧
      (512 < body.length ∨ body.length ≤ 16 ∧ 8 ≤ q.shortQueue.length ∨
          16 < body.length ∧ 2 ≤ q.longQueue.length →
        t.ports = s.ports.set p { q with transaction := .idle, overrun := true })) ∧
  (∀ (e : Elapsed) (p : Port) (s : State) (code : Byte) (tag : BitVec 16) (body : List Byte),
    (s.ports[p]).transaction = .pushing → (s.ports[p]).online = false →
    ∃ t, exec (.requestArrival e p code tag body) s = .next t ∧ OnlyChanges (.ports :: Field.elapsed) s t ∧
      t.ports = s.ports.set p { s.ports[p] with transaction := .idle, overrun := true }) ∧
  ∀ (e : Elapsed) (p : Port) (s : State), (s.ports[p]).transaction = .pushing →
    ∃ t, exec (.transactionCutShort e p) s = .next t ∧
      t.ports = s.ports.set p { s.ports[p] with transaction := .idle, overrun := true } ∧
      OnlyChanges (.ports :: Field.elapsed) s t

/-- R175, R178: a PULL returns the status block and then the next segment of the oldest reply, with its header; the
segment counts as pulled when its last byte is sent, and the last one takes the reply out of its queue; one cut short
is not counted. Elapsed time is the model's operand (notes/assumptions/1.md). The transaction under way is held
(20.md). A first segment sent again takes the size as it then stands (60.md). -/
def Obligations.PullSendsSegment : Prop := (∀ (e : Elapsed) (p : Port) (s u : State), u = s.pass e → (s.ports[p]).replies = [] →
    ∃ t, exec (.pull e p) s = .next t ∧ t.ports = s.ports.set p { s.ports[p] with
      dataOut := u.statusBlock p, overrun := false, transaction := .idle }) ∧
  (∀ (e : Elapsed) (p : Port) (s u : State) (r : Reply) (rest : List Reply) (segment pulled length total mark : Nat),
    u = s.pass e → (s.ports[p]).replies = r :: rest →
    ((s.ports[p]).progress = none ∧ segment = (s.ports[p]).maxSegment ∧ pulled = 0) ∨
      (s.ports[p]).progress = some { segment := segment, pulled := pulled } →
    total = 4 + r.body.length → length = min segment (total - pulled) → pulled < total →
    mark = (if pulled = 0 then (if length = total then 0 else 1) else if pulled + length = total then 3 else 2) →
    ∃ t, exec (.pull e p) s = .next t ∧ t.ports = s.ports.set p { s.ports[p] with
      overrun := false, transaction := .pulling segment length
      dataOut := u.statusBlock p ++ beBytes 1 mark ++ beBytes 2 total ++ beBytes 2 (total - pulled - length) ++
        (r.bytes.drop pulled).take length } ∧ OnlyChanges (.ports :: Field.elapsed) s t) ∧
  ∀ (e : Elapsed) (p : Port) (s : State) (r : Reply) (rest : List Reply) (segment pulled length total : Nat),
    (s.ports[p]).transaction = .pulling segment length → (s.ports[p]).replies = r :: rest →
    ((s.ports[p]).progress = none ∧ pulled = 0) ∨ (∃ g, (s.ports[p]).progress = some g ∧ pulled = g.pulled) →
    total = 4 + r.body.length →
    (∃ t, exec (.segmentPulled e p) s = .next t ∧ OnlyChanges (.ports :: Field.elapsed) s t ∧
      (total ≤ pulled + length → t.ports = s.ports.set p { s.ports[p] with
        replies := rest, progress := none, transaction := .idle }) ∧
      (pulled + length < total → t.ports = s.ports.set p { s.ports[p] with
        progress := some { segment := segment, pulled := pulled + length }, transaction := .idle })) ∧
    ∃ t, exec (.transactionCutShort e p) s = .next t ∧
      t.ports = s.ports.set p { s.ports[p] with transaction := .idle }

/-- R180, R181, R182, R186: the silence timer takes an ONLINE port OFFLINE, and PORT_RESET acts on the port that sent
it, whatever room its replies leave. Either way the queues are emptied and the view takes its power-on values, but for
what a port that is still ONLINE is then shown; the authority passes to the head of the wait list, or falls vacant. A
segment being sent is cut: at least its last byte is returned as 0 (how many are sent: notes/assumptions/20.md). An
expiry lets the time up to its timer pass (notes/assumptions/5.md). -/
def Obligations.PortIsCleared : Prop := ∀ (p : Port) (s : State) (c : Instr) (q : PortRec) (d : Nat) (r : Request) (later : PortRec), q = s.ports[p] →
    (c = .silenceTimerExpiry p ∧ q.online = true ∧ q.silence = some d) ∨
      (c = .portReset p ∧ q.oldest = some (r, later) ∧ r.code = 115) →
    ∃ t, exec c s = .next t ∧ (t.ports[p]).shortQueue = [] ∧ (t.ports[p]).longQueue = [] ∧
      (t.ports[p]).progress = none ∧ (t.ports[p]).overrun = false ∧ (t.ports[p]).maxSegment = q.maxSegment ∧
      (t.ports[p]).silenceTime = q.silenceTime ∧ (t.views[p]).mask = BitVec.allOnes 32 ∧
      (t.views[p]).eventMask = BitVec.allOnes 9 ∧ (t.views[p]).lineEnable = false ∧
      (c = .silenceTimerExpiry p → (t.ports[p]).online = false ∧ (t.ports[p]).silence = none ∧
        (t.ports[p]).replies = [] ∧ t.views[p] = View.powerOn ∧ t.osc.now = max s.osc.now d) ∧
      (c = .portReset p → (t.ports[p]).online = q.online ∧ (t.ports[p]).silence = q.silence ∧
        (t.ports[p]).replies = [r.reply .done []] ∧ t.osc = s.osc) ∧
      (∀ segment length, q.transaction = .pulling segment length → 8 < q.dataOut.length →
        (t.ports[p]).transaction = .idle ∧ ∃ n ∈ List.range q.dataOut.length, 8 ≤ n ∧
          (t.ports[p]).dataOut = q.dataOut.take n ++ List.replicate (q.dataOut.length - n) 0) ∧
      ((∀ segment length, q.transaction ≠ .pulling segment length) → (t.ports[p]).transaction = q.transaction ∧
        (t.ports[p]).dataOut = q.dataOut) ∧
      (s.holder = some p → ∀ w rest, s.waitList = w :: rest →
        t.holder = some w.port ∧ t.waitList = rest ∧ t.hold.staging = []) ∧
      (s.holder = some p → s.waitList = [] → t.holder = none ∧ t.waitList = [] ∧ t.hold.staging = []) ∧
      (s.holder ≠ some p → t.holder = s.holder ∧ t.waitList = s.waitList.filter (fun w => w.port ≠ p) ∧
        t.hold = s.hold) ∧
      OnlyChanges (touches (.silenceTimerExpiry p)) s t

/-! ### Requests -/

/-- R24, R70, R90, R127, R154, R166: a read is executed as its port's oldest request, the reply to it carries the
fields that its rule lists, as they stand at the execution, and nothing else of the part changes. R24, R47, R70, R85,
R90, R104, R105, R127, R128, R129, R154, R155, R166, R188: the fields of those replies, in their order. The layout of
the replies beyond R189's order is the model's (notes/assumptions/9.md and 10.md). So are the request for one or all
(51.md), a pending amount beyond 8 bytes (42.md), a measured value or a time beyond the bytes of its kind (65.md and
66.md), the rounding of a time remaining (70.md), the free places of a port's queues (67.md), the codes of a pair
result (46.md), of a turn (57.md), of an output's owner (61.md) and of a port's state (63.md), and the pairing window
of an FQ slot (47.md). -/
def Obligations.ReadsAnswerAndChangeNothing : Prop :=
  (∀ (p : Port) (s u : State) (r : Request) (q : PortRec), u = s.setPort p q →
    (s.ready p 16 r q → r.body = [] → ∃ t, exec (.timeRead p) s = .next t ∧
      s.answered t p r q .done (beBytes 6 s.counter.sec ++ beBytes 8 s.counter.ps ++ beBytes 2 s.counter.frac ++
        beBytes 1 s.tb.state.code ++ beBytes 1 s.tb.grade.code ++ beInt 2 s.tb.utcOffset) ∧
      OnlyChanges [.ports] s t) ∧
    (s.ready p 17 r q → r.body = [] → ∃ t, exec (.stateRead p) s = .next t ∧
      s.answered t p r q .done (u.timebaseBody ++ u.loopBody ++ u.holdBody ++ u.authorityBody) ∧
      OnlyChanges [.ports] s t) ∧
    (∀ i : Slot, s.ready p 34 r q → r.body = [1, BitVec.ofNat 8 i.val] → ∃ t, exec (.refRead p) s = .next t ∧
      s.answered t p r q .done (u.refBody i ++ u.selectorBody) ∧ OnlyChanges [.ports] s t) ∧
    (s.ready p 34 r q → r.body = [0] → ∃ t, exec (.refRead p) s = .next t ∧
      s.answered t p r q .done ((List.finRange 8).flatMap u.refBody ++ u.selectorBody) ∧ OnlyChanges [.ports] s t) ∧
    (∀ n : Nat, s.ready p 49 r q → (r.body = 1 :: beBytes 4 n ∧ 1 ≤ n ∧ n ≤ 64) ∨ (r.body = [0] ∧ n = 64) →
      ∃ t, exec (.historyRead p) s = .next t ∧ s.answered t p r q .done (u.historyBody n) ∧
        OnlyChanges [.ports] s t) ∧
    (∀ i : EntryIx, s.ready p 70 r q → r.body = [1, BitVec.ofNat 8 i.val] → ∃ t, exec (.entryRead p) s = .next t ∧
      s.answered t p r q .done (u.entriesBody [i]) ∧ OnlyChanges [.ports] s t) ∧
    (s.ready p 70 r q → r.body = [0] → ∃ t, exec (.entryRead p) s = .next t ∧
      s.answered t p r q .done (u.entriesBody (List.finRange 64)) ∧ OnlyChanges [.ports] s t) ∧
    (∀ d : DropIx, s.ready p 82 r q → r.body = [1, BitVec.ofNat 8 d.val] → ∃ t, exec (.dropRead p) s = .next t ∧
      s.answered t p r q .done (u.dropBody d) ∧ OnlyChanges [.ports] s t) ∧
    (s.ready p 82 r q → r.body = [0] → ∃ t, exec (.dropRead p) s = .next t ∧
      s.answered t p r q .done ((List.finRange 8).flatMap u.dropBody) ∧ OnlyChanges [.ports] s t) ∧
    ∀ first n : Nat, s.ready p 97 r q → (r.body = [0] ∧ first = 0 ∧ n = 32) ∨
        (r.body = 1 :: beBytes 1 first ∧ first ≤ 31 ∧ n = 32) ∨ (r.body = 2 :: beBytes 4 n ∧ first = 0 ∧ 1 ≤ n ∧ n ≤ 32) ∨
        (r.body = 3 :: beBytes 1 first ++ beBytes 4 n ∧ first ≤ 31 ∧ 1 ≤ n ∧ n ≤ 32) →
      ∃ t, exec (.alarmRead p) s = .next t ∧ OnlyChanges [.ports] s t ∧ s.answered t p r q .done
        (((List.finRange 32).filter (fun i => first ≤ i.val ∧ i.val < first + n)).flatMap (u.alarmBody p) ++
          u.alarmTail p)) ∧
  ∀ (s : State) (p : Port),
    (∃ left : Option Nat, (s.tb.state ≠ .warmup → left = none) ∧
      (∀ d, s.tb.state = .warmup → s.osc.warmup = some d → left = some ((d - s.osc.now + 999999999) / 1000000000)) ∧
      s.timebaseBody = beBytes 1 s.tb.state.code ++ beBytes 1 s.tb.grade.code ++ boolBytes s.tb.traced ++
        optBytes s.tb.episode (fun x => beBytes 1 x.code) ++ optBytes s.tb.heldGrade (fun x => beBytes 1 x.code) ++
        boolBytes s.tb.force ++ optBytes s.tb.pendingStep (fun x => beInt 8 x.amount ++ beBytes 1 x.origin.code ++
          beBytes 6 x.due) ++ beInt 2 s.tb.utcOffset ++
        optBytes s.tb.leap (fun x => beBytes 6 x.effect ++ beInt 2 x.offset) ++ boolBytes s.tb.labelAdoption ++
        boolBytes s.aligned ++ beInt 4 s.tb.yFree ++ beBytes 1 s.osc.judgement.code ++ optBytes left (beBytes 4)) ∧
    s.loopBody = beBytes 1 s.loop.cls ++ beBytes 1 s.lp.trackingClass ++ beBytes 1 s.lp.assistClass ++
      beInt 8 s.loop.integ ++ beInt 4 s.loop.y ++
      optBytes (if s.tb.state = .fault then none else some s.tb.steer) (beInt 4) ++ boolBytes s.loop.freqLimit ++
      beBytes 4 s.loop.lockRun ++ beBytes 4 s.loop.lossRun ++ boolBytes s.loop.firstAcq ++
      optBytes s.loop.lastU (beInt 8) ++ optBytes s.loop.phi0 (beInt 8) ++ beInt 4 s.lp.yMax ++
      beInt 8 s.lp.stepThreshold ++ beBytes 1 s.lp.stepPolicy.code ++ beBytes 4 s.lp.lockThreshold ++
      beBytes 4 s.lp.lossThreshold ∧
    s.holdBody = beBytes 4 s.hold.history.length ++
      optBytes s.hold.history.getLast? (fun x => beInt 4 x.index) ++ boolBytes s.hold.acc.locked ++
      boolBytes s.hold.acc.disturbed ++ optBytes s.hold.episode (fun e => boolBytes e.closed.isSome ++
        optBytes e.closed (fun x => beBytes 1 x.code) ++ readingBytes e.opening ++ beInt 4 e.openingIndex ++
        beBytes 4 e.c ++ beInt 4 e.yH ++ beInt 4 e.drift ++ beInt 4 e.sigma ++ beInt 4 e.te0 ++ beInt 4 e.aging ++
        beInt 4 e.assistUncertainty ++ beBytes 4 e.mH ++ beBytes 4 e.mA ++ beInt 4 e.hee) ++
      beBytes 4 s.hp.guardRecords ++ beBytes 4 s.hp.recordCount ++ beInt 4 s.hp.spreadFloor ++ boolBytes s.hp.drift ++
      beInt 4 s.hp.driftLimit ++ beBytes 4 s.hp.lockNoise ++ beInt 4 s.hp.aging ++ beInt 4 s.hp.assistUncertainty ++
      beBytes 4 s.hp.t1 ++ beBytes 4 s.hp.t2 ++ beBytes 4 s.hp.t3 ++ beBytes 4 s.hold.staging.length ∧
    s.authorityBody = optBytes s.holder (fun x => beBytes 1 x.val) ++ beBytes 1 s.waitList.length ++
      s.waitList.flatMap (fun w => beBytes 1 w.port.val ++ beBytes 1 w.urgency) ++
      (List.finRange 4).flatMap (fun x => boolBytes (s.ports[x]).online ++
        beBytes 4 (8 - (s.ports[x]).shortQueue.length) ++ beBytes 4 (2 - (s.ports[x]).longQueue.length) ++
        beBytes 4 (4 - (s.ports[x]).replies.length)) ∧
    (∀ i : Slot, s.refBody i = beBytes 1 i.val ++ boolBytes (s.refs[i]).enabled ++ beBytes 1 (s.refs[i]).state.code ++
      beBytes 1 (s.refs[i]).score ++ beBytes 4 (s.refs[i]).streak ++
      optBytes (s.refs[i]).holdoff (fun x => beBytes 4 ((x - s.osc.now + 999999999) / 1000000000)) ++
      beBytes 1 (s.refs[i]).k ++
      optBytes (s.refs[i]).qualifiedSince (fun x => beBytes 4 ((s.osc.now - x) / 1000000000)) ++
      beBytes 1 (s.refs[i]).priority ++ optBytes (s.refs[i]).partner (fun x => beBytes 1 x.val) ++
      beBytes 4 (s.refs[i]).pairWindow ++
      optBytes (s.refs[i]).pairSample (fun x => beBytes 6 x.sec ++ beInt 8 x.e) ++
      optBytes (s.refs[i]).pairResult boolBytes ++
      optBytes (s.refs[i]).labelSample (fun x => beBytes 6 x.sec ++ beBytes 6 x.label) ++
      beBytes 1 (s.refs[i]).rankQuality ++
      optBytes (s.refs[i]).candidateSince (fun x => beBytes 4 ((s.osc.now - x) / 1000000000)) ++
      beBytes 4 (s.refs[i]).qualifyTime ++ beBytes 1 (s.refs[i]).threshold ++
      optBytes (s.refs[i]).latest (fun m => beBytes 1 m.slot.val ++ readingBytes m.time ++
        boolBytes (!m.causes.isEmpty) ++ causesBytes m.causes ++ optBytes m.e (beInt 8) ++ optBytes m.u (beInt 8) ++
        optBytes m.labelSec (beBytes 6) ++ optBytes m.quality (beBytes 1) ++
        optBytes m.status (fun x => beBytes 1 x.code) ++ optBytes m.utc (beInt 2) ++
        optBytes m.leap (fun x => beBytes 1 x.code) ++ optBytes m.leapSec (beBytes 6) ++
        optBytes (if m.slot = 0 ∨ m.slot = 1 then some m.straddles else none) boolBytes ++
        optBytes m.phi (beInt 8) ++ optBytes m.freq (beInt 4) ++ optBytes m.count (beBytes 4) ++
        optBytes m.noise (beBytes 4) ++ optBytes m.interval (beBytes 1)) ++
      beBytes 4 (s.refs[i]).goodCount ++ beBytes 4 (s.refs[i]).badCount ++ beBytes 4 (s.refs[i]).conflictCount ++
      s.paramBytes i ++ boolBytes (s.phaseCandidate i) ++ boolBytes (s.assistCandidate i) ++
      (if h : i.val < 2 then beBytes 4 (s.ta[i.val]).stray else [])) ∧
    (∀ i : InputIx, s.paramBytes ⟨i.val, by omega⟩ = beBytes 1 (s.ta[i]).params.edge.code ++
        beInt 8 (s.ta[i]).params.compensation ++ beBytes 4 (s.ta[i]).params.window ++
        beBytes 4 (s.ta[i]).params.jumpLimit ∧
      s.paramBytes ⟨i.val + 2, by omega⟩ = beBytes 4 (s.fq[i]).params.nominal ++ beInt 4 (s.fq[i]).params.accept) ∧
    (∀ x : Port, s.paramBytes ⟨x.val + 4, by omega⟩ =
      beInt 8 (s.ofs[x]).params.noiseLimit ++ beBytes 1 (s.ofs[x]).params.minQuality) ∧
    s.selectorBody = optBytes s.sel.phase (fun x => beBytes 1 x.val) ++ optBytes s.sel.assist (fun x => beBytes 1 x.val) ++
      beBytes 1 s.sel.mode.code ++ beBytes 4 s.sel.wtr ++ optBytes s.sel.force (fun x => beBytes 1 x.val) ∧
    (∀ n : Nat, s.historyBody n = beBytes 4 s.hold.history.length ++
      (s.hold.history.drop (s.hold.history.length - n)).flatMap (fun r => beInt 4 r.index ++ beInt 4 r.mean ++
        beInt 2 r.least ++ beInt 2 r.greatest ++ beBytes 1 r.samples ++ beBytes 1 r.slot ++ beBytes 1 r.cls ++
        beBytes 1 ((if r.disturbed then 1 else 0) + if r.restored then 2 else 0)) ++
      beInt 4 s.tb.minuteIndex ++ boolBytes s.hold.acc.locked ++ boolBytes s.hold.acc.disturbed ++
      beBytes 4 s.hold.acc.count ++
      optBytes (if 1 ≤ s.hold.acc.count then some (s.hold.acc.sum / (s.hold.acc.count : Int)) else none) (beInt 4) ++
      beBytes 4 s.hold.staging.length) ∧
    (∀ l : List EntryIx, s.entriesBody l = l.flatMap s.entryBody ++
      (List.finRange 14).flatMap (fun x => beBytes 1 (portCode (s.outputOwner
        (if h : x.val < 8 then .drop ⟨x.val, h⟩ else .px ⟨x.val - 8, by omega⟩)))) ++
      (List.finRange 6).flatMap (fun x => beBytes 4 (s.px[x]).compensation ++ boolBytes (s.px[x]).until_.isSome) ++
      beBytes 1 s.sched.pointer.val ++
      beBytes 4 (match s.sched.overrunHold with
        | some x => (x - s.osc.now + 999999999) / 1000000000
        | none => 0) ++ beBytes 1 s.sched.gradeUsed.code ++ beBytes 4 s.sched.unitsNow) ∧
    (∀ i : EntryIx, (s.entries[i] = none → s.entryBody i = beBytes 1 i.val ++ beBytes 1 0) ∧
      ∀ e, s.entries[i] = some e → ∃ link, s.entryBody i = beBytes 1 i.val ++ beBytes 1 e.state.code ++
        beBytes 1 e.owner.val ++ beBytes 1 e.fields.kind.code ++ beBytes 1 e.fields.target.code ++ link ++
        optBytes e.fields.width (beBytes 4) ++ optBytes e.fields.squelch (fun x => beBytes 1 x.code) ++
        beBytes 4 e.emitted ++ beBytes 4 e.skipped ++ beBytes 4 e.suppressed ∧
        (∀ period offset start stop, e.fields.link = .anchor period offset start stop →
          link = beBytes 1 0 ++ (beBytes 1 1 ++ beBytes 4 period) ++ (beBytes 1 1 ++ beBytes 4 offset) ++
            optBytes start (beBytes 6) ++ optBytes stop (beBytes 6) ++ [0, 0, 0]) ∧
        ∀ a rel divider phase, e.fields.link = .relative a rel divider phase →
          link = beBytes 1 1 ++ beBytes 1 a.val ++ [0, 0, 0, 0] ++ (beBytes 1 1 ++ beInt 4 rel) ++
            (beBytes 1 1 ++ beBytes 1 divider) ++ (beBytes 1 1 ++ beBytes 1 phase)) ∧
    (∀ (d : DropIx) (r : DropRec) (q : Profile), r = s.drops[d] → q = s.profiles[r.profile] →
      ∃ turn, (r.turn = .isIn → turn = beBytes 1 0) ∧
        (∀ start m limit t1 maxRtt, r.turn = .out start m limit t1 maxRtt → turn = beBytes 1 1 ++
          readingBytes (stampReading start) ++ beBytes 1 (if m = .probe then 0 else 1)) ∧
        s.dropBody d = beBytes 1 (portCode r.owner) ++ boolBytes r.enabled ++ beBytes 1 r.state.code ++
          beBytes 1 r.profile.val ++ optBytes r.expected (beBytes 8) ++ optBytes r.joined (beBytes 8) ++
          optBytes r.refused (beBytes 8) ++ boolBytes r.compact ++ beBytes 1 r.ring.length ++
          r.ring.flatMap (beInt 8) ++ beInt 8 r.delay ++ beBytes 4 r.failRun ++ turn ++ beBytes 4 r.backlog ++
          beBytes 4 r.placed ++ optBytes r.lastFullUpper (beBytes 4) ++ optBytes r.lastFullOffset (beInt 2) ++
          beBytes 4 r.annCounter ++ boolBytes r.stepFlag ++ optBytes r.annTimer (beBytes 4) ++
          optBytes r.probeTimer (beBytes 4) ++ optBytes r.offerTimer (beBytes 4) ++ boolBytes r.probeDue ++
          boolBytes r.offerDue ++ optBytes r.probeDueSince readingBytes ++
          optBytes r.unitStatus (fun x => beBytes 1 x.code) ++
          optBytes r.newestResult (fun x => readingBytes (stampReading x)) ++
          optBytes (if r.probeDue then r.probeDueSince.map (fun x =>
            elapsed x.instant s.counter.instant / 1000000000) else none) (beBytes 4) ++
          [r.offersSent, r.joinsAccepted, r.joinsRefused, r.probesSent, r.validExchanges, r.failNoEcho, r.failCheck,
            r.failRange, r.failWrongReply, r.failContention, r.contentions, r.aborted, r.fullSent, r.shortSent,
            r.unsent].flatMap (beBytes 4) ++
          beBytes 1 q.squelch.code ++ beBytes 4 q.announceInterval ++ beBytes 1 q.fullEvery ++ beInt 8 q.asymmetry ++
          beInt 8 q.fixedDelay ++ beBytes 4 q.tolerance ++ beInt 8 q.maxRtt ++ beBytes 4 q.probeInterval ++
          beBytes 4 q.offerInterval ++ beBytes 4 q.turnLimit) ∧
    (∀ (i : AlarmIx) (a : AlarmRec) (v : View), a = s.alarms[i] → v = s.views[p] →
      ∃ flags left : Nat, flags = (if a.condition then 1 else 0) + (if a.timer.isSome then 2 else 0) +
          (if a.lastRaise.isSome then 4 else 0) + (if a.lastClear.isSome then 8 else 0) +
          (if v.mask.getLsbD i.val then 16 else 0) + (if v.unseen.getLsbD i.val then 32 else 0) ∧
        (a.timer = none → left = 0) ∧ (∀ x, a.timer = some x → left = (x - s.osc.now + 999999) / 1000000) ∧
        s.alarmBody p i = beBytes 1 i.val ++ beBytes 1 flags ++ beBytes 1 a.state.code ++ beBytes 1 a.severity.code ++
          beBytes 1 a.raisePersistence ++ beBytes 2 a.clearPersistence ++ beBytes 4 left ++ beBytes 2 a.raiseCount ++
          [a.lastRaise, a.lastClear].flatMap (fun x => beBytes 6 ((x.map (·.sec)).getD 0) ++
            beBytes 4 ((x.map (·.ps / 1000)).getD 0))) ∧
    s.alarmTail p = boolBytes s.almCrit ++ boolBytes s.almMaj ++ boolBytes (s.views[p]).lineEnable ++
      beBytes 2 (s.views[p]).eventMask.toNat ++ boolBytes (s.views[p]).attn ++
      beBytes 1 (if (s.views[p]).topUnseen < 32 then (s.views[p]).topUnseen else 255)

/-- R17: TIME_STEP from the holder, outside FAULT, with no step pending and an amount of 1 to 10^15 ps in magnitude,
makes a pending step of manual origin, due at the next second boundary when 10 ms remain and at the one after when
fewer do. Each check, in its order, refuses it otherwise, with no effect but the reply. R21, R22: LEAP_SET from the
holder with its parts in range sets each part that it carries and leaves the others; an effect second not later than
the counter's, or an offset out of range, refuses it whole. Bodies and replies: notes/assumptions/8.md to 10.md. -/
def Obligations.TimeRequestsTakeEffect : Prop :=
  (∀ (p : Port) (s : State) (r : Request) (q : PortRec) (a : Int), s.ready p 18 r q → r.body = beInt 8 a →
    -(2 ^ 63) ≤ a → a < 2 ^ 63 → ∃ t, exec (.timeStep p) s = .next t ∧
      (s.holder ≠ some p → s.answered t p r q .notHolder [] ∧ OnlyChanges [.ports] s t) ∧
      (s.holder = some p → s.tb.state = .fault → s.answered t p r q .wrongState [] ∧ OnlyChanges [.ports] s t) ∧
      (s.holder = some p → s.tb.state ≠ .fault → a = 0 ∨ 1000000000000000 < a.natAbs →
        s.answered t p r q .badValue [] ∧ OnlyChanges [.ports] s t) ∧
      (s.holder = some p → s.tb.state ≠ .fault → a ≠ 0 → a.natAbs ≤ 1000000000000000 → s.tb.pendingStep ≠ none →
        s.answered t p r q .busy [] ∧ OnlyChanges [.ports] s t) ∧
      (s.holder = some p → s.tb.state ≠ .fault → a ≠ 0 → a.natAbs ≤ 1000000000000000 → s.tb.pendingStep = none →
        s.answered t p r q .done [] ∧ OnlyChanges [.ports, .tb] s t ∧ t.tb = { s.tb with
          pendingStep := some
            { amount := a, origin := .manual
              due := (if s.counter.ps * 65536 + s.counter.frac ≤ 990000000000 * 65536 then s.counter.sec + 1
                else s.counter.sec + 2) % 2 ^ 48 } })) ∧
  ∀ (p : Port) (s : State) (r : Request) (q : PortRec) (v : LeapSetParts), s.ready p 19 r q →
    parseLeapSet r.body = some v → s.holder = some p →
    ∃ t, exec (.leapSet p) s = .next t ∧
      ((∀ x, v.utc = some x → -32768 ≤ x ∧ x ≤ 32767) → (∀ x, v.adoption = some x → x = 0 ∨ x = 1) →
        (∀ effect offset, v.leap = some (.set effect offset) →
          s.counter.sec < effect ∧ -32768 ≤ offset ∧ offset ≤ 32767) →
        s.answered t p r q .done [] ∧ OnlyChanges [.ports, .tb] s t ∧
          ∃ utc leap adoption, t.tb = { s.tb with utcOffset := utc, leap := leap, labelAdoption := adoption } ∧
            (∀ x, v.utc = some x → utc = x) ∧ (v.utc = none → utc = s.tb.utcOffset) ∧
            (v.leap = none → leap = s.tb.leap) ∧ (v.leap = some .cancel → leap = none) ∧
            (∀ effect offset, v.leap = some (.set effect offset) →
              leap = some { effect := effect, offset := offset }) ∧
            (∀ x, v.adoption = some x → adoption = decide (x = 1)) ∧
            (v.adoption = none → adoption = s.tb.labelAdoption)) ∧
      ((∃ effect offset, v.leap = some (.set effect offset) ∧ effect ≤ s.counter.sec) →
        s.answered t p r q .badValue [] ∧ OnlyChanges [.ports] s t)

/-- R26, R48, R49, R63: REF_SET enables and disables a record and sets the record parts and the measurement parameters
that it carries, and no others; a new edge, compensation, nominal frequency or partner takes what rested on the old
one. SELECT_SET sets the mode and the wait that it carries. SELECT_FORCE sets a slot, which is then the selection
while its record is QUALIFIED, or clears the force. Bodies and replies: notes/assumptions/8.md to 10.md. That REF_SET
changes the pairing window of an FQ slot is the model's choice (47.md). -/
def Obligations.ReferenceRequestsTakeEffect : Prop := (∀ (p : Port) (s : State) (r : Request) (q : PortRec) (v : RefSetParts) (i : Slot), s.ready p 33 r q →
    parseRefSet r.body = some v → s.holder = some p → v.slot = i.val → v.badRecord = false →
    badPartner i v.partner = false → v.badParams i = false →
    ∃ t, exec (.refSet p) s = .next t ∧ s.answered t p r q .done [] ∧
      ((t.refs[i]).priority : Int) = v.priority.getD (s.refs[i]).priority ∧
      ((t.refs[i]).threshold : Int) = v.threshold.getD (s.refs[i]).threshold ∧
      ((t.refs[i]).qualifyTime : Int) = v.qualifyTime.getD (s.refs[i]).qualifyTime ∧
      ((t.refs[i]).pairWindow : Int) = v.pairWindow.getD (s.refs[i]).pairWindow ∧
      (v.partner = none → (t.refs[i]).partner = (s.refs[i]).partner) ∧
      (v.partner = some .clear → (t.refs[i]).partner = none) ∧
      (∀ j : Slot, v.partner = some (.slot j.val) → (t.refs[i]).partner = some j) ∧
      ((t.refs[i]).partner ≠ (s.refs[i]).partner → (t.refs[i]).pairResult = none ∧ (t.refs[i]).pairSample = none) ∧
      (∀ j : InputIx, i.val = j.val →
        ((t.ta[j]).params.edge.code : Int) = v.edge.getD (s.ta[j]).params.edge.code ∧
        (t.ta[j]).params.compensation = v.compensation.getD (s.ta[j]).params.compensation ∧
        ((t.ta[j]).params.window : Int) = v.window.getD (s.ta[j]).params.window ∧
        ((t.ta[j]).params.jumpLimit : Int) = v.jumpLimit.getD (s.ta[j]).params.jumpLimit ∧
        ((t.ta[j]).params.edge ≠ (s.ta[j]).params.edge →
          (t.ta[j]).period = none ∧ (t.ta[j]).prevEdge = none ∧ (t.ta[j]).jumpRef = none) ∧
        ((t.ta[j]).params.compensation ≠ (s.ta[j]).params.compensation → (t.ta[j]).jumpRef = none)) ∧
      (∀ j : InputIx, i.val = j.val + 2 →
        ((t.fq[j]).params.nominal : Int) = v.nominal.getD (s.fq[j]).params.nominal ∧
        (t.fq[j]).params.accept = v.accept.getD (s.fq[j]).params.accept ∧
        ((t.fq[j]).params.nominal ≠ (s.fq[j]).params.nominal → (s.refs[i]).enabled = true →
          (t.fq[j]).origin = none ∧ (t.fq[j]).phis = [])) ∧
      (∀ j : Port, i.val = j.val + 4 → (t.ofs[j]).params.noiseLimit = v.noiseLimit.getD (s.ofs[j]).params.noiseLimit ∧
        ((t.ofs[j]).params.minQuality : Int) = v.minQuality.getD (s.ofs[j]).params.minQuality) ∧
      (v.enable = some 1 → (s.refs[i]).enabled = false → (t.refs[i]).enabled = true ∧ (t.refs[i]).state = .absent ∧
        (t.refs[i]).goodCount = 0 ∧ (t.refs[i]).badCount = 0) ∧
      (v.enable = some 0 → (s.refs[i]).enabled = true → (t.refs[i]).enabled = false ∧
        (t.refs[i]).state = .disabled ∧ (t.refs[i]).score = 0 ∧ (t.refs[i]).streak = 0 ∧ (t.refs[i]).k = 0) ∧
      (v.enable = none → (t.refs[i]).enabled = (s.refs[i]).enabled) ∧
      (∀ j : Slot, j ≠ i → (t.refs[j]).state = (s.refs[j]).state ∧ (t.refs[j]).enabled = (s.refs[j]).enabled ∧
        (t.refs[j]).priority = (s.refs[j]).priority) ∧
      OnlyChanges (touches (.refSet p)) s t) ∧
  (∀ (p : Port) (s : State) (r : Request) (q : PortRec) (mode wtr : Nat), s.ready p 35 r q →
    s.holder = some p → (r.body = 3 :: beBytes 1 mode ++ beBytes 4 wtr ∧ mode ≤ 1 ∧ wtr ≤ 3600) ∨
      (r.body = 1 :: beBytes 1 mode ∧ mode ≤ 1 ∧ wtr = s.sel.wtr) ∨
      (r.body = 2 :: beBytes 4 wtr ∧ wtr ≤ 3600 ∧ mode = s.sel.mode.code) ∨
      (r.body = [0] ∧ mode = s.sel.mode.code ∧ wtr = s.sel.wtr) →
    ∃ t, exec (.selectSet p) s = .next t ∧ s.answered t p r q .done [] ∧ t.sel.wtr = wtr ∧
      t.sel.mode = (if mode = 1 then .revertive else .nonRevertive) ∧ t.sel.force = s.sel.force ∧
      OnlyChanges (touches (.selectSet p)) s t) ∧
  (∀ (p : Port) (s : State) (r : Request) (q : PortRec), s.ready p 36 r q → r.body = [0] → s.holder = some p →
    ∃ t, exec (.selectForce p) s = .next t ∧ s.answered t p r q .done [] ∧ t.sel.force = none ∧
      t.sel.mode = s.sel.mode ∧ t.sel.wtr = s.sel.wtr ∧ OnlyChanges (touches (.selectForce p)) s t) ∧
  ∀ (p : Port) (s : State) (r : Request) (q : PortRec) (i : Slot), s.ready p 36 r q →
    r.body = [1, BitVec.ofNat 8 i.val] → s.holder = some p → (i.val < 2 ∨ 4 ≤ i.val) →
    ∃ t, exec (.selectForce p) s = .next t ∧ s.answered t p r q .done [] ∧ t.sel.force = some i ∧
      t.sel.phase = (if (s.refs[i]).state = .qualified then some i else none) ∧ t.sel.mode = s.sel.mode ∧
      OnlyChanges (touches (.selectForce p)) s t

/-- R72, R77, R84, R99, R103: LOOP_SET from the holder with every value in range and the thresholds that would stand
in order: each parameter takes the value that it carries for it and keeps its own otherwise; a class above 6 is held
to 6 and the reply is CLAMPED; Ymax takes hold of the loop, its integrator and the steer value at once; a traced
episode has its grade formed again by the new thresholds. Bodies and replies: notes/assumptions/8.md to 10.md. The
steer value of WARMUP and FREERUN: 23.md. -/
def Obligations.LoopSetTakesHold : Prop := ∀ (p : Port) (s : State) (r : Request) (q : PortRec) (v : LoopSetParts) (lp : LoopParams) (hp : HoldParams),
    s.ready p 48 r q → parseLoopSet r.body = some v → s.holder = some p → v.bad = false →
    lp = v.loopParams s.lp → hp = v.holdParams s.hp → lp.lockThreshold < lp.lossThreshold → hp.t1 < hp.t2 →
    hp.t2 < hp.t3 → s.steerBounded →
    ∃ t, exec (.loopSet p) s = .next t ∧
      s.answered t p r q
        (if (∃ c, v.tracking = some c ∧ 6 < c) ∨ ∃ c, v.assist = some c ∧ 6 < c then .clamped else .done) [] ∧
      t.lp = lp ∧ t.hp = hp ∧ (∀ c, v.tracking = some c → (lp.trackingClass : Int) = min 6 c) ∧
      (v.tracking = none → lp.trackingClass = s.lp.trackingClass) ∧
      (∀ c, v.assist = some c → (lp.assistClass : Int) = min 6 c) ∧
      (v.assist = none → lp.assistClass = s.lp.assistClass) ∧ lp.yMax = v.yMax.getD s.lp.yMax ∧
      lp.stepThreshold = v.stepThreshold.getD s.lp.stepThreshold ∧
      (lp.stepPolicy.code : Int) = v.stepPolicy.getD s.lp.stepPolicy.code ∧
      (lp.lockThreshold : Int) = v.lockThreshold.getD s.lp.lockThreshold ∧
      (lp.lossThreshold : Int) = v.lossThreshold.getD s.lp.lossThreshold ∧
      (hp.guardRecords : Int) = v.guardRecords.getD s.hp.guardRecords ∧
      (hp.recordCount : Int) = v.recordCount.getD s.hp.recordCount ∧
      hp.spreadFloor = v.spreadFloor.getD s.hp.spreadFloor ∧
      (hp.drift = true ↔ v.drift = some 1 ∨ v.drift = none ∧ s.hp.drift = true) ∧
      hp.driftLimit = v.driftLimit.getD s.hp.driftLimit ∧ (hp.lockNoise : Int) = v.lockNoise.getD s.hp.lockNoise ∧
      hp.aging = v.aging.getD s.hp.aging ∧ hp.assistUncertainty = v.assistUncertainty.getD s.hp.assistUncertainty ∧
      (hp.t1 : Int) = v.t1.getD s.hp.t1 ∧ (hp.t2 : Int) = v.t2.getD s.hp.t2 ∧ (hp.t3 : Int) = v.t3.getD s.hp.t3 ∧
      (∀ e, s.tb.state = .holdover ∨ s.tb.state = .assisted → s.tb.episode = some .traced → s.hold.episode = some e →
        t.tb.grade = (if e.hee ≤ hp.t1 then .hold1 else if e.hee ≤ hp.t2 then .hold2
          else if e.hee ≤ hp.t3 then .hold3 else .hold4)) ∧
      t.loop.integ = max (-(lp.yMax * 65536)) (min (lp.yMax * 65536) s.loop.integ) ∧
      (lp.trackingClass < s.loop.cls → t.loop.cls = lp.trackingClass ∧ t.hold.acc.disturbed = true) ∧
      (s.loop.cls ≤ lp.trackingClass → t.loop.cls = s.loop.cls) ∧
      t.loop.y = max (-lp.yMax) (min lp.yMax s.loop.y) ∧
      (s.tb.state = .warmup ∨ s.tb.state = .freerun → t.tb.steer = max (-lp.yMax) (min lp.yMax s.tb.yFree)) ∧
      (s.tb.state ≠ .warmup → s.tb.state ≠ .freerun → t.tb.steer = max (-lp.yMax) (min lp.yMax s.tb.steer)) ∧
      t.tb.state = s.tb.state ∧ OnlyChanges (touches (.loopSet p)) s t

/-- R12, R100: HOLDOVER_FORCE on takes a LOCKED or ACQUIRING timebase away from its phase reference; off lets it go
back to one that is selected. R94, R95, R96, R97: a traced timebase that loses its phase reference with no assist
reference opens an episode. The frequency held is the mean of the means of the newest undisturbed records past the
guard, or the steer value in force without one; the steer value is that frequency, and each minute moves it by the
drift. Bodies and replies: notes/assumptions/8.md to 10.md. -/
def Obligations.HoldoverIsForcedAndHeld : Prop :=
  ((∀ (p : Port) (s : State) (r : Request) (q : PortRec), s.ready p 51 r q → r.body = [1] → s.holder = some p →
    s.tb.force = false →
    ∃ t, exec (.holdoverForce p) s = .next t ∧ s.answered t p r q .done [] ∧ t.tb.force = true ∧
      (s.tb.state = .locked ∨ s.tb.state = .acquiring → s.sel.assist ≠ none → t.tb.state = .assisted) ∧
      (s.tb.state = .locked ∨ s.tb.state = .acquiring → s.sel.assist = none → s.tb.traced = true →
        t.tb.state = .holdover) ∧
      (s.tb.state = .locked ∨ s.tb.state = .acquiring → s.sel.assist = none → s.tb.traced = false →
        t.tb.state = .freerun) ∧
      (s.tb.state ≠ .locked → s.tb.state ≠ .acquiring → t.tb.state = s.tb.state) ∧
      OnlyChanges (touches (.holdoverForce p)) s t) ∧
  ∀ (p : Port) (s : State) (r : Request) (q : PortRec), s.ready p 51 r q → r.body = [0] → s.holder = some p →
    s.tb.force = true →
    ∃ t, exec (.holdoverForce p) s = .next t ∧ s.answered t p r q .done [] ∧ t.tb.force = false ∧
      (s.sel.phase ≠ none → s.tb.state = .freerun ∨ s.tb.state = .holdover ∨ s.tb.state = .assisted →
        t.tb.state = .acquiring ∧ t.loop.cls = 0 ∧ t.tb.heldGrade = some s.tb.grade ∧ t.tb.episode = none) ∧
      (s.sel.phase = none ∨ s.tb.state = .warmup ∨ s.tb.state = .acquiring ∨ s.tb.state = .locked ∨
        s.tb.state = .fault → t.tb.state = s.tb.state)) ∧
  (∀ (s : State) (taken : List MinuteRecord), s.tb.state = .locked ∨ s.tb.state = .acquiring → s.sel.assist = none →
    s.tb.traced = true → s.tb.episode = none →
    taken = newestClean s.hp.recordCount (s.hold.history.take (s.hold.history.length - s.hp.guardRecords)) →
    s.phaseGone.tb.state = .holdover ∧ s.phaseGone.tb.episode = some .traced ∧
      ∃ e, s.phaseGone.hold.episode = some e ∧ e.closed = none ∧ e.opening = s.counter ∧ e.c = taken.length ∧
        e.mH = 0 ∧ e.mA = 0 ∧
        (taken = [] → e.yH = s.tb.steer) ∧
        (taken ≠ [] → e.yH = (taken.map (·.mean)).sum / (taken.length : Int)) ∧
        (taken.length ≤ 1 → e.sigma = 1000) ∧ (taken.length < 4 ∨ s.hp.drift = false → e.drift = 0) ∧
        s.phaseGone.tb.steer = max (-s.lp.yMax) (min s.lp.yMax e.yH)) ∧
    ∀ (s : State) (e : EpisodeRecord), s.tb.state = .holdover → s.tb.episode = some .traced →
      s.hold.episode = some e →
      (s.episodeMinute.tb.steer = max (-s.lp.yMax) (min s.lp.yMax (e.yH + e.drift * ((e.mH + 1 : Nat) : Int) / 60))) ∧
        ∃ f, s.episodeMinute.hold.episode = some f ∧ f.mH = e.mH + 1 ∧ f.mA = e.mA ∧
          f.hee = min 4294967295 (e.te0 + e.sigma * 60 * ((e.mH + 1 : Nat) : Int) / 1000 +
            e.aging * (((e.mH + 1 : Nat) : Int) * ((e.mH + 1 : Nat) : Int)) / 2000 +
            e.assistUncertainty * 60 * (e.mA : Int) / 1000)

/-- R91, R92: HISTORY_RESTORE from the holder, in WARMUP or FREERUN, of records that are in range and in rising index.
A FIRST part is staged and a NEXT part joins what is staged. An ONLY part places its records, and a LAST part what is
staged with its own behind: the newest at index −1, all marked restored, and their mean is the frequency of FREERUN,
held to Ymax. The reply carries the number staged or placed. A NEXT or LAST part with nothing staged is refused.
Bodies and replies: notes/assumptions/8.md to 10.md. -/
def Obligations.HistoryRestorePlacesRecords : Prop := ∀ (p : Port) (s : State) (r : Request) (q : PortRec) (v : RestoreParts) (joined : Bool) (l : List MinuteRecord),
    s.ready p 50 r q → parseRestore r.body = some v → s.holder = some p → s.tb.state = .warmup ∨ s.tb.state = .freerun →
    0 ≤ v.marker ∧ v.marker ≤ 3 → joined = decide (v.marker = 2 ∨ v.marker = 3) →
    l = (if joined then s.hold.staging ++ v.records else v.records) → l.length ≤ 64 →
    (∀ x ∈ v.records, -50000000 ≤ x.mean ∧ x.mean ≤ 50000000 ∧ x.slot ≤ 7 ∧ x.cls ≤ 6) →
    indicesRise l → indexSpan l ≤ 2147483647 →
    ∃ t, exec (.historyRestore p) s = .next t ∧
      (joined = true → s.hold.staging = [] → s.answered t p r q .wrongState [] ∧ OnlyChanges [.ports] s t) ∧
      (joined = false ∨ s.hold.staging ≠ [] → s.answered t p r q .done (beBytes 4 l.length) ∧
        (v.marker = 1 ∨ v.marker = 2 → t.hold = { s.hold with staging := l } ∧ t.tb = s.tb) ∧
        (v.marker = 0 ∨ v.marker = 3 → t.hold.staging = [] ∧ t.hold.history.length = l.length ∧
          (∀ x ∈ t.hold.history, x.restored = true ∧ x.index ≤ -1 ∧ x.least ≤ 0 ∧ 0 ≤ x.greatest ∧ 1 ≤ x.samples) ∧
          (t.hold.history.getLast?).map (·.index) = some (-1) ∧
          t.hold.history.map (·.mean) = l.map (·.mean) ∧
          (l.length ≤ 16 → (∀ x ∈ l, x.disturbed = false) →
            t.tb.yFree = (l.map (·.mean)).sum / (l.length : Int)) ∧
          t.tb.steer = max (-s.lp.yMax) (min s.lp.yMax t.tb.yFree))) ∧
      OnlyChanges [.ports, .hold, .tb] s t

/-- R106, R111, R112, R113, R114, R116: the requests of the emission table, from the port that owns the target and the
entry. A definition takes the lowest FREE entry; a change replaces the fields of an IDLE or ENDED entry, but an anchor
that has relatives may not become one, nor take a period that one of them would break; an anchor started waits for its
start second, and a relative started takes the state of its anchor, which must run; a stop takes its train to IDLE; a
free one has nothing left. Bodies and replies: notes/assumptions/8.md to 10.md. An entry may not follow itself
(22.md); the link part is a selector (62.md). -/
def Obligations.EntryRequestsTakeEffect : Prop := (∀ (p : Port) (s : State) (r : Request) (q : PortRec) (v : EntryParts) (kind : EntryKind) (o : Output)
    (f : EntryFields), s.ready p 65 r q → parseEntryDefine r.body = some v → matchingTarget v.kind v.target = some (kind, o) →
    s.outputOwner o = some p → s.anchorNotOwned p v.anchor = false → s.fieldsOf v kind o none = some f →
    ∃ t, exec (.entryDefine p) s = .next t ∧
      ((∀ i : EntryIx, s.entries[i] ≠ none) → s.answered t p r q .tableFull [] ∧ OnlyChanges [.ports] s t) ∧
      ∀ i : EntryIx, s.entries[i] = none → (∀ j : EntryIx, j < i → s.entries[j] ≠ none) →
        s.answered t p r q .done [BitVec.ofNat 8 i.val] ∧ OnlyChanges [.ports, .entries] s t ∧
          t.entries = s.entries.set i (some
            { state := .idle, owner := p, fields := f, emitted := 0, skipped := 0, suppressed := 0 })) ∧
  (∀ (p : Port) (s : State) (r : Request) (q : PortRec) (v : EntryParts) (i : EntryIx) (e : Entry) (kind : EntryKind)
    (o : Output) (f : EntryFields), s.ready p 66 r q → parseEntryChange r.body = some ((i.val : Int), v) →
    s.entries[i] = some e → e.owner = p → e.state = .idle ∨ e.state = .ended →
    matchingTarget v.kind v.target = some (kind, o) → s.outputOwner o = some p → s.anchorNotOwned p v.anchor = false →
    s.fieldsOf v kind o (some i) = some f →
    ∃ t, exec (.entryChange p) s = .next t ∧
      (s.hasRelative i = false ∨ (∃ period offset start stop, f.link = .anchor period offset start stop ∧
          ∀ (j : EntryIx) (x : Entry) (rel : Int) (divider phase : Nat), s.entries[j] = some x →
            x.fields.link = .relative i rel divider phase → rel.natAbs < period * 1000 ∧
              ∀ w, x.fields.width = some w → w < period * 1000) →
        s.answered t p r q .done [] ∧ OnlyChanges [.ports, .entries] s t ∧
          t.entries = s.entries.set i (some
            { state := e.state, owner := p, fields := f, emitted := 0, skipped := 0, suppressed := 0 })) ∧
      (∀ (a : EntryIx) (rel : Int) (divider phase : Nat), s.hasRelative i = true →
        f.link = .relative a rel divider phase → s.answered t p r q .inUse [] ∧ OnlyChanges [.ports] s t) ∧
      (∀ (period offset : Nat) (start stop : Option Nat), f.link = .anchor period offset start stop →
        (∃ (j : EntryIx) (x : Entry) (rel : Int) (divider phase : Nat), s.entries[j] = some x ∧
          x.fields.link = .relative i rel divider phase ∧
            (period * 1000 ≤ rel.natAbs ∨ ∃ w, x.fields.width = some w ∧ period * 1000 ≤ w)) →
        s.answered t p r q .badValue [] ∧ OnlyChanges [.ports] s t)) ∧
  (∀ (p : Port) (s : State) (r : Request) (q : PortRec) (i : EntryIx) (e : Entry) (period offset : Nat)
    (start stop : Option Nat), s.ready p 67 r q → r.body = [BitVec.ofNat 8 i.val] → s.entries[i] = some e →
    e.owner = p → e.state = .idle → e.fields.link = .anchor period offset start stop →
    (∀ x, stop = some x → s.counter.sec < x) →
    ∃ t, exec (.entryStart p) s = .next t ∧ s.answered t p r q .done [] ∧ OnlyChanges [.ports, .entries] s t ∧
      t.entries = s.entries.set i (some { e with
        state := if ∃ x, start = some x ∧ s.counter.sec < x then .waiting else .running })) ∧
  (∀ (p : Port) (s : State) (r : Request) (q : PortRec) (i a : EntryIx) (e anchor : Entry) (rel : Int)
    (divider phase : Nat), s.ready p 67 r q → r.body = [BitVec.ofNat 8 i.val] → s.entries[i] = some e →
    e.owner = p → e.state = .idle → e.fields.link = .relative a rel divider phase → s.entries[a] = some anchor →
    ∃ t, exec (.entryStart p) s = .next t ∧
      (anchor.state = .waiting ∨ anchor.state = .running → s.answered t p r q .done [] ∧
        OnlyChanges [.ports, .entries] s t ∧ t.entries = s.entries.set i (some { e with state := anchor.state })) ∧
      (anchor.state = .idle ∨ anchor.state = .ended → s.answered t p r q .wrongState [] ∧
        OnlyChanges [.ports] s t)) ∧
  (∀ (p : Port) (s : State) (r : Request) (q : PortRec) (i : EntryIx) (e : Entry), s.ready p 68 r q →
    r.body = [BitVec.ofNat 8 i.val] → s.entries[i] = some e → e.owner = p →
    ∃ t, exec (.entryStop p) s = .next t ∧ s.answered t p r q .done [] ∧ OnlyChanges [.ports, .entries] s t ∧
      t.entries[i] = some { e with state := .idle } ∧
      ∀ (j : EntryIx) (x : Entry), j ≠ i → s.entries[j] = some x →
        t.entries[j] = some (if (e.state = .waiting ∨ e.state = .running) ∧ x.follows i = true ∧
          (x.state = .waiting ∨ x.state = .running) then { x with state := .idle } else x)) ∧
  ∀ (p : Port) (s : State) (r : Request) (q : PortRec) (i : EntryIx) (e : Entry), s.ready p 69 r q →
    r.body = [BitVec.ofNat 8 i.val] → s.entries[i] = some e → e.owner = p → e.state = .idle ∨ e.state = .ended →
    ∃ t, exec (.entryFree p) s = .next t ∧
      (s.hasRelative i = true → s.answered t p r q .inUse [] ∧ OnlyChanges [.ports] s t) ∧
      (s.hasRelative i = false → s.answered t p r q .done [] ∧ OnlyChanges [.ports, .entries, .sched] s t ∧
        t.entries = s.entries.set i none ∧ (∀ h ∈ t.sched.hardPlan, h.entry ≠ i) ∧
        t.sched = { s.sched with hardPlan := s.sched.hardPlan.filter fun h => h.entry ≠ i })

/-- R109, R110: OUTPUT_ASSIGN from the holder sets the owner of an output that no entry targets, and the compensation
of a pulse output. Where entries target it, it is refused IN_USE, unless a reclaim finds the old owner OFFLINE: then
those entries, and the relatives of those that are anchors, are FREE, and their number is in the reply. Bodies and
replies: notes/assumptions/8.md to 10.md. The owner part is a code, 4 for none (61.md). -/
def Obligations.OutputAssignSetsOwner : Prop := ∀ (p : Port) (s : State) (r : Request) (q : PortRec) (v : AssignParts) (o : Output) (owner : Option Port)
    (reclaim : Bool), s.ready p 64 r q → parseOutputAssign r.body = some v → s.holder = some p →
    v.output = o.code → v.owner = (match owner with | some x => (x.val : Int) | none => 4) →
    v.reclaim = (if reclaim then 1 else 0) → badCable o v.compensation = false →
    ∃ t, exec (.outputAssign p) s = .next t ∧
      (s.outputOwner o = owner ∨ (∀ i e, s.entries[(i : EntryIx)] = some e → e.fields.target ≠ o) →
        s.answered t p r q .done [0, 0, 0, 0] ∧ t.outputOwner o = owner ∧ t.entries = s.entries ∧ t.sched = s.sched ∧
          (∀ x, o = .px x → ∀ c, v.compensation = some c → ((t.px[x]).compensation : Int) = c) ∧
          (∀ x : Output, x ≠ o → t.outputOwner x = s.outputOwner x)) ∧
      (s.outputOwner o ≠ owner → (∃ i e, s.entries[(i : EntryIx)] = some e ∧ e.fields.target = o) →
        (reclaim = false ∨ (∀ x, s.outputOwner o = some x → (s.ports[x]).online = true)) →
        s.answered t p r q .inUse [] ∧ OnlyChanges [.ports] s t) ∧
      (∀ x, s.outputOwner o = some x → (s.ports[x]).online = false → s.outputOwner o ≠ owner → reclaim = true →
        (∃ i e, s.entries[(i : EntryIx)] = some e ∧ e.fields.target = o) →
        s.answered t p r q .done (beBytes 4 ((List.finRange 64).filter (s.reclaimed o)).length) ∧
          t.outputOwner o = owner ∧
          (∀ i : EntryIx, s.reclaimed o i = true → t.entries[i] = none) ∧
          (∀ i : EntryIx, s.reclaimed o i = false → t.entries[i] = s.entries[i]) ∧
          ∀ h ∈ t.sched.hardPlan, s.reclaimed o h.entry = false) ∧
      OnlyChanges (touches (.outputAssign p)) s t

/-- R129, R130, R131, R144, R167: PROFILE_SET from the holder replaces each of the ten parameters that it carries and
leaves the others, and forms the applied delay of the drops that name the profile afresh when the asymmetry or the
fixed delay changes; DROP_SET from the drop's owner enables it into SEEKING, disables it from any state, with a
DROP_STATE notice to its owner, and sets its profile and expected identity. Bodies and replies: notes/assumptions/8.md
to 10.md. -/
def Obligations.ProfileAndDropSettingsTakeEffect : Prop := (∀ (p : Port) (s : State) (r : Request) (q : PortRec) (v : ProfileSetParts) (i : ProfileIx), s.ready p 80 r q →
    parseProfileSet r.body = some v → s.holder = some p → v.profile = i.val → v.bad = false → s.delaysFormed →
    ∃ t, exec (.profileSet p) s = .next t ∧ s.answered t p r q .done [] ∧ t.profiles = s.profiles.set i t.profiles[i] ∧
      ((t.profiles[i]).squelch.code : Int) = v.squelch.getD (s.profiles[i]).squelch.code ∧
      ((t.profiles[i]).announceInterval : Int) = v.announceInterval.getD (s.profiles[i]).announceInterval ∧
      ((t.profiles[i]).fullEvery : Int) = v.fullEvery.getD (s.profiles[i]).fullEvery ∧
      (t.profiles[i]).asymmetry = v.asymmetry.getD (s.profiles[i]).asymmetry ∧
      (t.profiles[i]).fixedDelay = v.fixedDelay.getD (s.profiles[i]).fixedDelay ∧
      ((t.profiles[i]).tolerance : Int) = v.tolerance.getD (s.profiles[i]).tolerance ∧
      (t.profiles[i]).maxRtt = v.maxRtt.getD (s.profiles[i]).maxRtt ∧
      ((t.profiles[i]).probeInterval : Int) = v.probeInterval.getD (s.profiles[i]).probeInterval ∧
      ((t.profiles[i]).offerInterval : Int) = v.offerInterval.getD (s.profiles[i]).offerInterval ∧
      ((t.profiles[i]).turnLimit : Int) = v.turnLimit.getD (s.profiles[i]).turnLimit ∧
      (∀ d : DropIx, (s.drops[d]).profile = i → t.drops[d] = { s.drops[d] with
        delay := delayOf (s.drops[d]).ring t.profiles[i] }) ∧
      (∀ d : DropIx, (s.drops[d]).profile ≠ i → t.drops[d] = s.drops[d]) ∧
      OnlyChanges (touches (.profileSet p)) s t) ∧
  ∀ (p : Port) (s : State) (r : Request) (q : PortRec) (v : DropSetParts) (d : DropIx), s.ready p 81 r q →
    parseDropSet r.body = some v → v.drop = d.val → (s.drops[d]).owner = some p →
    (∀ x, v.profile = some x → 0 ≤ x ∧ x ≤ 7) → (∀ x, v.enable = some x → x = 0 ∨ x = 1) →
    ∃ t, exec (.dropSet p) s = .next t ∧ s.answered t p r q .done [] ∧
      (∀ x : ProfileIx, v.profile = some (x.val : Int) → (t.drops[d]).profile = x) ∧
      (v.profile = none → (t.drops[d]).profile = (s.drops[d]).profile) ∧
      (v.expected = none → (t.drops[d]).expected = (s.drops[d]).expected) ∧
      (v.expected = some .clear → (t.drops[d]).expected = none) ∧
      (∀ id, v.expected = some (.set id) → (t.drops[d]).expected = some id) ∧
      (v.enable = some 1 → (s.drops[d]).enabled = false → (t.drops[d]).enabled = true ∧
        (t.drops[d]).state = .seeking ∧ (t.drops[d]).offerDue = true ∧ (t.drops[d]).ring = []) ∧
      (v.enable = some 0 → (s.drops[d]).state ≠ .disabled → (t.drops[d]).enabled = false ∧
        (t.drops[d]).state = .disabled ∧ (t.drops[d]).turn = .isIn ∧ (t.drops[d]).ring = [] ∧
        (t.drops[d]).joined = none ∧ (t.drops[d]).refused = none ∧ (t.drops[d]).backlog = 0 ∧
        (t.drops[d]).annTimer = none ∧ (t.drops[d]).probeTimer = none ∧ (t.drops[d]).offerTimer = none ∧
        (t.drops[d]).probeDue = false ∧ (t.drops[d]).offerDue = false ∧
        s.given t p .dropState [{ kind := .dropState, sec := s.counter.sec, ns := s.counter.ps / 1000, subject := d.val
                                  old := (s.drops[d]).state.code, new := 0 }]) ∧
      (v.enable = some 1 → (s.drops[d]).enabled = false → (s.drops[d]).state = .disabled → s.given t p .dropState
        [{ kind := .dropState, sec := s.counter.sec, ns := s.counter.ps / 1000, subject := d.val, old := 0, new := 1 }]) ∧
      (v.enable = none → (t.drops[d]).state = (s.drops[d]).state ∧ (t.drops[d]).enabled = (s.drops[d]).enabled) ∧
      (∀ x : DropIx, x ≠ d → t.drops[x] = s.drops[x]) ∧ OnlyChanges (touches (.dropSet p)) s t

/-- R161, R163, R164, R169: ALARM_SEVERITY sets a record's severity and persistences and touches no timer; ALARM_MASK
takes the flags of what it disables and flags what it newly enables and stands, and sets the event mask and the line
enable that it carries; ALARM_SEEN clears the flags it names; NOTICE_READ removes the oldest notices and clears the
overflow flag that it shows. Bodies and replies: notes/assumptions/8.md to 10.md. The reply of ALARM_SEEN in one byte,
255 for none, is the model's choice (52.md). -/
def Obligations.AlarmRequestsTakeEffect : Prop := (∀ (p : Port) (s : State) (r : Request) (q : PortRec) (v : AlarmSeverityParts) (i : AlarmIx), s.ready p 96 r q →
    parseAlarmSeverity r.body = some v → s.holder = some p → v.record = i.val → v.bad = false →
    ∃ t, exec (.alarmSeverity p) s = .next t ∧ s.answered t p r q .done [] ∧ OnlyChanges [.ports, .alarms] s t ∧
      ∃ severity raise clear, t.alarms = s.alarms.set i { s.alarms[i] with
          severity := severity, raisePersistence := raise, clearPersistence := clear } ∧
        (∀ x, v.severity = some x → (severity.code : Int) = x) ∧
        (v.severity = none → severity = (s.alarms[i]).severity) ∧
        (∀ x, v.raisePersistence = some x → (raise : Int) = x) ∧
        (v.raisePersistence = none → raise = (s.alarms[i]).raisePersistence) ∧
        (∀ x, v.clearPersistence = some x → (clear : Int) = x) ∧
        (v.clearPersistence = none → clear = (s.alarms[i]).clearPersistence)) ∧
  (∀ (p : Port) (s : State) (r : Request) (q : PortRec) (mask : BitVec 32), s.ready p 99 r q →
    r.body = 1 :: beBytes 4 mask.toNat →
    ∃ t, exec (.alarmMask p) s = .next t ∧ OnlyChanges [.ports, .views] s t ∧
      s.answered t p r q .done (beBytes 4 mask.toNat ++ beBytes 2 (s.views[p]).eventMask.toNat ++
        [if (s.views[p]).lineEnable then 1 else 0]) ∧
      (∃ unseen, t.views = s.views.set p { s.views[p] with mask := mask, unseen := unseen }) ∧
      ∀ i : AlarmIx, (t.views[p]).unseen.getLsbD i.val = true ↔ mask.getLsbD i.val = true ∧
        ((s.views[p]).unseen.getLsbD i.val = true ∨
          (s.views[p]).mask.getLsbD i.val = false ∧
            ((s.alarms[i]).state = .active ∨ (s.alarms[i]).state = .clearing))) ∧
  (∀ (p : Port) (s : State) (r : Request) (q : PortRec) (m : AlarmMaskParts), s.ready p 99 r q →
    parseAlarmMask r.body = some m → (∀ x, m.lineEnable = some x → x = 0 ∨ x = 1) →
    ∃ t, exec (.alarmMask p) s = .next t ∧ OnlyChanges [.ports, .views] s t ∧
      s.answered t p r q .done (beBytes 4 (t.views[p]).mask.toNat ++ beBytes 2 (t.views[p]).eventMask.toNat ++
        [if (t.views[p]).lineEnable then 1 else 0]) ∧
      (∃ mask unseen events line, t.views = s.views.set p { s.views[p] with
        mask := mask, unseen := unseen, eventMask := events, lineEnable := line }) ∧
      (∀ x, m.mask = some x → (t.views[p]).mask = BitVec.ofInt 32 x) ∧
      (m.mask = none → (t.views[p]).mask = (s.views[p]).mask ∧ (t.views[p]).unseen = (s.views[p]).unseen) ∧
      (∀ x, m.eventMask = some x → (t.views[p]).eventMask = BitVec.ofInt 9 x) ∧
      (m.eventMask = none → (t.views[p]).eventMask = (s.views[p]).eventMask) ∧
      ((t.views[p]).lineEnable = true ↔
        m.lineEnable = some 1 ∨ m.lineEnable = none ∧ (s.views[p]).lineEnable = true)) ∧
  (∀ (p : Port) (s : State) (r : Request) (q : PortRec), s.ready p 98 r q → r.body ≠ [] →
    (∀ b ∈ r.body, b.toNat ≤ 31) →
    ∃ t, exec (.alarmSeen p) s = .next t ∧ OnlyChanges [.ports, .views] s t ∧
      s.answered t p r q .done
        [if (t.views[p]).topUnseen = 32 then 255 else BitVec.ofNat 8 (t.views[p]).topUnseen] ∧
      (∃ unseen, t.views = s.views.set p { s.views[p] with unseen := unseen }) ∧
      ∀ i : AlarmIx, (t.views[p]).unseen.getLsbD i.val = true ↔
        (s.views[p]).unseen.getLsbD i.val = true ∧ BitVec.ofNat 8 i.val ∉ r.body) ∧
  ∀ (p : Port) (s : State) (r : Request) (q : PortRec) (n : Nat), s.ready p 100 r q →
    (r.body = [0] ∧ n = 16) ∨ (r.body = 1 :: beBytes 4 n ∧ 1 ≤ n ∧ n ≤ 16) →
    ∃ t, exec (.noticeRead p) s = .next t ∧ OnlyChanges [.ports, .views] s t ∧
      s.answered t p r q .done (beBytes 1 (min n (s.views[p]).notices.length) ++
        [if (s.views[p]).overflow then 1 else 0] ++ ((s.views[p]).notices.take n).flatMap Notice.bytes) ∧
      t.views = s.views.set p { s.views[p] with notices := (s.views[p]).notices.drop n, overflow := false }

/-- R167, R179, R184, R185, R186: AUTH_TAKE makes the port the holder when there is none, changes nothing for the
holder, and otherwise places it in the wait list behind every entry of at least its urgency; AUTH_RELEASE passes the
authority to the head of the list, or leaves the list. Each grant, and nothing else, gives every ONLINE port that
passes it an AUTH_GRANTED notice of the new holder and the old. PORT_SET sets the port's two settings and shows them.
Bodies and replies: notes/assumptions/8.md to 10.md. -/
def Obligations.AuthorityAndPortRequestsTakeEffect : Prop := (∀ (p : Port) (s : State) (r : Request) (q : PortRec) (n : Nat), s.ready p 112 r q → r.body = beBytes 1 n → n ≤ 3 →
    ∃ t, exec (.authTake p) s = .next t ∧ OnlyChanges (touches (.authTake p)) s t ∧
      (∃ body, s.answered t p r q .done body) ∧
      (s.holder = none → t.holder = some p ∧ t.waitList = s.waitList ∧ t.hold.staging = [] ∧
        ∀ x : Port, s.given t x .authGranted
          [{ kind := .authGranted, sec := s.counter.sec, ns := s.counter.ps / 1000
             subject := p.val, old := 4, new := p.val }]) ∧
      (s.holder ≠ none → ∀ x : Port, s.given t x .authGranted []) ∧
      (s.holder = some p → t.holder = s.holder ∧ t.waitList = s.waitList ∧ t.hold = s.hold) ∧
      (∀ h, s.holder = some h → h ≠ p → { port := p, urgency := n } ∈ s.waitList →
        t.holder = s.holder ∧ t.waitList = s.waitList) ∧
      (∀ h, s.holder = some h → h ≠ p → { port := p, urgency := n } ∉ s.waitList → t.holder = s.holder ∧
        ∃ ahead behind, s.waitList.filter (fun w => w.port ≠ p) = ahead ++ behind ∧
          t.waitList = ahead ++ { port := p, urgency := n } :: behind ∧ (∀ w ∈ ahead, n ≤ w.urgency) ∧
          ∀ w, behind.head? = some w → w.urgency < n)) ∧
  (∀ (p : Port) (s : State) (r : Request) (q : PortRec), s.ready p 113 r q → r.body = [] →
    ∃ t, exec (.authRelease p) s = .next t ∧ OnlyChanges (touches (.authRelease p)) s t ∧
      (∃ body, s.answered t p r q .done body) ∧
      (s.holder = some p → s.waitList = [] → t.holder = none ∧ t.waitList = [] ∧ t.hold.staging = []) ∧
      (∀ w rest, s.waitList = w :: rest → s.holder = some p →
        t.holder = some w.port ∧ t.waitList = rest ∧ t.hold.staging = [] ∧
        ∀ x : Port, s.given t x .authGranted
          [{ kind := .authGranted, sec := s.counter.sec, ns := s.counter.ps / 1000
             subject := w.port.val, old := p.val, new := w.port.val }]) ∧
      (s.holder ≠ some p ∨ s.waitList = [] → ∀ x : Port, s.given t x .authGranted []) ∧
      (s.holder ≠ some p → t.holder = s.holder ∧ t.waitList = s.waitList.filter (fun w => w.port ≠ p) ∧
        t.hold = s.hold)) ∧
  ∀ (p : Port) (s : State) (r : Request) (q : PortRec) (segment silence : Nat), s.ready p 114 r q →
    r.body = 3 :: beBytes 4 segment ++ beBytes 4 silence → 16 ≤ segment → segment ≤ 256 → 1 ≤ silence → silence ≤ 60 →
    ∃ t, exec (.portSet p) s = .next t ∧ OnlyChanges [.ports] s t ∧
      s.answered t p r { q with maxSegment := segment, silenceTime := silence } .done
        (beBytes 4 segment ++ beBytes 4 silence)

/-- R91, R100, R177, R178: a request whose code names none is refused UNKNOWN_REQUEST at its execution; one whose body
does not parse is refused MALFORMED, whatever the authority it needs; one that needs the steering authority is refused
NOT_HOLDER when its port does not hold it and its body parses. HISTORY_RESTORE and HOLDOVER_FORCE check the holder
first and the body then. A refused request leaves its queue, its reply has no body, and nothing else changes. Bodies
and replies: notes/assumptions/8.md to 10.md. That HOLDOVER_FORCE checks the holder before a body of any length is the
model's reading of R100 (48.md), and what parses as one or all in codes 34, 70 and 82 is its choice (51.md); the owner
of OUTPUT_ASSIGN and the link of an entry: 61.md and 62.md. -/
def Obligations.RefusedRequestsHaveNoEffect : Prop := (∀ (p : Port) (s : State) (r : Request) (q : PortRec), (s.ports[p]).oldest = some (r, q) →
    (s.ports[p]).replies.length < 4 → requestCommand p r.code.toNat = .unknownRequest p →
    ∃ t, exec (.unknownRequest p) s = .next t ∧ s.answered t p r q .unknownRequest [] ∧ OnlyChanges [.ports] s t) ∧
  (∀ (p : Port) (s : State) (r : Request) (q : PortRec) (code : Nat), s.ready p code r q →
    (code, true) ∈ [(16, (parseEmpty r.body).isNone), (17, (parseEmpty r.body).isNone),
      (18, (parseTimeStep r.body).isNone), (19, (parseLeapSet r.body).isNone), (32, (parseOffsetReport r.body).isNone),
      (33, (parseRefSet r.body).isNone), (34, (parseOneOrAll r.body).isNone), (35, (parseSelectSet r.body).isNone),
      (36, (parseSelectForce r.body).isNone), (48, (parseLoopSet r.body).isNone), (49, (parseCount r.body).isNone),
      (50, s.holder = some p && (parseRestore r.body).isNone), (51, s.holder = some p && r.body ≠ [0] && r.body ≠ [1]),
      (64, (parseOutputAssign r.body).isNone), (65, (parseEntryDefine r.body).isNone),
      (66, (parseEntryChange r.body).isNone), (67, r.body.length ≠ 1), (68, r.body.length ≠ 1), (69, r.body.length ≠ 1),
      (70, (parseOneOrAll r.body).isNone), (80, (parseProfileSet r.body).isNone), (81, (parseDropSet r.body).isNone),
      (82, (parseOneOrAll r.body).isNone), (96, (parseAlarmSeverity r.body).isNone),
      (97, (parseAlarmRead r.body).isNone), (99, (parseAlarmMask r.body).isNone), (100, (parseCount r.body).isNone),
      (112, r.body.length ≠ 1), (113, r.body ≠ []), (114, (parsePortSet r.body).isNone)] →
    ∃ t, exec (requestCommand p code) s = .next t ∧ s.answered t p r q .malformed [] ∧ OnlyChanges [.ports] s t) ∧
  ∀ (p : Port) (s : State) (r : Request) (q : PortRec) (code : Nat) (parses : Bool), s.ready p code r q →
    s.holder ≠ some p →
    (code, parses) ∈ [(18, (parseTimeStep r.body).isSome), (19, (parseLeapSet r.body).isSome),
      (33, (parseRefSet r.body).isSome), (35, (parseSelectSet r.body).isSome), (36, (parseSelectForce r.body).isSome),
      (48, (parseLoopSet r.body).isSome), (50, true), (51, true), (64, (parseOutputAssign r.body).isSome),
      (80, (parseProfileSet r.body).isSome), (96, (parseAlarmSeverity r.body).isSome)] →
    ∃ t, exec (requestCommand p code) s = .next t ∧
      s.answered t p r q (if parses then .notHolder else .malformed) [] ∧ OnlyChanges [.ports] s t

/-! ### Message and record formats -/

/-- R191: the check. The register starts at 65,535; each byte is combined into its upper half and shifted out by eight
places, the polynomial 4,129 being combined for each 1 shifted out; the check of the bytes 1 to 7 is 55,165. A message
with its check at its end passes; every drop message that the chip sends carries one, and no label or drop message is
taken whose check fails. -/
def Obligations.CheckFollowsItsPolynomial : Prop := checkOf [] = 65535#16 ∧
    (∀ (l : List Byte) (b : Byte),
      checkOf (l ++ [b]) = checkShifts 8 (checkOf l ^^^ (b ++ (0#8 : BitVec 8)))) ∧
    (∀ (n : Nat) (r : BitVec 16), checkShifts (n + 1) r = checkShifts n (if r.getMsbD 0 then (r <<< 1) ^^^ 4129#16 else r <<< 1)) ∧
    (∀ r : BitVec 16, checkShifts 0 r = r) ∧
    (∀ l : List Byte, withCheck l = l ++ [(checkOf l).extractLsb' 8 8, (checkOf l).extractLsb' 0 8]) ∧
    (∀ (l : List Byte) (a b : Byte), checkPasses (l ++ [a, b]) = true ↔ checkOf l = a ++ b) ∧
    (∀ l : List Byte, l.length < 2 → checkPasses l = false) ∧
    (checkOf [1, 2, 3, 4, 5, 6, 7]).toNat = 55165 ∧ withCheck [1, 2, 3, 4, 5, 6, 7] = [1, 2, 3, 4, 5, 6, 7, 215, 125] ∧
    (∀ l : List Byte, checkPasses (withCheck l) = true) ∧
    (∀ a : Announcement, checkPasses a.message = true) ∧ (∀ n : EntryIx, checkPasses (markMessage n) = true) ∧
    (∀ n : Nat, checkPasses (probeMessage n) = true) ∧ (∀ d : DropIx, checkPasses (offerMessage d) = true) ∧
    ∀ l : List Byte, checkPasses l = false → readLabel l = .failed ∧ judgeMessage l = .failed

/-- R189: bodies round trip. Any parts that fit the forms a request lists, the required ones present, are read back
from the body that carries them: the presence mask, the selectors, and every value in its width, most significant byte
first, signed ones in two's complement. A longer body does not parse. What is a bit of a required part:
notes/assumptions/8.md; the widths: 9.md. -/
def Obligations.BodiesRoundTrip : Prop := ∀ (parts : List PartSpec) (vs : List (Option (List Int))), partsFit parts vs = true →
    parseBody parts (encodeBody parts vs) = some vs ∧
      ∀ (b : Byte) (more : List Byte), parseBody parts (encodeBody parts vs ++ b :: more) = none

end
end

