-- ==== Sys2Proof/Laws/Bytes.lean ====
section
/-! SUPPORT. Values as bytes and back (R189), and the lengths of what they make. -/

namespace Sys2Proof.Machine

@[simp] theorem beBytes_length (k n : Nat) : (beBytes k n).length = k := by
  induction k generalizing n with
  | zero => rfl
  | succ k ih => simp [beBytes, ih]

@[simp] theorem beInt_length (k : Nat) (i : Int) : (beInt k i).length = k := beBytes_length k _

theorem beNat_append (a : List Byte) (x : Byte) : beNat (a ++ [x]) = beNat a * 256 + x.toNat := by
  simp [beNat, List.foldl_append]

/-- The value of bytes is less than 256 for each of them. -/
theorem beNat_lt (b : List Byte) : beNat b < 256 ^ b.length := by
  induction b using List.reverseRecOn with
  | nil => simp [beNat]
  | append_singleton a x ih =>
    have hx : x.toNat < 256 := x.isLt
    rw [beNat_append, List.length_append, List.length_singleton, Nat.pow_succ]
    omega

/-- A value that fits in so many bytes is read back from them. -/
theorem beNat_beBytes (k n : Nat) (h : n < 256 ^ k) : beNat (beBytes k n) = n := by
  induction k generalizing n with
  | zero => simp at h; simp [beBytes, beNat, h]
  | succ k ih =>
    rw [beBytes, beNat_append, ih (n / 256) (by rw [Nat.pow_succ] at h; omega), BitVec.toNat_ofNat]
    omega

/-- A signed value that fits in so many bytes is read back from them. -/
theorem beSigned_beInt (k : Nat) (i : Int) (lo : -(256 ^ k : Int) ≤ 2 * i) (hi : 2 * i < (256 ^ k : Int)) :
    beSigned (beInt k i) = i := by
  have hpos : (0 : Int) < (256 ^ k : Nat) := by exact_mod_cast Nat.pow_pos (by decide)
  have lo' : -((256 ^ k : Nat) : Int) ≤ 2 * i := by exact_mod_cast lo
  have hi' : 2 * i < ((256 ^ k : Nat) : Int) := by exact_mod_cast hi
  have hm0 := Int.emod_nonneg i (ne_of_gt hpos)
  have hm1 := Int.emod_lt_of_pos i hpos
  have hn : beNat (beInt k i) = (i % (256 ^ k : Nat)).toNat := beNat_beBytes k _ (by omega)
  have hc : ((beNat (beInt k i) : Nat) : Int) = i % (256 ^ k : Nat) := by omega
  unfold beSigned
  rw [beInt_length]
  by_cases h0 : 0 ≤ i
  · have e : i % (256 ^ k : Nat) = i := Int.emod_eq_of_lt h0 (by omega)
    rw [if_pos (by omega)]
    omega
  · have e : i % (256 ^ k : Nat) = i + (256 ^ k : Nat) := by
      rw [← Int.add_emod_right, Int.emod_eq_of_lt (by omega) (by omega)]
    rw [if_neg (by omega)]
    omega

/-- Taking a value off the front of bytes that begin with it. -/
theorem takeValue_beInt (k : Nat) (i : Int) (rest : List Byte) (lo : -(256 ^ k : Int) ≤ 2 * i)
    (hi : 2 * i < (256 ^ k : Int)) : takeValue k true (beInt k i ++ rest) = some (i, rest) := by
  simp [takeValue, List.take_left', List.drop_left', beSigned_beInt k i lo hi]

theorem takeValue_beBytes (k n : Nat) (rest : List Byte) (h : n < 256 ^ k) :
    takeValue k false (beBytes k n ++ rest) = some ((n : Int), rest) := by
  simp [takeValue, List.take_left', List.drop_left', beNat_beBytes k n h]

end Sys2Proof.Machine
end

