-- ==== Sys2Proof/Laws/State.lean ====
section
/-! SUPPORT. One lemma for each field of State under each update of a block: what the update sets, and what it leaves. -/

namespace Sys2Proof.Machine

variable (s : State)

/-! ### setOsc -/

@[simp] theorem State.setOsc_counter (x : OscMonitor) : (s.setOsc x).counter = s.counter := rfl
@[simp] theorem State.setOsc_residue (x : OscMonitor) : (s.setOsc x).residue = s.residue := rfl
@[simp] theorem State.setOsc_secondOwed (x : OscMonitor) : (s.setOsc x).secondOwed = s.secondOwed := rfl
@[simp] theorem State.setOsc_msOwed (x : OscMonitor) : (s.setOsc x).msOwed = s.msOwed := rfl
@[simp] theorem State.setOsc_loCycles (x : OscMonitor) : (s.setOsc x).loCycles = s.loCycles := rfl
@[simp] theorem State.setOsc_osc (x : OscMonitor) : (s.setOsc x).osc = x := rfl
@[simp] theorem State.setOsc_straps (x : OscMonitor) : (s.setOsc x).straps = s.straps := rfl
@[simp] theorem State.setOsc_tb (x : OscMonitor) : (s.setOsc x).tb = s.tb := rfl
@[simp] theorem State.setOsc_lp (x : OscMonitor) : (s.setOsc x).lp = s.lp := rfl
@[simp] theorem State.setOsc_hp (x : OscMonitor) : (s.setOsc x).hp = s.hp := rfl
@[simp] theorem State.setOsc_loop (x : OscMonitor) : (s.setOsc x).loop = s.loop := rfl
@[simp] theorem State.setOsc_hold (x : OscMonitor) : (s.setOsc x).hold = s.hold := rfl
@[simp] theorem State.setOsc_ta (x : OscMonitor) : (s.setOsc x).ta = s.ta := rfl
@[simp] theorem State.setOsc_fq (x : OscMonitor) : (s.setOsc x).fq = s.fq := rfl
@[simp] theorem State.setOsc_ofs (x : OscMonitor) : (s.setOsc x).ofs = s.ofs := rfl
@[simp] theorem State.setOsc_aligned (x : OscMonitor) : (s.setOsc x).aligned = s.aligned := rfl
@[simp] theorem State.setOsc_refs (x : OscMonitor) : (s.setOsc x).refs = s.refs := rfl
@[simp] theorem State.setOsc_conflicts (x : OscMonitor) : (s.setOsc x).conflicts = s.conflicts := rfl
@[simp] theorem State.setOsc_sel (x : OscMonitor) : (s.setOsc x).sel = s.sel := rfl
@[simp] theorem State.setOsc_entries (x : OscMonitor) : (s.setOsc x).entries = s.entries := rfl
@[simp] theorem State.setOsc_profiles (x : OscMonitor) : (s.setOsc x).profiles = s.profiles := rfl
@[simp] theorem State.setOsc_px (x : OscMonitor) : (s.setOsc x).px = s.px := rfl
@[simp] theorem State.setOsc_sched (x : OscMonitor) : (s.setOsc x).sched = s.sched := rfl
@[simp] theorem State.setOsc_drops (x : OscMonitor) : (s.setOsc x).drops = s.drops := rfl
@[simp] theorem State.setOsc_alarms (x : OscMonitor) : (s.setOsc x).alarms = s.alarms := rfl
@[simp] theorem State.setOsc_views (x : OscMonitor) : (s.setOsc x).views = s.views := rfl
@[simp] theorem State.setOsc_ports (x : OscMonitor) : (s.setOsc x).ports = s.ports := rfl
@[simp] theorem State.setOsc_holder (x : OscMonitor) : (s.setOsc x).holder = s.holder := rfl
@[simp] theorem State.setOsc_waitList (x : OscMonitor) : (s.setOsc x).waitList = s.waitList := rfl
@[simp] theorem State.setOsc_pending (x : OscMonitor) : (s.setOsc x).pending = s.pending := rfl

/-! ### setTb -/

@[simp] theorem State.setTb_counter (x : Timebase) : (s.setTb x).counter = s.counter := rfl
@[simp] theorem State.setTb_residue (x : Timebase) : (s.setTb x).residue = s.residue := rfl
@[simp] theorem State.setTb_secondOwed (x : Timebase) : (s.setTb x).secondOwed = s.secondOwed := rfl
@[simp] theorem State.setTb_msOwed (x : Timebase) : (s.setTb x).msOwed = s.msOwed := rfl
@[simp] theorem State.setTb_loCycles (x : Timebase) : (s.setTb x).loCycles = s.loCycles := rfl
@[simp] theorem State.setTb_osc (x : Timebase) : (s.setTb x).osc = s.osc := rfl
@[simp] theorem State.setTb_straps (x : Timebase) : (s.setTb x).straps = s.straps := rfl
@[simp] theorem State.setTb_tb (x : Timebase) : (s.setTb x).tb = x := rfl
@[simp] theorem State.setTb_lp (x : Timebase) : (s.setTb x).lp = s.lp := rfl
@[simp] theorem State.setTb_hp (x : Timebase) : (s.setTb x).hp = s.hp := rfl
@[simp] theorem State.setTb_loop (x : Timebase) : (s.setTb x).loop = s.loop := rfl
@[simp] theorem State.setTb_hold (x : Timebase) : (s.setTb x).hold = s.hold := rfl
@[simp] theorem State.setTb_ta (x : Timebase) : (s.setTb x).ta = s.ta := rfl
@[simp] theorem State.setTb_fq (x : Timebase) : (s.setTb x).fq = s.fq := rfl
@[simp] theorem State.setTb_ofs (x : Timebase) : (s.setTb x).ofs = s.ofs := rfl
@[simp] theorem State.setTb_aligned (x : Timebase) : (s.setTb x).aligned = s.aligned := rfl
@[simp] theorem State.setTb_refs (x : Timebase) : (s.setTb x).refs = s.refs := rfl
@[simp] theorem State.setTb_conflicts (x : Timebase) : (s.setTb x).conflicts = s.conflicts := rfl
@[simp] theorem State.setTb_sel (x : Timebase) : (s.setTb x).sel = s.sel := rfl
@[simp] theorem State.setTb_entries (x : Timebase) : (s.setTb x).entries = s.entries := rfl
@[simp] theorem State.setTb_profiles (x : Timebase) : (s.setTb x).profiles = s.profiles := rfl
@[simp] theorem State.setTb_px (x : Timebase) : (s.setTb x).px = s.px := rfl
@[simp] theorem State.setTb_sched (x : Timebase) : (s.setTb x).sched = s.sched := rfl
@[simp] theorem State.setTb_drops (x : Timebase) : (s.setTb x).drops = s.drops := rfl
@[simp] theorem State.setTb_alarms (x : Timebase) : (s.setTb x).alarms = s.alarms := rfl
@[simp] theorem State.setTb_views (x : Timebase) : (s.setTb x).views = s.views := rfl
@[simp] theorem State.setTb_ports (x : Timebase) : (s.setTb x).ports = s.ports := rfl
@[simp] theorem State.setTb_holder (x : Timebase) : (s.setTb x).holder = s.holder := rfl
@[simp] theorem State.setTb_waitList (x : Timebase) : (s.setTb x).waitList = s.waitList := rfl
@[simp] theorem State.setTb_pending (x : Timebase) : (s.setTb x).pending = s.pending := rfl

/-! ### setLoop -/

@[simp] theorem State.setLoop_counter (x : Loop) : (s.setLoop x).counter = s.counter := rfl
@[simp] theorem State.setLoop_residue (x : Loop) : (s.setLoop x).residue = s.residue := rfl
@[simp] theorem State.setLoop_secondOwed (x : Loop) : (s.setLoop x).secondOwed = s.secondOwed := rfl
@[simp] theorem State.setLoop_msOwed (x : Loop) : (s.setLoop x).msOwed = s.msOwed := rfl
@[simp] theorem State.setLoop_loCycles (x : Loop) : (s.setLoop x).loCycles = s.loCycles := rfl
@[simp] theorem State.setLoop_osc (x : Loop) : (s.setLoop x).osc = s.osc := rfl
@[simp] theorem State.setLoop_straps (x : Loop) : (s.setLoop x).straps = s.straps := rfl
@[simp] theorem State.setLoop_tb (x : Loop) : (s.setLoop x).tb = s.tb := rfl
@[simp] theorem State.setLoop_lp (x : Loop) : (s.setLoop x).lp = s.lp := rfl
@[simp] theorem State.setLoop_hp (x : Loop) : (s.setLoop x).hp = s.hp := rfl
@[simp] theorem State.setLoop_loop (x : Loop) : (s.setLoop x).loop = x := rfl
@[simp] theorem State.setLoop_hold (x : Loop) : (s.setLoop x).hold = s.hold := rfl
@[simp] theorem State.setLoop_ta (x : Loop) : (s.setLoop x).ta = s.ta := rfl
@[simp] theorem State.setLoop_fq (x : Loop) : (s.setLoop x).fq = s.fq := rfl
@[simp] theorem State.setLoop_ofs (x : Loop) : (s.setLoop x).ofs = s.ofs := rfl
@[simp] theorem State.setLoop_aligned (x : Loop) : (s.setLoop x).aligned = s.aligned := rfl
@[simp] theorem State.setLoop_refs (x : Loop) : (s.setLoop x).refs = s.refs := rfl
@[simp] theorem State.setLoop_conflicts (x : Loop) : (s.setLoop x).conflicts = s.conflicts := rfl
@[simp] theorem State.setLoop_sel (x : Loop) : (s.setLoop x).sel = s.sel := rfl
@[simp] theorem State.setLoop_entries (x : Loop) : (s.setLoop x).entries = s.entries := rfl
@[simp] theorem State.setLoop_profiles (x : Loop) : (s.setLoop x).profiles = s.profiles := rfl
@[simp] theorem State.setLoop_px (x : Loop) : (s.setLoop x).px = s.px := rfl
@[simp] theorem State.setLoop_sched (x : Loop) : (s.setLoop x).sched = s.sched := rfl
@[simp] theorem State.setLoop_drops (x : Loop) : (s.setLoop x).drops = s.drops := rfl
@[simp] theorem State.setLoop_alarms (x : Loop) : (s.setLoop x).alarms = s.alarms := rfl
@[simp] theorem State.setLoop_views (x : Loop) : (s.setLoop x).views = s.views := rfl
@[simp] theorem State.setLoop_ports (x : Loop) : (s.setLoop x).ports = s.ports := rfl
@[simp] theorem State.setLoop_holder (x : Loop) : (s.setLoop x).holder = s.holder := rfl
@[simp] theorem State.setLoop_waitList (x : Loop) : (s.setLoop x).waitList = s.waitList := rfl
@[simp] theorem State.setLoop_pending (x : Loop) : (s.setLoop x).pending = s.pending := rfl

/-! ### setHold -/

@[simp] theorem State.setHold_counter (x : Holdover) : (s.setHold x).counter = s.counter := rfl
@[simp] theorem State.setHold_residue (x : Holdover) : (s.setHold x).residue = s.residue := rfl
@[simp] theorem State.setHold_secondOwed (x : Holdover) : (s.setHold x).secondOwed = s.secondOwed := rfl
@[simp] theorem State.setHold_msOwed (x : Holdover) : (s.setHold x).msOwed = s.msOwed := rfl
@[simp] theorem State.setHold_loCycles (x : Holdover) : (s.setHold x).loCycles = s.loCycles := rfl
@[simp] theorem State.setHold_osc (x : Holdover) : (s.setHold x).osc = s.osc := rfl
@[simp] theorem State.setHold_straps (x : Holdover) : (s.setHold x).straps = s.straps := rfl
@[simp] theorem State.setHold_tb (x : Holdover) : (s.setHold x).tb = s.tb := rfl
@[simp] theorem State.setHold_lp (x : Holdover) : (s.setHold x).lp = s.lp := rfl
@[simp] theorem State.setHold_hp (x : Holdover) : (s.setHold x).hp = s.hp := rfl
@[simp] theorem State.setHold_loop (x : Holdover) : (s.setHold x).loop = s.loop := rfl
@[simp] theorem State.setHold_hold (x : Holdover) : (s.setHold x).hold = x := rfl
@[simp] theorem State.setHold_ta (x : Holdover) : (s.setHold x).ta = s.ta := rfl
@[simp] theorem State.setHold_fq (x : Holdover) : (s.setHold x).fq = s.fq := rfl
@[simp] theorem State.setHold_ofs (x : Holdover) : (s.setHold x).ofs = s.ofs := rfl
@[simp] theorem State.setHold_aligned (x : Holdover) : (s.setHold x).aligned = s.aligned := rfl
@[simp] theorem State.setHold_refs (x : Holdover) : (s.setHold x).refs = s.refs := rfl
@[simp] theorem State.setHold_conflicts (x : Holdover) : (s.setHold x).conflicts = s.conflicts := rfl
@[simp] theorem State.setHold_sel (x : Holdover) : (s.setHold x).sel = s.sel := rfl
@[simp] theorem State.setHold_entries (x : Holdover) : (s.setHold x).entries = s.entries := rfl
@[simp] theorem State.setHold_profiles (x : Holdover) : (s.setHold x).profiles = s.profiles := rfl
@[simp] theorem State.setHold_px (x : Holdover) : (s.setHold x).px = s.px := rfl
@[simp] theorem State.setHold_sched (x : Holdover) : (s.setHold x).sched = s.sched := rfl
@[simp] theorem State.setHold_drops (x : Holdover) : (s.setHold x).drops = s.drops := rfl
@[simp] theorem State.setHold_alarms (x : Holdover) : (s.setHold x).alarms = s.alarms := rfl
@[simp] theorem State.setHold_views (x : Holdover) : (s.setHold x).views = s.views := rfl
@[simp] theorem State.setHold_ports (x : Holdover) : (s.setHold x).ports = s.ports := rfl
@[simp] theorem State.setHold_holder (x : Holdover) : (s.setHold x).holder = s.holder := rfl
@[simp] theorem State.setHold_waitList (x : Holdover) : (s.setHold x).waitList = s.waitList := rfl
@[simp] theorem State.setHold_pending (x : Holdover) : (s.setHold x).pending = s.pending := rfl

/-! ### setSel -/

@[simp] theorem State.setSel_counter (x : Selector) : (s.setSel x).counter = s.counter := rfl
@[simp] theorem State.setSel_residue (x : Selector) : (s.setSel x).residue = s.residue := rfl
@[simp] theorem State.setSel_secondOwed (x : Selector) : (s.setSel x).secondOwed = s.secondOwed := rfl
@[simp] theorem State.setSel_msOwed (x : Selector) : (s.setSel x).msOwed = s.msOwed := rfl
@[simp] theorem State.setSel_loCycles (x : Selector) : (s.setSel x).loCycles = s.loCycles := rfl
@[simp] theorem State.setSel_osc (x : Selector) : (s.setSel x).osc = s.osc := rfl
@[simp] theorem State.setSel_straps (x : Selector) : (s.setSel x).straps = s.straps := rfl
@[simp] theorem State.setSel_tb (x : Selector) : (s.setSel x).tb = s.tb := rfl
@[simp] theorem State.setSel_lp (x : Selector) : (s.setSel x).lp = s.lp := rfl
@[simp] theorem State.setSel_hp (x : Selector) : (s.setSel x).hp = s.hp := rfl
@[simp] theorem State.setSel_loop (x : Selector) : (s.setSel x).loop = s.loop := rfl
@[simp] theorem State.setSel_hold (x : Selector) : (s.setSel x).hold = s.hold := rfl
@[simp] theorem State.setSel_ta (x : Selector) : (s.setSel x).ta = s.ta := rfl
@[simp] theorem State.setSel_fq (x : Selector) : (s.setSel x).fq = s.fq := rfl
@[simp] theorem State.setSel_ofs (x : Selector) : (s.setSel x).ofs = s.ofs := rfl
@[simp] theorem State.setSel_aligned (x : Selector) : (s.setSel x).aligned = s.aligned := rfl
@[simp] theorem State.setSel_refs (x : Selector) : (s.setSel x).refs = s.refs := rfl
@[simp] theorem State.setSel_conflicts (x : Selector) : (s.setSel x).conflicts = s.conflicts := rfl
@[simp] theorem State.setSel_sel (x : Selector) : (s.setSel x).sel = x := rfl
@[simp] theorem State.setSel_entries (x : Selector) : (s.setSel x).entries = s.entries := rfl
@[simp] theorem State.setSel_profiles (x : Selector) : (s.setSel x).profiles = s.profiles := rfl
@[simp] theorem State.setSel_px (x : Selector) : (s.setSel x).px = s.px := rfl
@[simp] theorem State.setSel_sched (x : Selector) : (s.setSel x).sched = s.sched := rfl
@[simp] theorem State.setSel_drops (x : Selector) : (s.setSel x).drops = s.drops := rfl
@[simp] theorem State.setSel_alarms (x : Selector) : (s.setSel x).alarms = s.alarms := rfl
@[simp] theorem State.setSel_views (x : Selector) : (s.setSel x).views = s.views := rfl
@[simp] theorem State.setSel_ports (x : Selector) : (s.setSel x).ports = s.ports := rfl
@[simp] theorem State.setSel_holder (x : Selector) : (s.setSel x).holder = s.holder := rfl
@[simp] theorem State.setSel_waitList (x : Selector) : (s.setSel x).waitList = s.waitList := rfl
@[simp] theorem State.setSel_pending (x : Selector) : (s.setSel x).pending = s.pending := rfl

/-! ### setSched -/

@[simp] theorem State.setSched_counter (x : Scheduler) : (s.setSched x).counter = s.counter := rfl
@[simp] theorem State.setSched_residue (x : Scheduler) : (s.setSched x).residue = s.residue := rfl
@[simp] theorem State.setSched_secondOwed (x : Scheduler) : (s.setSched x).secondOwed = s.secondOwed := rfl
@[simp] theorem State.setSched_msOwed (x : Scheduler) : (s.setSched x).msOwed = s.msOwed := rfl
@[simp] theorem State.setSched_loCycles (x : Scheduler) : (s.setSched x).loCycles = s.loCycles := rfl
@[simp] theorem State.setSched_osc (x : Scheduler) : (s.setSched x).osc = s.osc := rfl
@[simp] theorem State.setSched_straps (x : Scheduler) : (s.setSched x).straps = s.straps := rfl
@[simp] theorem State.setSched_tb (x : Scheduler) : (s.setSched x).tb = s.tb := rfl
@[simp] theorem State.setSched_lp (x : Scheduler) : (s.setSched x).lp = s.lp := rfl
@[simp] theorem State.setSched_hp (x : Scheduler) : (s.setSched x).hp = s.hp := rfl
@[simp] theorem State.setSched_loop (x : Scheduler) : (s.setSched x).loop = s.loop := rfl
@[simp] theorem State.setSched_hold (x : Scheduler) : (s.setSched x).hold = s.hold := rfl
@[simp] theorem State.setSched_ta (x : Scheduler) : (s.setSched x).ta = s.ta := rfl
@[simp] theorem State.setSched_fq (x : Scheduler) : (s.setSched x).fq = s.fq := rfl
@[simp] theorem State.setSched_ofs (x : Scheduler) : (s.setSched x).ofs = s.ofs := rfl
@[simp] theorem State.setSched_aligned (x : Scheduler) : (s.setSched x).aligned = s.aligned := rfl
@[simp] theorem State.setSched_refs (x : Scheduler) : (s.setSched x).refs = s.refs := rfl
@[simp] theorem State.setSched_conflicts (x : Scheduler) : (s.setSched x).conflicts = s.conflicts := rfl
@[simp] theorem State.setSched_sel (x : Scheduler) : (s.setSched x).sel = s.sel := rfl
@[simp] theorem State.setSched_entries (x : Scheduler) : (s.setSched x).entries = s.entries := rfl
@[simp] theorem State.setSched_profiles (x : Scheduler) : (s.setSched x).profiles = s.profiles := rfl
@[simp] theorem State.setSched_px (x : Scheduler) : (s.setSched x).px = s.px := rfl
@[simp] theorem State.setSched_sched (x : Scheduler) : (s.setSched x).sched = x := rfl
@[simp] theorem State.setSched_drops (x : Scheduler) : (s.setSched x).drops = s.drops := rfl
@[simp] theorem State.setSched_alarms (x : Scheduler) : (s.setSched x).alarms = s.alarms := rfl
@[simp] theorem State.setSched_views (x : Scheduler) : (s.setSched x).views = s.views := rfl
@[simp] theorem State.setSched_ports (x : Scheduler) : (s.setSched x).ports = s.ports := rfl
@[simp] theorem State.setSched_holder (x : Scheduler) : (s.setSched x).holder = s.holder := rfl
@[simp] theorem State.setSched_waitList (x : Scheduler) : (s.setSched x).waitList = s.waitList := rfl
@[simp] theorem State.setSched_pending (x : Scheduler) : (s.setSched x).pending = s.pending := rfl

/-! ### setTa -/

@[simp] theorem State.setTa_counter (i : InputIx) (x : TaInput) : (s.setTa i x).counter = s.counter := rfl
@[simp] theorem State.setTa_residue (i : InputIx) (x : TaInput) : (s.setTa i x).residue = s.residue := rfl
@[simp] theorem State.setTa_secondOwed (i : InputIx) (x : TaInput) : (s.setTa i x).secondOwed = s.secondOwed := rfl
@[simp] theorem State.setTa_msOwed (i : InputIx) (x : TaInput) : (s.setTa i x).msOwed = s.msOwed := rfl
@[simp] theorem State.setTa_loCycles (i : InputIx) (x : TaInput) : (s.setTa i x).loCycles = s.loCycles := rfl
@[simp] theorem State.setTa_osc (i : InputIx) (x : TaInput) : (s.setTa i x).osc = s.osc := rfl
@[simp] theorem State.setTa_straps (i : InputIx) (x : TaInput) : (s.setTa i x).straps = s.straps := rfl
@[simp] theorem State.setTa_tb (i : InputIx) (x : TaInput) : (s.setTa i x).tb = s.tb := rfl
@[simp] theorem State.setTa_lp (i : InputIx) (x : TaInput) : (s.setTa i x).lp = s.lp := rfl
@[simp] theorem State.setTa_hp (i : InputIx) (x : TaInput) : (s.setTa i x).hp = s.hp := rfl
@[simp] theorem State.setTa_loop (i : InputIx) (x : TaInput) : (s.setTa i x).loop = s.loop := rfl
@[simp] theorem State.setTa_hold (i : InputIx) (x : TaInput) : (s.setTa i x).hold = s.hold := rfl
@[simp] theorem State.setTa_ta (i : InputIx) (x : TaInput) : (s.setTa i x).ta = s.ta.set i x := rfl
@[simp] theorem State.setTa_fq (i : InputIx) (x : TaInput) : (s.setTa i x).fq = s.fq := rfl
@[simp] theorem State.setTa_ofs (i : InputIx) (x : TaInput) : (s.setTa i x).ofs = s.ofs := rfl
@[simp] theorem State.setTa_aligned (i : InputIx) (x : TaInput) : (s.setTa i x).aligned = s.aligned := rfl
@[simp] theorem State.setTa_refs (i : InputIx) (x : TaInput) : (s.setTa i x).refs = s.refs := rfl
@[simp] theorem State.setTa_conflicts (i : InputIx) (x : TaInput) : (s.setTa i x).conflicts = s.conflicts := rfl
@[simp] theorem State.setTa_sel (i : InputIx) (x : TaInput) : (s.setTa i x).sel = s.sel := rfl
@[simp] theorem State.setTa_entries (i : InputIx) (x : TaInput) : (s.setTa i x).entries = s.entries := rfl
@[simp] theorem State.setTa_profiles (i : InputIx) (x : TaInput) : (s.setTa i x).profiles = s.profiles := rfl
@[simp] theorem State.setTa_px (i : InputIx) (x : TaInput) : (s.setTa i x).px = s.px := rfl
@[simp] theorem State.setTa_sched (i : InputIx) (x : TaInput) : (s.setTa i x).sched = s.sched := rfl
@[simp] theorem State.setTa_drops (i : InputIx) (x : TaInput) : (s.setTa i x).drops = s.drops := rfl
@[simp] theorem State.setTa_alarms (i : InputIx) (x : TaInput) : (s.setTa i x).alarms = s.alarms := rfl
@[simp] theorem State.setTa_views (i : InputIx) (x : TaInput) : (s.setTa i x).views = s.views := rfl
@[simp] theorem State.setTa_ports (i : InputIx) (x : TaInput) : (s.setTa i x).ports = s.ports := rfl
@[simp] theorem State.setTa_holder (i : InputIx) (x : TaInput) : (s.setTa i x).holder = s.holder := rfl
@[simp] theorem State.setTa_waitList (i : InputIx) (x : TaInput) : (s.setTa i x).waitList = s.waitList := rfl
@[simp] theorem State.setTa_pending (i : InputIx) (x : TaInput) : (s.setTa i x).pending = s.pending := rfl

/-! ### setFq -/

@[simp] theorem State.setFq_counter (i : InputIx) (x : FqInput) : (s.setFq i x).counter = s.counter := rfl
@[simp] theorem State.setFq_residue (i : InputIx) (x : FqInput) : (s.setFq i x).residue = s.residue := rfl
@[simp] theorem State.setFq_secondOwed (i : InputIx) (x : FqInput) : (s.setFq i x).secondOwed = s.secondOwed := rfl
@[simp] theorem State.setFq_msOwed (i : InputIx) (x : FqInput) : (s.setFq i x).msOwed = s.msOwed := rfl
@[simp] theorem State.setFq_loCycles (i : InputIx) (x : FqInput) : (s.setFq i x).loCycles = s.loCycles := rfl
@[simp] theorem State.setFq_osc (i : InputIx) (x : FqInput) : (s.setFq i x).osc = s.osc := rfl
@[simp] theorem State.setFq_straps (i : InputIx) (x : FqInput) : (s.setFq i x).straps = s.straps := rfl
@[simp] theorem State.setFq_tb (i : InputIx) (x : FqInput) : (s.setFq i x).tb = s.tb := rfl
@[simp] theorem State.setFq_lp (i : InputIx) (x : FqInput) : (s.setFq i x).lp = s.lp := rfl
@[simp] theorem State.setFq_hp (i : InputIx) (x : FqInput) : (s.setFq i x).hp = s.hp := rfl
@[simp] theorem State.setFq_loop (i : InputIx) (x : FqInput) : (s.setFq i x).loop = s.loop := rfl
@[simp] theorem State.setFq_hold (i : InputIx) (x : FqInput) : (s.setFq i x).hold = s.hold := rfl
@[simp] theorem State.setFq_ta (i : InputIx) (x : FqInput) : (s.setFq i x).ta = s.ta := rfl
@[simp] theorem State.setFq_fq (i : InputIx) (x : FqInput) : (s.setFq i x).fq = s.fq.set i x := rfl
@[simp] theorem State.setFq_ofs (i : InputIx) (x : FqInput) : (s.setFq i x).ofs = s.ofs := rfl
@[simp] theorem State.setFq_aligned (i : InputIx) (x : FqInput) : (s.setFq i x).aligned = s.aligned := rfl
@[simp] theorem State.setFq_refs (i : InputIx) (x : FqInput) : (s.setFq i x).refs = s.refs := rfl
@[simp] theorem State.setFq_conflicts (i : InputIx) (x : FqInput) : (s.setFq i x).conflicts = s.conflicts := rfl
@[simp] theorem State.setFq_sel (i : InputIx) (x : FqInput) : (s.setFq i x).sel = s.sel := rfl
@[simp] theorem State.setFq_entries (i : InputIx) (x : FqInput) : (s.setFq i x).entries = s.entries := rfl
@[simp] theorem State.setFq_profiles (i : InputIx) (x : FqInput) : (s.setFq i x).profiles = s.profiles := rfl
@[simp] theorem State.setFq_px (i : InputIx) (x : FqInput) : (s.setFq i x).px = s.px := rfl
@[simp] theorem State.setFq_sched (i : InputIx) (x : FqInput) : (s.setFq i x).sched = s.sched := rfl
@[simp] theorem State.setFq_drops (i : InputIx) (x : FqInput) : (s.setFq i x).drops = s.drops := rfl
@[simp] theorem State.setFq_alarms (i : InputIx) (x : FqInput) : (s.setFq i x).alarms = s.alarms := rfl
@[simp] theorem State.setFq_views (i : InputIx) (x : FqInput) : (s.setFq i x).views = s.views := rfl
@[simp] theorem State.setFq_ports (i : InputIx) (x : FqInput) : (s.setFq i x).ports = s.ports := rfl
@[simp] theorem State.setFq_holder (i : InputIx) (x : FqInput) : (s.setFq i x).holder = s.holder := rfl
@[simp] theorem State.setFq_waitList (i : InputIx) (x : FqInput) : (s.setFq i x).waitList = s.waitList := rfl
@[simp] theorem State.setFq_pending (i : InputIx) (x : FqInput) : (s.setFq i x).pending = s.pending := rfl

/-! ### setOf -/

@[simp] theorem State.setOf_counter (i : Port) (x : OfSlot) : (s.setOf i x).counter = s.counter := rfl
@[simp] theorem State.setOf_residue (i : Port) (x : OfSlot) : (s.setOf i x).residue = s.residue := rfl
@[simp] theorem State.setOf_secondOwed (i : Port) (x : OfSlot) : (s.setOf i x).secondOwed = s.secondOwed := rfl
@[simp] theorem State.setOf_msOwed (i : Port) (x : OfSlot) : (s.setOf i x).msOwed = s.msOwed := rfl
@[simp] theorem State.setOf_loCycles (i : Port) (x : OfSlot) : (s.setOf i x).loCycles = s.loCycles := rfl
@[simp] theorem State.setOf_osc (i : Port) (x : OfSlot) : (s.setOf i x).osc = s.osc := rfl
@[simp] theorem State.setOf_straps (i : Port) (x : OfSlot) : (s.setOf i x).straps = s.straps := rfl
@[simp] theorem State.setOf_tb (i : Port) (x : OfSlot) : (s.setOf i x).tb = s.tb := rfl
@[simp] theorem State.setOf_lp (i : Port) (x : OfSlot) : (s.setOf i x).lp = s.lp := rfl
@[simp] theorem State.setOf_hp (i : Port) (x : OfSlot) : (s.setOf i x).hp = s.hp := rfl
@[simp] theorem State.setOf_loop (i : Port) (x : OfSlot) : (s.setOf i x).loop = s.loop := rfl
@[simp] theorem State.setOf_hold (i : Port) (x : OfSlot) : (s.setOf i x).hold = s.hold := rfl
@[simp] theorem State.setOf_ta (i : Port) (x : OfSlot) : (s.setOf i x).ta = s.ta := rfl
@[simp] theorem State.setOf_fq (i : Port) (x : OfSlot) : (s.setOf i x).fq = s.fq := rfl
@[simp] theorem State.setOf_ofs (i : Port) (x : OfSlot) : (s.setOf i x).ofs = s.ofs.set i x := rfl
@[simp] theorem State.setOf_aligned (i : Port) (x : OfSlot) : (s.setOf i x).aligned = s.aligned := rfl
@[simp] theorem State.setOf_refs (i : Port) (x : OfSlot) : (s.setOf i x).refs = s.refs := rfl
@[simp] theorem State.setOf_conflicts (i : Port) (x : OfSlot) : (s.setOf i x).conflicts = s.conflicts := rfl
@[simp] theorem State.setOf_sel (i : Port) (x : OfSlot) : (s.setOf i x).sel = s.sel := rfl
@[simp] theorem State.setOf_entries (i : Port) (x : OfSlot) : (s.setOf i x).entries = s.entries := rfl
@[simp] theorem State.setOf_profiles (i : Port) (x : OfSlot) : (s.setOf i x).profiles = s.profiles := rfl
@[simp] theorem State.setOf_px (i : Port) (x : OfSlot) : (s.setOf i x).px = s.px := rfl
@[simp] theorem State.setOf_sched (i : Port) (x : OfSlot) : (s.setOf i x).sched = s.sched := rfl
@[simp] theorem State.setOf_drops (i : Port) (x : OfSlot) : (s.setOf i x).drops = s.drops := rfl
@[simp] theorem State.setOf_alarms (i : Port) (x : OfSlot) : (s.setOf i x).alarms = s.alarms := rfl
@[simp] theorem State.setOf_views (i : Port) (x : OfSlot) : (s.setOf i x).views = s.views := rfl
@[simp] theorem State.setOf_ports (i : Port) (x : OfSlot) : (s.setOf i x).ports = s.ports := rfl
@[simp] theorem State.setOf_holder (i : Port) (x : OfSlot) : (s.setOf i x).holder = s.holder := rfl
@[simp] theorem State.setOf_waitList (i : Port) (x : OfSlot) : (s.setOf i x).waitList = s.waitList := rfl
@[simp] theorem State.setOf_pending (i : Port) (x : OfSlot) : (s.setOf i x).pending = s.pending := rfl

/-! ### setRef -/

@[simp] theorem State.setRef_counter (i : Slot) (x : RefRecord) : (s.setRef i x).counter = s.counter := rfl
@[simp] theorem State.setRef_residue (i : Slot) (x : RefRecord) : (s.setRef i x).residue = s.residue := rfl
@[simp] theorem State.setRef_secondOwed (i : Slot) (x : RefRecord) : (s.setRef i x).secondOwed = s.secondOwed := rfl
@[simp] theorem State.setRef_msOwed (i : Slot) (x : RefRecord) : (s.setRef i x).msOwed = s.msOwed := rfl
@[simp] theorem State.setRef_loCycles (i : Slot) (x : RefRecord) : (s.setRef i x).loCycles = s.loCycles := rfl
@[simp] theorem State.setRef_osc (i : Slot) (x : RefRecord) : (s.setRef i x).osc = s.osc := rfl
@[simp] theorem State.setRef_straps (i : Slot) (x : RefRecord) : (s.setRef i x).straps = s.straps := rfl
@[simp] theorem State.setRef_tb (i : Slot) (x : RefRecord) : (s.setRef i x).tb = s.tb := rfl
@[simp] theorem State.setRef_lp (i : Slot) (x : RefRecord) : (s.setRef i x).lp = s.lp := rfl
@[simp] theorem State.setRef_hp (i : Slot) (x : RefRecord) : (s.setRef i x).hp = s.hp := rfl
@[simp] theorem State.setRef_loop (i : Slot) (x : RefRecord) : (s.setRef i x).loop = s.loop := rfl
@[simp] theorem State.setRef_hold (i : Slot) (x : RefRecord) : (s.setRef i x).hold = s.hold := rfl
@[simp] theorem State.setRef_ta (i : Slot) (x : RefRecord) : (s.setRef i x).ta = s.ta := rfl
@[simp] theorem State.setRef_fq (i : Slot) (x : RefRecord) : (s.setRef i x).fq = s.fq := rfl
@[simp] theorem State.setRef_ofs (i : Slot) (x : RefRecord) : (s.setRef i x).ofs = s.ofs := rfl
@[simp] theorem State.setRef_aligned (i : Slot) (x : RefRecord) : (s.setRef i x).aligned = s.aligned := rfl
@[simp] theorem State.setRef_refs (i : Slot) (x : RefRecord) : (s.setRef i x).refs = s.refs.set i x := rfl
@[simp] theorem State.setRef_conflicts (i : Slot) (x : RefRecord) : (s.setRef i x).conflicts = s.conflicts := rfl
@[simp] theorem State.setRef_sel (i : Slot) (x : RefRecord) : (s.setRef i x).sel = s.sel := rfl
@[simp] theorem State.setRef_entries (i : Slot) (x : RefRecord) : (s.setRef i x).entries = s.entries := rfl
@[simp] theorem State.setRef_profiles (i : Slot) (x : RefRecord) : (s.setRef i x).profiles = s.profiles := rfl
@[simp] theorem State.setRef_px (i : Slot) (x : RefRecord) : (s.setRef i x).px = s.px := rfl
@[simp] theorem State.setRef_sched (i : Slot) (x : RefRecord) : (s.setRef i x).sched = s.sched := rfl
@[simp] theorem State.setRef_drops (i : Slot) (x : RefRecord) : (s.setRef i x).drops = s.drops := rfl
@[simp] theorem State.setRef_alarms (i : Slot) (x : RefRecord) : (s.setRef i x).alarms = s.alarms := rfl
@[simp] theorem State.setRef_views (i : Slot) (x : RefRecord) : (s.setRef i x).views = s.views := rfl
@[simp] theorem State.setRef_ports (i : Slot) (x : RefRecord) : (s.setRef i x).ports = s.ports := rfl
@[simp] theorem State.setRef_holder (i : Slot) (x : RefRecord) : (s.setRef i x).holder = s.holder := rfl
@[simp] theorem State.setRef_waitList (i : Slot) (x : RefRecord) : (s.setRef i x).waitList = s.waitList := rfl
@[simp] theorem State.setRef_pending (i : Slot) (x : RefRecord) : (s.setRef i x).pending = s.pending := rfl

/-! ### setEntry -/

@[simp] theorem State.setEntry_counter (i : EntryIx) (x : Option Entry) : (s.setEntry i x).counter = s.counter := rfl
@[simp] theorem State.setEntry_residue (i : EntryIx) (x : Option Entry) : (s.setEntry i x).residue = s.residue := rfl
@[simp] theorem State.setEntry_secondOwed (i : EntryIx) (x : Option Entry) : (s.setEntry i x).secondOwed = s.secondOwed := rfl
@[simp] theorem State.setEntry_msOwed (i : EntryIx) (x : Option Entry) : (s.setEntry i x).msOwed = s.msOwed := rfl
@[simp] theorem State.setEntry_loCycles (i : EntryIx) (x : Option Entry) : (s.setEntry i x).loCycles = s.loCycles := rfl
@[simp] theorem State.setEntry_osc (i : EntryIx) (x : Option Entry) : (s.setEntry i x).osc = s.osc := rfl
@[simp] theorem State.setEntry_straps (i : EntryIx) (x : Option Entry) : (s.setEntry i x).straps = s.straps := rfl
@[simp] theorem State.setEntry_tb (i : EntryIx) (x : Option Entry) : (s.setEntry i x).tb = s.tb := rfl
@[simp] theorem State.setEntry_lp (i : EntryIx) (x : Option Entry) : (s.setEntry i x).lp = s.lp := rfl
@[simp] theorem State.setEntry_hp (i : EntryIx) (x : Option Entry) : (s.setEntry i x).hp = s.hp := rfl
@[simp] theorem State.setEntry_loop (i : EntryIx) (x : Option Entry) : (s.setEntry i x).loop = s.loop := rfl
@[simp] theorem State.setEntry_hold (i : EntryIx) (x : Option Entry) : (s.setEntry i x).hold = s.hold := rfl
@[simp] theorem State.setEntry_ta (i : EntryIx) (x : Option Entry) : (s.setEntry i x).ta = s.ta := rfl
@[simp] theorem State.setEntry_fq (i : EntryIx) (x : Option Entry) : (s.setEntry i x).fq = s.fq := rfl
@[simp] theorem State.setEntry_ofs (i : EntryIx) (x : Option Entry) : (s.setEntry i x).ofs = s.ofs := rfl
@[simp] theorem State.setEntry_aligned (i : EntryIx) (x : Option Entry) : (s.setEntry i x).aligned = s.aligned := rfl
@[simp] theorem State.setEntry_refs (i : EntryIx) (x : Option Entry) : (s.setEntry i x).refs = s.refs := rfl
@[simp] theorem State.setEntry_conflicts (i : EntryIx) (x : Option Entry) : (s.setEntry i x).conflicts = s.conflicts := rfl
@[simp] theorem State.setEntry_sel (i : EntryIx) (x : Option Entry) : (s.setEntry i x).sel = s.sel := rfl
@[simp] theorem State.setEntry_entries (i : EntryIx) (x : Option Entry) : (s.setEntry i x).entries = s.entries.set i x := rfl
@[simp] theorem State.setEntry_profiles (i : EntryIx) (x : Option Entry) : (s.setEntry i x).profiles = s.profiles := rfl
@[simp] theorem State.setEntry_px (i : EntryIx) (x : Option Entry) : (s.setEntry i x).px = s.px := rfl
@[simp] theorem State.setEntry_sched (i : EntryIx) (x : Option Entry) : (s.setEntry i x).sched = s.sched := rfl
@[simp] theorem State.setEntry_drops (i : EntryIx) (x : Option Entry) : (s.setEntry i x).drops = s.drops := rfl
@[simp] theorem State.setEntry_alarms (i : EntryIx) (x : Option Entry) : (s.setEntry i x).alarms = s.alarms := rfl
@[simp] theorem State.setEntry_views (i : EntryIx) (x : Option Entry) : (s.setEntry i x).views = s.views := rfl
@[simp] theorem State.setEntry_ports (i : EntryIx) (x : Option Entry) : (s.setEntry i x).ports = s.ports := rfl
@[simp] theorem State.setEntry_holder (i : EntryIx) (x : Option Entry) : (s.setEntry i x).holder = s.holder := rfl
@[simp] theorem State.setEntry_waitList (i : EntryIx) (x : Option Entry) : (s.setEntry i x).waitList = s.waitList := rfl
@[simp] theorem State.setEntry_pending (i : EntryIx) (x : Option Entry) : (s.setEntry i x).pending = s.pending := rfl

/-! ### setProfile -/

@[simp] theorem State.setProfile_counter (i : ProfileIx) (x : Profile) : (s.setProfile i x).counter = s.counter := rfl
@[simp] theorem State.setProfile_residue (i : ProfileIx) (x : Profile) : (s.setProfile i x).residue = s.residue := rfl
@[simp] theorem State.setProfile_secondOwed (i : ProfileIx) (x : Profile) : (s.setProfile i x).secondOwed = s.secondOwed := rfl
@[simp] theorem State.setProfile_msOwed (i : ProfileIx) (x : Profile) : (s.setProfile i x).msOwed = s.msOwed := rfl
@[simp] theorem State.setProfile_loCycles (i : ProfileIx) (x : Profile) : (s.setProfile i x).loCycles = s.loCycles := rfl
@[simp] theorem State.setProfile_osc (i : ProfileIx) (x : Profile) : (s.setProfile i x).osc = s.osc := rfl
@[simp] theorem State.setProfile_straps (i : ProfileIx) (x : Profile) : (s.setProfile i x).straps = s.straps := rfl
@[simp] theorem State.setProfile_tb (i : ProfileIx) (x : Profile) : (s.setProfile i x).tb = s.tb := rfl
@[simp] theorem State.setProfile_lp (i : ProfileIx) (x : Profile) : (s.setProfile i x).lp = s.lp := rfl
@[simp] theorem State.setProfile_hp (i : ProfileIx) (x : Profile) : (s.setProfile i x).hp = s.hp := rfl
@[simp] theorem State.setProfile_loop (i : ProfileIx) (x : Profile) : (s.setProfile i x).loop = s.loop := rfl
@[simp] theorem State.setProfile_hold (i : ProfileIx) (x : Profile) : (s.setProfile i x).hold = s.hold := rfl
@[simp] theorem State.setProfile_ta (i : ProfileIx) (x : Profile) : (s.setProfile i x).ta = s.ta := rfl
@[simp] theorem State.setProfile_fq (i : ProfileIx) (x : Profile) : (s.setProfile i x).fq = s.fq := rfl
@[simp] theorem State.setProfile_ofs (i : ProfileIx) (x : Profile) : (s.setProfile i x).ofs = s.ofs := rfl
@[simp] theorem State.setProfile_aligned (i : ProfileIx) (x : Profile) : (s.setProfile i x).aligned = s.aligned := rfl
@[simp] theorem State.setProfile_refs (i : ProfileIx) (x : Profile) : (s.setProfile i x).refs = s.refs := rfl
@[simp] theorem State.setProfile_conflicts (i : ProfileIx) (x : Profile) : (s.setProfile i x).conflicts = s.conflicts := rfl
@[simp] theorem State.setProfile_sel (i : ProfileIx) (x : Profile) : (s.setProfile i x).sel = s.sel := rfl
@[simp] theorem State.setProfile_entries (i : ProfileIx) (x : Profile) : (s.setProfile i x).entries = s.entries := rfl
@[simp] theorem State.setProfile_profiles (i : ProfileIx) (x : Profile) : (s.setProfile i x).profiles = s.profiles.set i x := rfl
@[simp] theorem State.setProfile_px (i : ProfileIx) (x : Profile) : (s.setProfile i x).px = s.px := rfl
@[simp] theorem State.setProfile_sched (i : ProfileIx) (x : Profile) : (s.setProfile i x).sched = s.sched := rfl
@[simp] theorem State.setProfile_drops (i : ProfileIx) (x : Profile) : (s.setProfile i x).drops = s.drops := rfl
@[simp] theorem State.setProfile_alarms (i : ProfileIx) (x : Profile) : (s.setProfile i x).alarms = s.alarms := rfl
@[simp] theorem State.setProfile_views (i : ProfileIx) (x : Profile) : (s.setProfile i x).views = s.views := rfl
@[simp] theorem State.setProfile_ports (i : ProfileIx) (x : Profile) : (s.setProfile i x).ports = s.ports := rfl
@[simp] theorem State.setProfile_holder (i : ProfileIx) (x : Profile) : (s.setProfile i x).holder = s.holder := rfl
@[simp] theorem State.setProfile_waitList (i : ProfileIx) (x : Profile) : (s.setProfile i x).waitList = s.waitList := rfl
@[simp] theorem State.setProfile_pending (i : ProfileIx) (x : Profile) : (s.setProfile i x).pending = s.pending := rfl

/-! ### setPx -/

@[simp] theorem State.setPx_counter (i : Px) (x : PulseOut) : (s.setPx i x).counter = s.counter := rfl
@[simp] theorem State.setPx_residue (i : Px) (x : PulseOut) : (s.setPx i x).residue = s.residue := rfl
@[simp] theorem State.setPx_secondOwed (i : Px) (x : PulseOut) : (s.setPx i x).secondOwed = s.secondOwed := rfl
@[simp] theorem State.setPx_msOwed (i : Px) (x : PulseOut) : (s.setPx i x).msOwed = s.msOwed := rfl
@[simp] theorem State.setPx_loCycles (i : Px) (x : PulseOut) : (s.setPx i x).loCycles = s.loCycles := rfl
@[simp] theorem State.setPx_osc (i : Px) (x : PulseOut) : (s.setPx i x).osc = s.osc := rfl
@[simp] theorem State.setPx_straps (i : Px) (x : PulseOut) : (s.setPx i x).straps = s.straps := rfl
@[simp] theorem State.setPx_tb (i : Px) (x : PulseOut) : (s.setPx i x).tb = s.tb := rfl
@[simp] theorem State.setPx_lp (i : Px) (x : PulseOut) : (s.setPx i x).lp = s.lp := rfl
@[simp] theorem State.setPx_hp (i : Px) (x : PulseOut) : (s.setPx i x).hp = s.hp := rfl
@[simp] theorem State.setPx_loop (i : Px) (x : PulseOut) : (s.setPx i x).loop = s.loop := rfl
@[simp] theorem State.setPx_hold (i : Px) (x : PulseOut) : (s.setPx i x).hold = s.hold := rfl
@[simp] theorem State.setPx_ta (i : Px) (x : PulseOut) : (s.setPx i x).ta = s.ta := rfl
@[simp] theorem State.setPx_fq (i : Px) (x : PulseOut) : (s.setPx i x).fq = s.fq := rfl
@[simp] theorem State.setPx_ofs (i : Px) (x : PulseOut) : (s.setPx i x).ofs = s.ofs := rfl
@[simp] theorem State.setPx_aligned (i : Px) (x : PulseOut) : (s.setPx i x).aligned = s.aligned := rfl
@[simp] theorem State.setPx_refs (i : Px) (x : PulseOut) : (s.setPx i x).refs = s.refs := rfl
@[simp] theorem State.setPx_conflicts (i : Px) (x : PulseOut) : (s.setPx i x).conflicts = s.conflicts := rfl
@[simp] theorem State.setPx_sel (i : Px) (x : PulseOut) : (s.setPx i x).sel = s.sel := rfl
@[simp] theorem State.setPx_entries (i : Px) (x : PulseOut) : (s.setPx i x).entries = s.entries := rfl
@[simp] theorem State.setPx_profiles (i : Px) (x : PulseOut) : (s.setPx i x).profiles = s.profiles := rfl
@[simp] theorem State.setPx_px (i : Px) (x : PulseOut) : (s.setPx i x).px = s.px.set i x := rfl
@[simp] theorem State.setPx_sched (i : Px) (x : PulseOut) : (s.setPx i x).sched = s.sched := rfl
@[simp] theorem State.setPx_drops (i : Px) (x : PulseOut) : (s.setPx i x).drops = s.drops := rfl
@[simp] theorem State.setPx_alarms (i : Px) (x : PulseOut) : (s.setPx i x).alarms = s.alarms := rfl
@[simp] theorem State.setPx_views (i : Px) (x : PulseOut) : (s.setPx i x).views = s.views := rfl
@[simp] theorem State.setPx_ports (i : Px) (x : PulseOut) : (s.setPx i x).ports = s.ports := rfl
@[simp] theorem State.setPx_holder (i : Px) (x : PulseOut) : (s.setPx i x).holder = s.holder := rfl
@[simp] theorem State.setPx_waitList (i : Px) (x : PulseOut) : (s.setPx i x).waitList = s.waitList := rfl
@[simp] theorem State.setPx_pending (i : Px) (x : PulseOut) : (s.setPx i x).pending = s.pending := rfl

/-! ### setDrop -/

@[simp] theorem State.setDrop_counter (i : DropIx) (x : DropRec) : (s.setDrop i x).counter = s.counter := rfl
@[simp] theorem State.setDrop_residue (i : DropIx) (x : DropRec) : (s.setDrop i x).residue = s.residue := rfl
@[simp] theorem State.setDrop_secondOwed (i : DropIx) (x : DropRec) : (s.setDrop i x).secondOwed = s.secondOwed := rfl
@[simp] theorem State.setDrop_msOwed (i : DropIx) (x : DropRec) : (s.setDrop i x).msOwed = s.msOwed := rfl
@[simp] theorem State.setDrop_loCycles (i : DropIx) (x : DropRec) : (s.setDrop i x).loCycles = s.loCycles := rfl
@[simp] theorem State.setDrop_osc (i : DropIx) (x : DropRec) : (s.setDrop i x).osc = s.osc := rfl
@[simp] theorem State.setDrop_straps (i : DropIx) (x : DropRec) : (s.setDrop i x).straps = s.straps := rfl
@[simp] theorem State.setDrop_tb (i : DropIx) (x : DropRec) : (s.setDrop i x).tb = s.tb := rfl
@[simp] theorem State.setDrop_lp (i : DropIx) (x : DropRec) : (s.setDrop i x).lp = s.lp := rfl
@[simp] theorem State.setDrop_hp (i : DropIx) (x : DropRec) : (s.setDrop i x).hp = s.hp := rfl
@[simp] theorem State.setDrop_loop (i : DropIx) (x : DropRec) : (s.setDrop i x).loop = s.loop := rfl
@[simp] theorem State.setDrop_hold (i : DropIx) (x : DropRec) : (s.setDrop i x).hold = s.hold := rfl
@[simp] theorem State.setDrop_ta (i : DropIx) (x : DropRec) : (s.setDrop i x).ta = s.ta := rfl
@[simp] theorem State.setDrop_fq (i : DropIx) (x : DropRec) : (s.setDrop i x).fq = s.fq := rfl
@[simp] theorem State.setDrop_ofs (i : DropIx) (x : DropRec) : (s.setDrop i x).ofs = s.ofs := rfl
@[simp] theorem State.setDrop_aligned (i : DropIx) (x : DropRec) : (s.setDrop i x).aligned = s.aligned := rfl
@[simp] theorem State.setDrop_refs (i : DropIx) (x : DropRec) : (s.setDrop i x).refs = s.refs := rfl
@[simp] theorem State.setDrop_conflicts (i : DropIx) (x : DropRec) : (s.setDrop i x).conflicts = s.conflicts := rfl
@[simp] theorem State.setDrop_sel (i : DropIx) (x : DropRec) : (s.setDrop i x).sel = s.sel := rfl
@[simp] theorem State.setDrop_entries (i : DropIx) (x : DropRec) : (s.setDrop i x).entries = s.entries := rfl
@[simp] theorem State.setDrop_profiles (i : DropIx) (x : DropRec) : (s.setDrop i x).profiles = s.profiles := rfl
@[simp] theorem State.setDrop_px (i : DropIx) (x : DropRec) : (s.setDrop i x).px = s.px := rfl
@[simp] theorem State.setDrop_sched (i : DropIx) (x : DropRec) : (s.setDrop i x).sched = s.sched := rfl
@[simp] theorem State.setDrop_drops (i : DropIx) (x : DropRec) : (s.setDrop i x).drops = s.drops.set i x := rfl
@[simp] theorem State.setDrop_alarms (i : DropIx) (x : DropRec) : (s.setDrop i x).alarms = s.alarms := rfl
@[simp] theorem State.setDrop_views (i : DropIx) (x : DropRec) : (s.setDrop i x).views = s.views := rfl
@[simp] theorem State.setDrop_ports (i : DropIx) (x : DropRec) : (s.setDrop i x).ports = s.ports := rfl
@[simp] theorem State.setDrop_holder (i : DropIx) (x : DropRec) : (s.setDrop i x).holder = s.holder := rfl
@[simp] theorem State.setDrop_waitList (i : DropIx) (x : DropRec) : (s.setDrop i x).waitList = s.waitList := rfl
@[simp] theorem State.setDrop_pending (i : DropIx) (x : DropRec) : (s.setDrop i x).pending = s.pending := rfl

/-! ### setAlarm -/

@[simp] theorem State.setAlarm_counter (i : AlarmIx) (x : AlarmRec) : (s.setAlarm i x).counter = s.counter := rfl
@[simp] theorem State.setAlarm_residue (i : AlarmIx) (x : AlarmRec) : (s.setAlarm i x).residue = s.residue := rfl
@[simp] theorem State.setAlarm_secondOwed (i : AlarmIx) (x : AlarmRec) : (s.setAlarm i x).secondOwed = s.secondOwed := rfl
@[simp] theorem State.setAlarm_msOwed (i : AlarmIx) (x : AlarmRec) : (s.setAlarm i x).msOwed = s.msOwed := rfl
@[simp] theorem State.setAlarm_loCycles (i : AlarmIx) (x : AlarmRec) : (s.setAlarm i x).loCycles = s.loCycles := rfl
@[simp] theorem State.setAlarm_osc (i : AlarmIx) (x : AlarmRec) : (s.setAlarm i x).osc = s.osc := rfl
@[simp] theorem State.setAlarm_straps (i : AlarmIx) (x : AlarmRec) : (s.setAlarm i x).straps = s.straps := rfl
@[simp] theorem State.setAlarm_tb (i : AlarmIx) (x : AlarmRec) : (s.setAlarm i x).tb = s.tb := rfl
@[simp] theorem State.setAlarm_lp (i : AlarmIx) (x : AlarmRec) : (s.setAlarm i x).lp = s.lp := rfl
@[simp] theorem State.setAlarm_hp (i : AlarmIx) (x : AlarmRec) : (s.setAlarm i x).hp = s.hp := rfl
@[simp] theorem State.setAlarm_loop (i : AlarmIx) (x : AlarmRec) : (s.setAlarm i x).loop = s.loop := rfl
@[simp] theorem State.setAlarm_hold (i : AlarmIx) (x : AlarmRec) : (s.setAlarm i x).hold = s.hold := rfl
@[simp] theorem State.setAlarm_ta (i : AlarmIx) (x : AlarmRec) : (s.setAlarm i x).ta = s.ta := rfl
@[simp] theorem State.setAlarm_fq (i : AlarmIx) (x : AlarmRec) : (s.setAlarm i x).fq = s.fq := rfl
@[simp] theorem State.setAlarm_ofs (i : AlarmIx) (x : AlarmRec) : (s.setAlarm i x).ofs = s.ofs := rfl
@[simp] theorem State.setAlarm_aligned (i : AlarmIx) (x : AlarmRec) : (s.setAlarm i x).aligned = s.aligned := rfl
@[simp] theorem State.setAlarm_refs (i : AlarmIx) (x : AlarmRec) : (s.setAlarm i x).refs = s.refs := rfl
@[simp] theorem State.setAlarm_conflicts (i : AlarmIx) (x : AlarmRec) : (s.setAlarm i x).conflicts = s.conflicts := rfl
@[simp] theorem State.setAlarm_sel (i : AlarmIx) (x : AlarmRec) : (s.setAlarm i x).sel = s.sel := rfl
@[simp] theorem State.setAlarm_entries (i : AlarmIx) (x : AlarmRec) : (s.setAlarm i x).entries = s.entries := rfl
@[simp] theorem State.setAlarm_profiles (i : AlarmIx) (x : AlarmRec) : (s.setAlarm i x).profiles = s.profiles := rfl
@[simp] theorem State.setAlarm_px (i : AlarmIx) (x : AlarmRec) : (s.setAlarm i x).px = s.px := rfl
@[simp] theorem State.setAlarm_sched (i : AlarmIx) (x : AlarmRec) : (s.setAlarm i x).sched = s.sched := rfl
@[simp] theorem State.setAlarm_drops (i : AlarmIx) (x : AlarmRec) : (s.setAlarm i x).drops = s.drops := rfl
@[simp] theorem State.setAlarm_alarms (i : AlarmIx) (x : AlarmRec) : (s.setAlarm i x).alarms = s.alarms.set i x := rfl
@[simp] theorem State.setAlarm_views (i : AlarmIx) (x : AlarmRec) : (s.setAlarm i x).views = s.views := rfl
@[simp] theorem State.setAlarm_ports (i : AlarmIx) (x : AlarmRec) : (s.setAlarm i x).ports = s.ports := rfl
@[simp] theorem State.setAlarm_holder (i : AlarmIx) (x : AlarmRec) : (s.setAlarm i x).holder = s.holder := rfl
@[simp] theorem State.setAlarm_waitList (i : AlarmIx) (x : AlarmRec) : (s.setAlarm i x).waitList = s.waitList := rfl
@[simp] theorem State.setAlarm_pending (i : AlarmIx) (x : AlarmRec) : (s.setAlarm i x).pending = s.pending := rfl

/-! ### setView -/

@[simp] theorem State.setView_counter (i : Port) (x : View) : (s.setView i x).counter = s.counter := rfl
@[simp] theorem State.setView_residue (i : Port) (x : View) : (s.setView i x).residue = s.residue := rfl
@[simp] theorem State.setView_secondOwed (i : Port) (x : View) : (s.setView i x).secondOwed = s.secondOwed := rfl
@[simp] theorem State.setView_msOwed (i : Port) (x : View) : (s.setView i x).msOwed = s.msOwed := rfl
@[simp] theorem State.setView_loCycles (i : Port) (x : View) : (s.setView i x).loCycles = s.loCycles := rfl
@[simp] theorem State.setView_osc (i : Port) (x : View) : (s.setView i x).osc = s.osc := rfl
@[simp] theorem State.setView_straps (i : Port) (x : View) : (s.setView i x).straps = s.straps := rfl
@[simp] theorem State.setView_tb (i : Port) (x : View) : (s.setView i x).tb = s.tb := rfl
@[simp] theorem State.setView_lp (i : Port) (x : View) : (s.setView i x).lp = s.lp := rfl
@[simp] theorem State.setView_hp (i : Port) (x : View) : (s.setView i x).hp = s.hp := rfl
@[simp] theorem State.setView_loop (i : Port) (x : View) : (s.setView i x).loop = s.loop := rfl
@[simp] theorem State.setView_hold (i : Port) (x : View) : (s.setView i x).hold = s.hold := rfl
@[simp] theorem State.setView_ta (i : Port) (x : View) : (s.setView i x).ta = s.ta := rfl
@[simp] theorem State.setView_fq (i : Port) (x : View) : (s.setView i x).fq = s.fq := rfl
@[simp] theorem State.setView_ofs (i : Port) (x : View) : (s.setView i x).ofs = s.ofs := rfl
@[simp] theorem State.setView_aligned (i : Port) (x : View) : (s.setView i x).aligned = s.aligned := rfl
@[simp] theorem State.setView_refs (i : Port) (x : View) : (s.setView i x).refs = s.refs := rfl
@[simp] theorem State.setView_conflicts (i : Port) (x : View) : (s.setView i x).conflicts = s.conflicts := rfl
@[simp] theorem State.setView_sel (i : Port) (x : View) : (s.setView i x).sel = s.sel := rfl
@[simp] theorem State.setView_entries (i : Port) (x : View) : (s.setView i x).entries = s.entries := rfl
@[simp] theorem State.setView_profiles (i : Port) (x : View) : (s.setView i x).profiles = s.profiles := rfl
@[simp] theorem State.setView_px (i : Port) (x : View) : (s.setView i x).px = s.px := rfl
@[simp] theorem State.setView_sched (i : Port) (x : View) : (s.setView i x).sched = s.sched := rfl
@[simp] theorem State.setView_drops (i : Port) (x : View) : (s.setView i x).drops = s.drops := rfl
@[simp] theorem State.setView_alarms (i : Port) (x : View) : (s.setView i x).alarms = s.alarms := rfl
@[simp] theorem State.setView_views (i : Port) (x : View) : (s.setView i x).views = s.views.set i x := rfl
@[simp] theorem State.setView_ports (i : Port) (x : View) : (s.setView i x).ports = s.ports := rfl
@[simp] theorem State.setView_holder (i : Port) (x : View) : (s.setView i x).holder = s.holder := rfl
@[simp] theorem State.setView_waitList (i : Port) (x : View) : (s.setView i x).waitList = s.waitList := rfl
@[simp] theorem State.setView_pending (i : Port) (x : View) : (s.setView i x).pending = s.pending := rfl

/-! ### setPort -/

@[simp] theorem State.setPort_counter (i : Port) (x : PortRec) : (s.setPort i x).counter = s.counter := rfl
@[simp] theorem State.setPort_residue (i : Port) (x : PortRec) : (s.setPort i x).residue = s.residue := rfl
@[simp] theorem State.setPort_secondOwed (i : Port) (x : PortRec) : (s.setPort i x).secondOwed = s.secondOwed := rfl
@[simp] theorem State.setPort_msOwed (i : Port) (x : PortRec) : (s.setPort i x).msOwed = s.msOwed := rfl
@[simp] theorem State.setPort_loCycles (i : Port) (x : PortRec) : (s.setPort i x).loCycles = s.loCycles := rfl
@[simp] theorem State.setPort_osc (i : Port) (x : PortRec) : (s.setPort i x).osc = s.osc := rfl
@[simp] theorem State.setPort_straps (i : Port) (x : PortRec) : (s.setPort i x).straps = s.straps := rfl
@[simp] theorem State.setPort_tb (i : Port) (x : PortRec) : (s.setPort i x).tb = s.tb := rfl
@[simp] theorem State.setPort_lp (i : Port) (x : PortRec) : (s.setPort i x).lp = s.lp := rfl
@[simp] theorem State.setPort_hp (i : Port) (x : PortRec) : (s.setPort i x).hp = s.hp := rfl
@[simp] theorem State.setPort_loop (i : Port) (x : PortRec) : (s.setPort i x).loop = s.loop := rfl
@[simp] theorem State.setPort_hold (i : Port) (x : PortRec) : (s.setPort i x).hold = s.hold := rfl
@[simp] theorem State.setPort_ta (i : Port) (x : PortRec) : (s.setPort i x).ta = s.ta := rfl
@[simp] theorem State.setPort_fq (i : Port) (x : PortRec) : (s.setPort i x).fq = s.fq := rfl
@[simp] theorem State.setPort_ofs (i : Port) (x : PortRec) : (s.setPort i x).ofs = s.ofs := rfl
@[simp] theorem State.setPort_aligned (i : Port) (x : PortRec) : (s.setPort i x).aligned = s.aligned := rfl
@[simp] theorem State.setPort_refs (i : Port) (x : PortRec) : (s.setPort i x).refs = s.refs := rfl
@[simp] theorem State.setPort_conflicts (i : Port) (x : PortRec) : (s.setPort i x).conflicts = s.conflicts := rfl
@[simp] theorem State.setPort_sel (i : Port) (x : PortRec) : (s.setPort i x).sel = s.sel := rfl
@[simp] theorem State.setPort_entries (i : Port) (x : PortRec) : (s.setPort i x).entries = s.entries := rfl
@[simp] theorem State.setPort_profiles (i : Port) (x : PortRec) : (s.setPort i x).profiles = s.profiles := rfl
@[simp] theorem State.setPort_px (i : Port) (x : PortRec) : (s.setPort i x).px = s.px := rfl
@[simp] theorem State.setPort_sched (i : Port) (x : PortRec) : (s.setPort i x).sched = s.sched := rfl
@[simp] theorem State.setPort_drops (i : Port) (x : PortRec) : (s.setPort i x).drops = s.drops := rfl
@[simp] theorem State.setPort_alarms (i : Port) (x : PortRec) : (s.setPort i x).alarms = s.alarms := rfl
@[simp] theorem State.setPort_views (i : Port) (x : PortRec) : (s.setPort i x).views = s.views := rfl
@[simp] theorem State.setPort_ports (i : Port) (x : PortRec) : (s.setPort i x).ports = s.ports.set i x := rfl
@[simp] theorem State.setPort_holder (i : Port) (x : PortRec) : (s.setPort i x).holder = s.holder := rfl
@[simp] theorem State.setPort_waitList (i : Port) (x : PortRec) : (s.setPort i x).waitList = s.waitList := rfl
@[simp] theorem State.setPort_pending (i : Port) (x : PortRec) : (s.setPort i x).pending = s.pending := rfl

/-! ### setPending -/

@[simp] theorem State.setPending_counter (x : List Instr) : (s.setPending x).counter = s.counter := rfl
@[simp] theorem State.setPending_residue (x : List Instr) : (s.setPending x).residue = s.residue := rfl
@[simp] theorem State.setPending_secondOwed (x : List Instr) : (s.setPending x).secondOwed = s.secondOwed := rfl
@[simp] theorem State.setPending_msOwed (x : List Instr) : (s.setPending x).msOwed = s.msOwed := rfl
@[simp] theorem State.setPending_loCycles (x : List Instr) : (s.setPending x).loCycles = s.loCycles := rfl
@[simp] theorem State.setPending_osc (x : List Instr) : (s.setPending x).osc = s.osc := rfl
@[simp] theorem State.setPending_straps (x : List Instr) : (s.setPending x).straps = s.straps := rfl
@[simp] theorem State.setPending_tb (x : List Instr) : (s.setPending x).tb = s.tb := rfl
@[simp] theorem State.setPending_lp (x : List Instr) : (s.setPending x).lp = s.lp := rfl
@[simp] theorem State.setPending_hp (x : List Instr) : (s.setPending x).hp = s.hp := rfl
@[simp] theorem State.setPending_loop (x : List Instr) : (s.setPending x).loop = s.loop := rfl
@[simp] theorem State.setPending_hold (x : List Instr) : (s.setPending x).hold = s.hold := rfl
@[simp] theorem State.setPending_ta (x : List Instr) : (s.setPending x).ta = s.ta := rfl
@[simp] theorem State.setPending_fq (x : List Instr) : (s.setPending x).fq = s.fq := rfl
@[simp] theorem State.setPending_ofs (x : List Instr) : (s.setPending x).ofs = s.ofs := rfl
@[simp] theorem State.setPending_aligned (x : List Instr) : (s.setPending x).aligned = s.aligned := rfl
@[simp] theorem State.setPending_refs (x : List Instr) : (s.setPending x).refs = s.refs := rfl
@[simp] theorem State.setPending_conflicts (x : List Instr) : (s.setPending x).conflicts = s.conflicts := rfl
@[simp] theorem State.setPending_sel (x : List Instr) : (s.setPending x).sel = s.sel := rfl
@[simp] theorem State.setPending_entries (x : List Instr) : (s.setPending x).entries = s.entries := rfl
@[simp] theorem State.setPending_profiles (x : List Instr) : (s.setPending x).profiles = s.profiles := rfl
@[simp] theorem State.setPending_px (x : List Instr) : (s.setPending x).px = s.px := rfl
@[simp] theorem State.setPending_sched (x : List Instr) : (s.setPending x).sched = s.sched := rfl
@[simp] theorem State.setPending_drops (x : List Instr) : (s.setPending x).drops = s.drops := rfl
@[simp] theorem State.setPending_alarms (x : List Instr) : (s.setPending x).alarms = s.alarms := rfl
@[simp] theorem State.setPending_views (x : List Instr) : (s.setPending x).views = s.views := rfl
@[simp] theorem State.setPending_ports (x : List Instr) : (s.setPending x).ports = s.ports := rfl
@[simp] theorem State.setPending_holder (x : List Instr) : (s.setPending x).holder = s.holder := rfl
@[simp] theorem State.setPending_waitList (x : List Instr) : (s.setPending x).waitList = s.waitList := rfl
@[simp] theorem State.setPending_pending (x : List Instr) : (s.setPending x).pending = x := rfl

/-! ### Reading a table back -/

theorem modifyAt_self {α : Type} {n : Nat} (v : Vector α n) (i : Fin n) (f : α → α) : (modifyAt v i f)[i] = f v[i] := by
  simp [modifyAt]

@[simp] theorem State.setTa_self (i : InputIx) (x : TaInput) : (s.setTa i x).ta[i] = x := by simp [State.setTa]

theorem State.setTa_other (i j : InputIx) (x : TaInput) (h : j ≠ i) : (s.setTa i x).ta[j] = s.ta[j] := by
  simp [State.setTa, Fin.val_inj, Ne.symm h]

@[simp] theorem State.setFq_self (i : InputIx) (x : FqInput) : (s.setFq i x).fq[i] = x := by simp [State.setFq]

theorem State.setFq_other (i j : InputIx) (x : FqInput) (h : j ≠ i) : (s.setFq i x).fq[j] = s.fq[j] := by
  simp [State.setFq, Fin.val_inj, Ne.symm h]

@[simp] theorem State.setOf_self (i : Port) (x : OfSlot) : (s.setOf i x).ofs[i] = x := by simp [State.setOf]

theorem State.setOf_other (i j : Port) (x : OfSlot) (h : j ≠ i) : (s.setOf i x).ofs[j] = s.ofs[j] := by
  simp [State.setOf, Fin.val_inj, Ne.symm h]

@[simp] theorem State.setRef_self (i : Slot) (x : RefRecord) : (s.setRef i x).refs[i] = x := by simp [State.setRef]

theorem State.setRef_other (i j : Slot) (x : RefRecord) (h : j ≠ i) : (s.setRef i x).refs[j] = s.refs[j] := by
  simp [State.setRef, Fin.val_inj, Ne.symm h]

@[simp] theorem State.setEntry_self (i : EntryIx) (x : Option Entry) : (s.setEntry i x).entries[i] = x := by simp [State.setEntry]

theorem State.setEntry_other (i j : EntryIx) (x : Option Entry) (h : j ≠ i) : (s.setEntry i x).entries[j] = s.entries[j] := by
  simp [State.setEntry, Fin.val_inj, Ne.symm h]

@[simp] theorem State.setProfile_self (i : ProfileIx) (x : Profile) : (s.setProfile i x).profiles[i] = x := by simp [State.setProfile]

theorem State.setProfile_other (i j : ProfileIx) (x : Profile) (h : j ≠ i) : (s.setProfile i x).profiles[j] = s.profiles[j] := by
  simp [State.setProfile, Fin.val_inj, Ne.symm h]

@[simp] theorem State.setPx_self (i : Px) (x : PulseOut) : (s.setPx i x).px[i] = x := by simp [State.setPx]

theorem State.setPx_other (i j : Px) (x : PulseOut) (h : j ≠ i) : (s.setPx i x).px[j] = s.px[j] := by
  simp [State.setPx, Fin.val_inj, Ne.symm h]

@[simp] theorem State.setDrop_self (i : DropIx) (x : DropRec) : (s.setDrop i x).drops[i] = x := by simp [State.setDrop]

theorem State.setDrop_other (i j : DropIx) (x : DropRec) (h : j ≠ i) : (s.setDrop i x).drops[j] = s.drops[j] := by
  simp [State.setDrop, Fin.val_inj, Ne.symm h]

@[simp] theorem State.setAlarm_self (i : AlarmIx) (x : AlarmRec) : (s.setAlarm i x).alarms[i] = x := by simp [State.setAlarm]

theorem State.setAlarm_other (i j : AlarmIx) (x : AlarmRec) (h : j ≠ i) : (s.setAlarm i x).alarms[j] = s.alarms[j] := by
  simp [State.setAlarm, Fin.val_inj, Ne.symm h]

@[simp] theorem State.setView_self (i : Port) (x : View) : (s.setView i x).views[i] = x := by simp [State.setView]

theorem State.setView_other (i j : Port) (x : View) (h : j ≠ i) : (s.setView i x).views[j] = s.views[j] := by
  simp [State.setView, Fin.val_inj, Ne.symm h]

@[simp] theorem State.setPort_self (i : Port) (x : PortRec) : (s.setPort i x).ports[i] = x := by simp [State.setPort]

theorem State.setPort_other (i j : Port) (x : PortRec) (h : j ≠ i) : (s.setPort i x).ports[j] = s.ports[j] := by
  simp [State.setPort, Fin.val_inj, Ne.symm h]

/-! ### Boundaries owed and monitor time passed -/

@[simp] theorem MsOwed.owe_boundaries (m : MsOwed) (n : Nat) : (m.owe n).boundaries = m.boundaries + n := rfl
@[simp] theorem MsOwed.owe_planned (m : MsOwed) (n : Nat) : (m.owe n).planned = m.planned := rfl
@[simp] theorem MsOwed.owe_zero (m : MsOwed) : m.owe 0 = m := rfl
@[simp] theorem MsOwed.allPlanned_boundaries (m : MsOwed) : m.allPlanned.boundaries = m.boundaries := rfl
@[simp] theorem MsOwed.allPlanned_planned (m : MsOwed) : m.allPlanned.planned = m.boundaries := rfl
@[simp] theorem MsOwed.without_boundaries (m : MsOwed) (n : Nat) : (m.without n).boundaries = m.boundaries - n := rfl
@[simp] theorem MsOwed.without_planned (m : MsOwed) (n : Nat) :
    (m.without n).planned = min m.planned (m.boundaries - n) := rfl

@[simp] theorem OscMonitor.lapse_now (o : OscMonitor) (d : Nat) : (o.lapse d).now = o.now + d := rfl
@[simp] theorem OscMonitor.lapse_judgement (o : OscMonitor) (d : Nat) : (o.lapse d).judgement = o.judgement := rfl
@[simp] theorem OscMonitor.lapse_goodRun (o : OscMonitor) (d : Nat) : (o.lapse d).goodRun = o.goodRun := rfl
@[simp] theorem OscMonitor.lapse_gateEnd (o : OscMonitor) (d : Nat) : (o.lapse d).gateEnd = o.gateEnd := rfl
@[simp] theorem OscMonitor.lapse_gateEdges (o : OscMonitor) (d : Nat) : (o.lapse d).gateEdges = o.gateEdges := rfl
@[simp] theorem OscMonitor.lapse_gapInGate (o : OscMonitor) (d : Nat) : (o.lapse d).gapInGate = o.gapInGate := rfl
@[simp] theorem OscMonitor.lapse_warmup (o : OscMonitor) (d : Nat) : (o.lapse d).warmup = o.warmup := rfl

/-- The counter after a lapse, when it is not frozen: the reading lies that far on, and what it passed is owed. -/
theorem State.runCounter_running (d : Nat) (h : s.tb.state ≠ .fault) :
    s.runCounter d = { s with
      counter := Reading.at (s.counter.instant + d) s.counter.frac
      secondOwed := s.secondOwed + s.counter.secondsPassed d
      msOwed := s.msOwed.owe (s.counter.millisPassed d) } := by
  simp [State.runCounter, h]

/-- A frozen counter takes no lapse (R13). -/
theorem State.runCounter_fault (d : Nat) (h : s.tb.state = .fault) : s.runCounter d = s := by
  simp [State.runCounter, h]

@[simp] theorem State.runMonitor_osc (d : Nat) : (s.runMonitor d).osc = s.osc.lapse d := rfl

/-- Monitor time that reaches an instant stands at it, or where it stood when that lies behind. -/
@[simp] theorem State.reachMonitor_now (t : Nat) : (s.reachMonitor t).osc.now = max s.osc.now t := by
  simp only [State.reachMonitor, State.runMonitor_osc, OscMonitor.lapse_now]
  omega

end Sys2Proof.Machine
end

