-- ==== Sys2Proof/Laws/Tables.lean ====
section
/-! SUPPORT. What the operations on tables, counts and bounded lists can do. -/

namespace Sys2Proof.Machine

/-! ### Tables -/

@[simp] theorem mapAll_get {α : Type} {n : Nat} (v : Vector α n) (f : Fin n → α → α) (i : Fin n) :
    (mapAll v f)[i] = f i v[i] := by simp [mapAll]

/-- What one index does not change, all of them together do not. -/
theorem forEach_keeps {σ τ : Type} (n : Nat) (s : σ) (f : Fin n → σ → σ) (g : σ → τ)
    (h : ∀ i t, g (f i t) = g t) : g (forEach n s f) = g s := by
  unfold forEach
  induction List.finRange n generalizing s with
  | nil => rfl
  | cons i l ih => rw [List.foldl_cons, ih, h]

/-- A property that each index keeps is kept by all of them together. -/
theorem forEach_invariant {σ : Type} (n : Nat) (s : σ) (f : Fin n → σ → σ) (P : σ → Prop)
    (h : ∀ i t, P t → P (f i t)) (hs : P s) : P (forEach n s f) := by
  unfold forEach
  induction List.finRange n generalizing s with
  | nil => exact hs
  | cons i l ih => exact ih _ (h i s hs)

theorem anyIndex_iff {n : Nat} (p : Fin n → Bool) : anyIndex n p = true ↔ ∃ i, p i = true := by
  simp [anyIndex]

/-! ### Counts and bounds -/

theorem countUp_le (limit n : Nat) : countUp limit n ≤ limit := Nat.min_le_right _ _

theorem clampTo_within (bound v : Int) (h : 0 ≤ bound) : within bound (clampTo bound v) := by
  unfold within clampTo
  omega

/-- A value within the bound is not moved by it. -/
theorem clampTo_eq (bound v : Int) (h : within bound v) : clampTo bound v = v := by
  unfold within at h
  unfold clampTo
  omega

theorem pushBounded_length {α : Type} (size : Nat) (l : List α) (a : α) (_ : 1 ≤ size) :
    (pushBounded size l a).length ≤ size := by
  simp [pushBounded]
  omega

/-- The newest end of a bounded list is what joined it. -/
theorem pushBounded_newest {α : Type} (size : Nat) (l : List α) (a : α) (_ : 1 ≤ size) :
    (pushBounded size l a).getLast? = some a := by
  have : l.length + 1 - size ≤ l.length := by omega
  simp [pushBounded, List.drop_append_of_le_length this]

/-! ### Readings -/

theorem wrapInstant_lt (i : Int) : wrapInstant i < Config.siteSpan := by
  have h : (0 : Int) < (Config.siteSpan : Int) := by decide
  have := Int.emod_lt_of_pos i h
  have := Int.emod_nonneg i (ne_of_gt h)
  unfold wrapInstant
  omega

@[simp] theorem Reading.at_frac (i frac : Nat) : (Reading.at i frac).frac = frac := rfl

theorem Reading.at_sec_lt (i frac : Nat) : (Reading.at i frac).sec < Config.siteSeconds :=
  Nat.mod_lt _ (by decide)

theorem Reading.at_ps_lt (i frac : Nat) : (Reading.at i frac).ps < Config.psPerSecond :=
  Nat.mod_lt _ (by decide)

@[simp] theorem Reading.moved_frac (r : Reading) (a : Int) : (r.moved a).frac = r.frac := rfl

theorem floor125_le (i : Nat) : floor125 i ≤ i := Nat.div_mul_le_self _ _

theorem floor125_mod (i : Nat) : floor125 i % 125 = 0 := Nat.mul_mod_left _ _

end Sys2Proof.Machine
end

