-- ==== Sys2Proof/Laws/FramesTimebase.lean ====
section
/-! SUPPORT. What each operation of Ops, Flags, Holdover, Timebase, Loop can change: the fields named by its lemma, and no other. -/

namespace Sys2Proof.Machine

variable (fs : List Field) (s t : State)

theorem OnlyChanges.refl : OnlyChanges fs s s := fun f _ => by cases f <;> rfl

@[simp] theorem onlyChanges_self : OnlyChanges fs s s ↔ True := iff_true_intro (OnlyChanges.refl fs s)

theorem OnlyChanges.trans {fs : List Field} {s t u : State} (h : OnlyChanges fs s t) (k : OnlyChanges fs t u) :
    OnlyChanges fs s u := fun f hf => by
  have a := h f hf
  have b := k f hf
  cases f <;> exact b.trans a

theorem OnlyChanges.mono {fs gs : List Field} {s t : State} (h : OnlyChanges fs s t) (k : ∀ f ∈ fs, f ∈ gs) :
    OnlyChanges gs s t := fun f hf => h f fun hm => hf (k f hm)

/-- An update that leaves every field but those named leaves what has changed as it was. -/
theorem onlyChanges_iff {fs : List Field} {s t u : State} (h : OnlyChanges fs t u) :
    OnlyChanges fs s u ↔ OnlyChanges fs s t :=
  ⟨fun k f hf => by
      have a := h f hf
      have b := k f hf
      cases f <;> exact a.symm.trans b,
    fun k => k.trans h⟩

/-- What each index leaves, all of them together leave. -/
theorem forEach_only (n : Nat) (f : Fin n → State → State)
    (h : ∀ i u, OnlyChanges fs s (f i u) ↔ OnlyChanges fs s u) :
    OnlyChanges fs s (forEach n t f) ↔ OnlyChanges fs s t := by
  unfold forEach
  induction List.finRange n generalizing t with
  | nil => rfl
  | cons i l ih => rw [List.foldl_cons, ih, h]

@[simp] theorem onlyChanges_counter (x) (h : Field.counter ∈ fs) :
    OnlyChanges fs s { t with counter := x } ↔ OnlyChanges fs s t :=
  onlyChanges_iff fun f hf => by cases f <;> first | rfl | exact absurd h hf

@[simp] theorem onlyChanges_residue (x) (h : Field.residue ∈ fs) :
    OnlyChanges fs s { t with residue := x } ↔ OnlyChanges fs s t :=
  onlyChanges_iff fun f hf => by cases f <;> first | rfl | exact absurd h hf

@[simp] theorem onlyChanges_secondOwed (x) (h : Field.secondOwed ∈ fs) :
    OnlyChanges fs s { t with secondOwed := x } ↔ OnlyChanges fs s t :=
  onlyChanges_iff fun f hf => by cases f <;> first | rfl | exact absurd h hf

@[simp] theorem onlyChanges_msOwed (x) (h : Field.msOwed ∈ fs) :
    OnlyChanges fs s { t with msOwed := x } ↔ OnlyChanges fs s t :=
  onlyChanges_iff fun f hf => by cases f <;> first | rfl | exact absurd h hf

@[simp] theorem onlyChanges_loCycles (x) (h : Field.loCycles ∈ fs) :
    OnlyChanges fs s { t with loCycles := x } ↔ OnlyChanges fs s t :=
  onlyChanges_iff fun f hf => by cases f <;> first | rfl | exact absurd h hf

@[simp] theorem onlyChanges_osc (x) (h : Field.osc ∈ fs) :
    OnlyChanges fs s { t with osc := x } ↔ OnlyChanges fs s t :=
  onlyChanges_iff fun f hf => by cases f <;> first | rfl | exact absurd h hf

@[simp] theorem onlyChanges_straps (x) (h : Field.straps ∈ fs) :
    OnlyChanges fs s { t with straps := x } ↔ OnlyChanges fs s t :=
  onlyChanges_iff fun f hf => by cases f <;> first | rfl | exact absurd h hf

@[simp] theorem onlyChanges_tb (x) (h : Field.tb ∈ fs) :
    OnlyChanges fs s { t with tb := x } ↔ OnlyChanges fs s t :=
  onlyChanges_iff fun f hf => by cases f <;> first | rfl | exact absurd h hf

@[simp] theorem onlyChanges_lp (x) (h : Field.lp ∈ fs) :
    OnlyChanges fs s { t with lp := x } ↔ OnlyChanges fs s t :=
  onlyChanges_iff fun f hf => by cases f <;> first | rfl | exact absurd h hf

@[simp] theorem onlyChanges_hp (x) (h : Field.hp ∈ fs) :
    OnlyChanges fs s { t with hp := x } ↔ OnlyChanges fs s t :=
  onlyChanges_iff fun f hf => by cases f <;> first | rfl | exact absurd h hf

@[simp] theorem onlyChanges_loop (x) (h : Field.loop ∈ fs) :
    OnlyChanges fs s { t with loop := x } ↔ OnlyChanges fs s t :=
  onlyChanges_iff fun f hf => by cases f <;> first | rfl | exact absurd h hf

@[simp] theorem onlyChanges_hold (x) (h : Field.hold ∈ fs) :
    OnlyChanges fs s { t with hold := x } ↔ OnlyChanges fs s t :=
  onlyChanges_iff fun f hf => by cases f <;> first | rfl | exact absurd h hf

@[simp] theorem onlyChanges_ta (x) (h : Field.ta ∈ fs) :
    OnlyChanges fs s { t with ta := x } ↔ OnlyChanges fs s t :=
  onlyChanges_iff fun f hf => by cases f <;> first | rfl | exact absurd h hf

@[simp] theorem onlyChanges_fq (x) (h : Field.fq ∈ fs) :
    OnlyChanges fs s { t with fq := x } ↔ OnlyChanges fs s t :=
  onlyChanges_iff fun f hf => by cases f <;> first | rfl | exact absurd h hf

@[simp] theorem onlyChanges_ofs (x) (h : Field.ofs ∈ fs) :
    OnlyChanges fs s { t with ofs := x } ↔ OnlyChanges fs s t :=
  onlyChanges_iff fun f hf => by cases f <;> first | rfl | exact absurd h hf

@[simp] theorem onlyChanges_aligned (x) (h : Field.aligned ∈ fs) :
    OnlyChanges fs s { t with aligned := x } ↔ OnlyChanges fs s t :=
  onlyChanges_iff fun f hf => by cases f <;> first | rfl | exact absurd h hf

@[simp] theorem onlyChanges_refs (x) (h : Field.refs ∈ fs) :
    OnlyChanges fs s { t with refs := x } ↔ OnlyChanges fs s t :=
  onlyChanges_iff fun f hf => by cases f <;> first | rfl | exact absurd h hf

@[simp] theorem onlyChanges_conflicts (x) (h : Field.conflicts ∈ fs) :
    OnlyChanges fs s { t with conflicts := x } ↔ OnlyChanges fs s t :=
  onlyChanges_iff fun f hf => by cases f <;> first | rfl | exact absurd h hf

@[simp] theorem onlyChanges_sel (x) (h : Field.sel ∈ fs) :
    OnlyChanges fs s { t with sel := x } ↔ OnlyChanges fs s t :=
  onlyChanges_iff fun f hf => by cases f <;> first | rfl | exact absurd h hf

@[simp] theorem onlyChanges_entries (x) (h : Field.entries ∈ fs) :
    OnlyChanges fs s { t with entries := x } ↔ OnlyChanges fs s t :=
  onlyChanges_iff fun f hf => by cases f <;> first | rfl | exact absurd h hf

@[simp] theorem onlyChanges_profiles (x) (h : Field.profiles ∈ fs) :
    OnlyChanges fs s { t with profiles := x } ↔ OnlyChanges fs s t :=
  onlyChanges_iff fun f hf => by cases f <;> first | rfl | exact absurd h hf

@[simp] theorem onlyChanges_px (x) (h : Field.px ∈ fs) :
    OnlyChanges fs s { t with px := x } ↔ OnlyChanges fs s t :=
  onlyChanges_iff fun f hf => by cases f <;> first | rfl | exact absurd h hf

@[simp] theorem onlyChanges_sched (x) (h : Field.sched ∈ fs) :
    OnlyChanges fs s { t with sched := x } ↔ OnlyChanges fs s t :=
  onlyChanges_iff fun f hf => by cases f <;> first | rfl | exact absurd h hf

@[simp] theorem onlyChanges_drops (x) (h : Field.drops ∈ fs) :
    OnlyChanges fs s { t with drops := x } ↔ OnlyChanges fs s t :=
  onlyChanges_iff fun f hf => by cases f <;> first | rfl | exact absurd h hf

@[simp] theorem onlyChanges_alarms (x) (h : Field.alarms ∈ fs) :
    OnlyChanges fs s { t with alarms := x } ↔ OnlyChanges fs s t :=
  onlyChanges_iff fun f hf => by cases f <;> first | rfl | exact absurd h hf

@[simp] theorem onlyChanges_views (x) (h : Field.views ∈ fs) :
    OnlyChanges fs s { t with views := x } ↔ OnlyChanges fs s t :=
  onlyChanges_iff fun f hf => by cases f <;> first | rfl | exact absurd h hf

@[simp] theorem onlyChanges_ports (x) (h : Field.ports ∈ fs) :
    OnlyChanges fs s { t with ports := x } ↔ OnlyChanges fs s t :=
  onlyChanges_iff fun f hf => by cases f <;> first | rfl | exact absurd h hf

@[simp] theorem onlyChanges_holder (x) (h : Field.holder ∈ fs) :
    OnlyChanges fs s { t with holder := x } ↔ OnlyChanges fs s t :=
  onlyChanges_iff fun f hf => by cases f <;> first | rfl | exact absurd h hf

@[simp] theorem onlyChanges_waitList (x) (h : Field.waitList ∈ fs) :
    OnlyChanges fs s { t with waitList := x } ↔ OnlyChanges fs s t :=
  onlyChanges_iff fun f hf => by cases f <;> first | rfl | exact absurd h hf

@[simp] theorem onlyChanges_pending (x) (h : Field.pending ∈ fs) :
    OnlyChanges fs s { t with pending := x } ↔ OnlyChanges fs s t :=
  onlyChanges_iff fun f hf => by cases f <;> first | rfl | exact absurd h hf

@[simp] theorem State.setOsc_only (x : OscMonitor) (h1 : Field.osc ∈ fs) :
    OnlyChanges fs s (t.setOsc x) ↔ OnlyChanges fs s t := by
  simp [State.setOsc, h1]

@[simp] theorem State.setTb_only (x : Timebase) (h1 : Field.tb ∈ fs) :
    OnlyChanges fs s (t.setTb x) ↔ OnlyChanges fs s t := by
  simp [State.setTb, h1]

@[simp] theorem State.setLoop_only (x : Loop) (h1 : Field.loop ∈ fs) :
    OnlyChanges fs s (t.setLoop x) ↔ OnlyChanges fs s t := by
  simp [State.setLoop, h1]

@[simp] theorem State.setHold_only (x : Holdover) (h1 : Field.hold ∈ fs) :
    OnlyChanges fs s (t.setHold x) ↔ OnlyChanges fs s t := by
  simp [State.setHold, h1]

@[simp] theorem State.setSel_only (x : Selector) (h1 : Field.sel ∈ fs) :
    OnlyChanges fs s (t.setSel x) ↔ OnlyChanges fs s t := by
  simp [State.setSel, h1]

@[simp] theorem State.setSched_only (x : Scheduler) (h1 : Field.sched ∈ fs) :
    OnlyChanges fs s (t.setSched x) ↔ OnlyChanges fs s t := by
  simp [State.setSched, h1]

@[simp] theorem State.setTa_only (i : InputIx) (x : TaInput) (h1 : Field.ta ∈ fs) :
    OnlyChanges fs s (t.setTa i x) ↔ OnlyChanges fs s t := by
  simp [State.setTa, h1]

@[simp] theorem State.setFq_only (i : InputIx) (x : FqInput) (h1 : Field.fq ∈ fs) :
    OnlyChanges fs s (t.setFq i x) ↔ OnlyChanges fs s t := by
  simp [State.setFq, h1]

@[simp] theorem State.setOf_only (p : Port) (x : OfSlot) (h1 : Field.ofs ∈ fs) :
    OnlyChanges fs s (t.setOf p x) ↔ OnlyChanges fs s t := by
  simp [State.setOf, h1]

@[simp] theorem State.setRef_only (i : Slot) (x : RefRecord) (h1 : Field.refs ∈ fs) :
    OnlyChanges fs s (t.setRef i x) ↔ OnlyChanges fs s t := by
  simp [State.setRef, h1]

@[simp] theorem State.setEntry_only (i : EntryIx) (x : Option Entry) (h1 : Field.entries ∈ fs) :
    OnlyChanges fs s (t.setEntry i x) ↔ OnlyChanges fs s t := by
  simp [State.setEntry, h1]

@[simp] theorem State.setProfile_only (i : ProfileIx) (x : Profile) (h1 : Field.profiles ∈ fs) :
    OnlyChanges fs s (t.setProfile i x) ↔ OnlyChanges fs s t := by
  simp [State.setProfile, h1]

@[simp] theorem State.setPx_only (i : Px) (x : PulseOut) (h1 : Field.px ∈ fs) :
    OnlyChanges fs s (t.setPx i x) ↔ OnlyChanges fs s t := by
  simp [State.setPx, h1]

@[simp] theorem State.setDrop_only (d : DropIx) (x : DropRec) (h1 : Field.drops ∈ fs) :
    OnlyChanges fs s (t.setDrop d x) ↔ OnlyChanges fs s t := by
  simp [State.setDrop, h1]

@[simp] theorem State.setAlarm_only (a : AlarmIx) (x : AlarmRec) (h1 : Field.alarms ∈ fs) :
    OnlyChanges fs s (t.setAlarm a x) ↔ OnlyChanges fs s t := by
  simp [State.setAlarm, h1]

@[simp] theorem State.setView_only (p : Port) (x : View) (h1 : Field.views ∈ fs) :
    OnlyChanges fs s (t.setView p x) ↔ OnlyChanges fs s t := by
  simp [State.setView, h1]

@[simp] theorem State.setPort_only (p : Port) (x : PortRec) (h1 : Field.ports ∈ fs) :
    OnlyChanges fs s (t.setPort p x) ↔ OnlyChanges fs s t := by
  simp [State.setPort, h1]

@[simp] theorem State.setPending_only (q : List Instr) (h1 : Field.pending ∈ fs) :
    OnlyChanges fs s (t.setPending q) ↔ OnlyChanges fs s t := by
  simp [State.setPending, h1]

@[simp] theorem State.runCounter_only (d : Nat) (h1 : Field.counter ∈ fs) (h2 : Field.secondOwed ∈ fs) (h3 :
    Field.msOwed ∈ fs) :
    OnlyChanges fs s (t.runCounter d) ↔ OnlyChanges fs s t := by
  unfold State.runCounter
  split
  · simp
  · exact onlyChanges_iff fun f hf => by cases f <;> first | rfl | exact absurd (by assumption) hf

@[simp] theorem State.reachInstant_only (i : Nat) (h1 : Field.counter ∈ fs) (h2 : Field.secondOwed ∈ fs) (h3 :
    Field.msOwed ∈ fs) :
    OnlyChanges fs s (t.reachInstant i) ↔ OnlyChanges fs s t := by
  simp [State.reachInstant, h1, h2, h3]

@[simp] theorem State.runMonitor_only (d : Nat) (h1 : Field.osc ∈ fs) :
    OnlyChanges fs s (t.runMonitor d) ↔ OnlyChanges fs s t := by
  simp [State.runMonitor, h1]

@[simp] theorem State.reachMonitor_only (x : Nat) (h1 : Field.osc ∈ fs) :
    OnlyChanges fs s (t.reachMonitor x) ↔ OnlyChanges fs s t := by
  simp [State.reachMonitor, h1]

@[simp] theorem State.pass_only (e : Elapsed) (h1 : Field.counter ∈ fs) (h2 : Field.secondOwed ∈ fs) (h3 :
    Field.msOwed ∈ fs) (h4 : Field.osc ∈ fs) :
    OnlyChanges fs s (t.pass e) ↔ OnlyChanges fs s t := by
  simp [State.pass, h1, h2, h3, h4]

@[simp] theorem State.notifyPort_only (p : Port) (n : Notice) (h1 : Field.views ∈ fs) :
    OnlyChanges fs s (t.notifyPort p n) ↔ OnlyChanges fs s t := by
  unfold State.notifyPort
  split <;> simp [h1]

@[simp] theorem State.notifyOwner_only (o : Option Port) (n : Notice) (h1 : Field.views ∈ fs) :
    OnlyChanges fs s (t.notifyOwner o n) ↔ OnlyChanges fs s t := by
  unfold State.notifyOwner
  split <;> simp [h1]

@[simp] theorem State.notifyAll_only (n : Notice) (h1 : Field.views ∈ fs) :
    OnlyChanges fs s (t.notifyAll n) ↔ OnlyChanges fs s t := by
  unfold State.notifyAll
  exact forEach_only fs s t 4 _ fun i u => by simp [h1]

@[simp] theorem State.showTransition_only (i : AlarmIx) (n : Notice) (p : Port) (h1 : Field.views ∈ fs) :
    OnlyChanges fs s (t.showTransition i n p) ↔ OnlyChanges fs s t := by
  unfold State.showTransition
  split <;> simp [h1]

@[simp] theorem State.raiseAlarm_only (i : AlarmIx) (h1 : Field.alarms ∈ fs) (h2 : Field.views ∈ fs) :
    OnlyChanges fs s (t.raiseAlarm i) ↔ OnlyChanges fs s t := by
  unfold State.raiseAlarm
  rw [forEach_only]
  · simp [h1, h2]
  · intro i u
    (repeat' split) <;> simp [h1, h2]

@[simp] theorem State.clearAlarm_only (i : AlarmIx) (h1 : Field.alarms ∈ fs) (h2 : Field.views ∈ fs) :
    OnlyChanges fs s (t.clearAlarm i) ↔ OnlyChanges fs s t := by
  unfold State.clearAlarm
  rw [forEach_only]
  · simp [h1, h2]
  · intro i u
    (repeat' split) <;> simp [h1, h2]

@[simp] theorem State.conditionAppears_only (i : AlarmIx) (h1 : Field.alarms ∈ fs) (h2 : Field.views ∈ fs) :
    OnlyChanges fs s (t.conditionAppears i) ↔ OnlyChanges fs s t := by
  unfold State.conditionAppears
  repeat' split
  all_goals simp [h1, h2]

@[simp] theorem State.conditionGoes_only (i : AlarmIx) (h1 : Field.alarms ∈ fs) (h2 : Field.views ∈ fs) :
    OnlyChanges fs s (t.conditionGoes i) ↔ OnlyChanges fs s t := by
  unfold State.conditionGoes
  repeat' split
  all_goals simp [h1, h2]

@[simp] theorem State.setCondition_only (i : AlarmIx) (present : Bool) (h1 : Field.alarms ∈ fs) (h2 : Field.views ∈
    fs) :
    OnlyChanges fs s (t.setCondition i present) ↔ OnlyChanges fs s t := by
  unfold State.setCondition
  repeat' split
  all_goals simp [h1, h2]

@[simp] theorem State.syncAlarms_only (h1 : Field.alarms ∈ fs) (h2 : Field.views ∈ fs) :
    OnlyChanges fs s (t.syncAlarms) ↔ OnlyChanges fs s t := by
  unfold State.syncAlarms
  exact forEach_only fs s t 32 _ fun i u => by simp [h1, h2]

@[simp] theorem State.persistenceExpires_only (i : AlarmIx) (h1 : Field.alarms ∈ fs) (h2 : Field.views ∈ fs) :
    OnlyChanges fs s (t.persistenceExpires i) ↔ OnlyChanges fs s t := by
  unfold State.persistenceExpires
  split <;> simp [h1, h2]

@[simp] theorem State.disturb_only (h1 : Field.hold ∈ fs) :
    OnlyChanges fs s (t.disturb) ↔ OnlyChanges fs s t := by
  simp [State.disturb, h1]

@[simp] theorem State.disturbNext_only (h1 : Field.hold ∈ fs) :
    OnlyChanges fs s (t.disturbNext) ↔ OnlyChanges fs s t := by
  simp [State.disturbNext, h1]

@[simp] theorem State.sampleSecond_only (h1 : Field.hold ∈ fs) :
    OnlyChanges fs s (t.sampleSecond) ↔ OnlyChanges fs s t := by
  simp [State.sampleSecond, h1]

@[simp] theorem State.closeMinute_only (h1 : Field.tb ∈ fs) (h2 : Field.hold ∈ fs) :
    OnlyChanges fs s (t.closeMinute) ↔ OnlyChanges fs s t := by
  simp [State.closeMinute, h1, h2]

@[simp] theorem State.placeRestored_only (set : List MinuteRecord) (h1 : Field.tb ∈ fs) (h2 : Field.hold ∈ fs) :
    OnlyChanges fs s (t.placeRestored set) ↔ OnlyChanges fs s t := by
  simp [State.placeRestored, h1, h2]

@[simp] theorem State.emptyStaging_only (h1 : Field.hold ∈ fs) :
    OnlyChanges fs s (t.emptyStaging) ↔ OnlyChanges fs s t := by
  simp [State.emptyStaging, h1]

@[simp] theorem State.openEpisode_only (h1 : Field.hold ∈ fs) :
    OnlyChanges fs s (t.openEpisode) ↔ OnlyChanges fs s t := by
  simp [State.openEpisode, h1]

@[simp] theorem State.closeEpisode_only (cause : TbState) (h1 : Field.tb ∈ fs) (h2 : Field.hold ∈ fs) :
    OnlyChanges fs s (t.closeEpisode cause) ↔ OnlyChanges fs s t := by
  unfold State.closeEpisode
  repeat' split
  all_goals simp [h1, h2]

@[simp] theorem State.episodeMinute_only (h1 : Field.tb ∈ fs) (h2 : Field.hold ∈ fs) :
    OnlyChanges fs s (t.episodeMinute) ↔ OnlyChanges fs s t := by
  unfold State.episodeMinute
  repeat' split
  all_goals simp [h1, h2]

@[simp] theorem State.setTbState_only (x : TbState) (h1 : Field.tb ∈ fs) (h2 : Field.views ∈ fs) :
    OnlyChanges fs s (t.setTbState x) ↔ OnlyChanges fs s t := by
  unfold State.setTbState
  split <;> simp [h1, h2]

@[simp] theorem State.regrade_only (h1 : Field.tb ∈ fs) (h2 : Field.views ∈ fs) :
    OnlyChanges fs s (t.regrade) ↔ OnlyChanges fs s t := by
  unfold State.regrade
  split <;> simp [h1, h2]

@[simp] theorem State.makeStep_only (amount : Int) (origin : StepOrigin) (h1 : Field.tb ∈ fs) :
    OnlyChanges fs s (t.makeStep amount origin) ↔ OnlyChanges fs s t := by
  simp [State.makeStep, h1]

@[simp] theorem State.dropLoopStep_only (h1 : Field.tb ∈ fs) :
    OnlyChanges fs s (t.dropLoopStep) ↔ OnlyChanges fs s t := by
  unfold State.dropLoopStep
  repeat' split
  all_goals simp [h1]

@[simp] theorem State.leaveState_only (h1 : Field.tb ∈ fs) (h2 : Field.loop ∈ fs) (h3 : Field.hold ∈ fs) :
    OnlyChanges fs s (t.leaveState) ↔ OnlyChanges fs s t := by
  unfold State.leaveState
  split <;> simp [h1, h2, h3]

@[simp] theorem State.loopReleased_only (h1 : Field.loop ∈ fs) :
    OnlyChanges fs s (t.loopReleased) ↔ OnlyChanges fs s t := by
  simp [State.loopReleased, h1]

@[simp] theorem State.loadLoop_only (h1 : Field.loop ∈ fs) :
    OnlyChanges fs s (t.loadLoop) ↔ OnlyChanges fs s t := by
  unfold State.loadLoop
  split <;> simp [h1]

@[simp] theorem State.setClass_only (c : Nat) (h1 : Field.loop ∈ fs) (h2 : Field.hold ∈ fs) :
    OnlyChanges fs s (t.setClass c) ↔ OnlyChanges fs s t := by
  unfold State.setClass
  split <;> simp [h1, h2]

@[simp] theorem State.steerByLoop_only (h1 : Field.tb ∈ fs) :
    OnlyChanges fs s (t.steerByLoop) ↔ OnlyChanges fs s t := by
  simp [State.steerByLoop, h1]

@[simp] theorem State.enterFreerun_only (h1 : Field.tb ∈ fs) (h2 : Field.loop ∈ fs) (h3 : Field.hold ∈ fs) (h4 :
    Field.views ∈ fs) :
    OnlyChanges fs s (t.enterFreerun) ↔ OnlyChanges fs s t := by
  simp [State.enterFreerun, h1, h2, h3, h4]

@[simp] theorem State.reacquire_only (h1 : Field.tb ∈ fs) (h2 : Field.loop ∈ fs) (h3 : Field.hold ∈ fs) (h4 :
    Field.views ∈ fs) :
    OnlyChanges fs s (t.reacquire) ↔ OnlyChanges fs s t := by
  simp [State.reacquire, h1, h2, h3, h4]

@[simp] theorem State.acquire_only (h1 : Field.tb ∈ fs) (h2 : Field.loop ∈ fs) (h3 : Field.hold ∈ fs) (h4 :
    Field.views ∈ fs) :
    OnlyChanges fs s (t.acquire) ↔ OnlyChanges fs s t := by
  simp [State.acquire, h1, h2, h3, h4]

@[simp] theorem State.enterLocked_only (h1 : Field.tb ∈ fs) (h2 : Field.loop ∈ fs) (h3 : Field.hold ∈ fs) (h4 :
    Field.views ∈ fs) :
    OnlyChanges fs s (t.enterLocked) ↔ OnlyChanges fs s t := by
  simp [State.enterLocked, h1, h2, h3, h4]

@[simp] theorem State.beginEpisode_only (h1 : Field.tb ∈ fs) (h2 : Field.hold ∈ fs) :
    OnlyChanges fs s (t.beginEpisode) ↔ OnlyChanges fs s t := by
  unfold State.beginEpisode
  repeat' split
  all_goals simp [h1, h2]

@[simp] theorem State.enterAssisted_only (h1 : Field.tb ∈ fs) (h2 : Field.loop ∈ fs) (h3 : Field.hold ∈ fs) (h4 :
    Field.views ∈ fs) :
    OnlyChanges fs s (t.enterAssisted) ↔ OnlyChanges fs s t := by
  simp [State.enterAssisted, h1, h2, h3, h4]

@[simp] theorem State.enterHoldover_only (h1 : Field.tb ∈ fs) (h2 : Field.loop ∈ fs) (h3 : Field.hold ∈ fs) (h4 :
    Field.views ∈ fs) :
    OnlyChanges fs s (t.enterHoldover) ↔ OnlyChanges fs s t := by
  simp [State.enterHoldover, h1, h2, h3, h4]

@[simp] theorem State.phaseGone_only (h1 : Field.tb ∈ fs) (h2 : Field.loop ∈ fs) (h3 : Field.hold ∈ fs) (h4 :
    Field.views ∈ fs) :
    OnlyChanges fs s (t.phaseGone) ↔ OnlyChanges fs s t := by
  unfold State.phaseGone
  repeat' split
  all_goals simp [h1, h2, h3, h4]

@[simp] theorem State.freerunTests_only (h1 : Field.tb ∈ fs) (h2 : Field.loop ∈ fs) (h3 : Field.hold ∈ fs) (h4 :
    Field.views ∈ fs) :
    OnlyChanges fs s (t.freerunTests) ↔ OnlyChanges fs s t := by
  unfold State.freerunTests
  repeat' split
  all_goals simp [h1, h2, h3, h4]

@[simp] theorem State.phaseSelected_only (h1 : Field.tb ∈ fs) (h2 : Field.loop ∈ fs) (h3 : Field.hold ∈ fs) (h4 :
    Field.views ∈ fs) :
    OnlyChanges fs s (t.phaseSelected) ↔ OnlyChanges fs s t := by
  unfold State.phaseSelected
  split <;> simp [h1, h2, h3, h4]

@[simp] theorem State.phaseSwitched_only (h1 : Field.tb ∈ fs) (h2 : Field.loop ∈ fs) (h3 : Field.hold ∈ fs) (h4 :
    Field.views ∈ fs) :
    OnlyChanges fs s (t.phaseSwitched) ↔ OnlyChanges fs s t := by
  unfold State.phaseSwitched
  repeat' split
  all_goals simp [h1, h2, h3, h4]

@[simp] theorem State.assistAppeared_only (h1 : Field.tb ∈ fs) (h2 : Field.loop ∈ fs) (h3 : Field.hold ∈ fs) (h4 :
    Field.views ∈ fs) :
    OnlyChanges fs s (t.assistAppeared) ↔ OnlyChanges fs s t := by
  unfold State.assistAppeared
  split <;> simp [h1, h2, h3, h4]

@[simp] theorem State.assistLost_only (h1 : Field.tb ∈ fs) (h2 : Field.loop ∈ fs) (h3 : Field.hold ∈ fs) (h4 :
    Field.views ∈ fs) :
    OnlyChanges fs s (t.assistLost) ↔ OnlyChanges fs s t := by
  unfold State.assistLost
  split <;> simp [h1, h2, h3, h4]

@[simp] theorem State.assistChanged_only (h1 : Field.loop ∈ fs) :
    OnlyChanges fs s (t.assistChanged) ↔ OnlyChanges fs s t := by
  unfold State.assistChanged
  split <;> simp [h1]

@[simp] theorem State.setForce_only (on : Bool) (h1 : Field.tb ∈ fs) (h2 : Field.loop ∈ fs) (h3 : Field.hold ∈ fs) (h4
    : Field.views ∈ fs) :
    OnlyChanges fs s (t.setForce on) ↔ OnlyChanges fs s t := by
  unfold State.setForce
  repeat' split
  all_goals simp [h1, h2, h3, h4]

@[simp] theorem State.warmupEnds_only (h1 : Field.osc ∈ fs) (h2 : Field.tb ∈ fs) (h3 : Field.loop ∈ fs) (h4 :
    Field.hold ∈ fs) (h5 : Field.views ∈ fs) :
    OnlyChanges fs s (t.warmupEnds) ↔ OnlyChanges fs s t := by
  simp [State.warmupEnds, h1, h2, h3, h4, h5]

@[simp] theorem State.loopUpdate_only (cls : Nat) (u1 : Int) (h1 : Field.tb ∈ fs) (h2 : Field.loop ∈ fs) (h3 :
    Field.hold ∈ fs) :
    OnlyChanges fs s (t.loopUpdate cls u1) ↔ OnlyChanges fs s t := by
  unfold State.loopUpdate
  dsimp only
  repeat' split
  all_goals first | rfl | simp [h1, h2, h3] | (rw [forEach_only] <;> (try intro i u) <;> (repeat' split) <;> simp [h1, h2, h3])

@[simp] theorem State.phaseUpdate_only (u1 : Int) (h1 : Field.tb ∈ fs) (h2 : Field.loop ∈ fs) (h3 : Field.hold ∈ fs) :
    OnlyChanges fs s (t.phaseUpdate u1) ↔ OnlyChanges fs s t := by
  simp [State.phaseUpdate, h1, h2, h3]

@[simp] theorem State.countLock_only (u1 : Int) (h1 : Field.tb ∈ fs) (h2 : Field.loop ∈ fs) (h3 : Field.hold ∈ fs) (h4
    : Field.views ∈ fs) :
    OnlyChanges fs s (t.countLock u1) ↔ OnlyChanges fs s t := by
  unfold State.countLock
  repeat' split
  all_goals simp [h1, h2, h3, h4]

@[simp] theorem State.countLoss_only (u1 : Int) (h1 : Field.tb ∈ fs) (h2 : Field.loop ∈ fs) (h3 : Field.hold ∈ fs) (h4
    : Field.views ∈ fs) :
    OnlyChanges fs s (t.countLoss u1) ↔ OnlyChanges fs s t := by
  unfold State.countLoss
  repeat' split
  all_goals simp [h1, h2, h3, h4]

@[simp] theorem State.descend_only (h1 : Field.loop ∈ fs) (h2 : Field.hold ∈ fs) :
    OnlyChanges fs s (t.descend) ↔ OnlyChanges fs s t := by
  unfold State.descend
  split <;> simp [h1, h2]

@[simp] theorem State.loopUse_only (good : Bool) (u1 : Int) (h1 : Field.tb ∈ fs) (h2 : Field.loop ∈ fs) (h3 :
    Field.hold ∈ fs) (h4 : Field.views ∈ fs) :
    OnlyChanges fs s (t.loopUse good u1) ↔ OnlyChanges fs s t := by
  unfold State.loopUse
  repeat' split
  all_goals simp [h1, h2, h3, h4]

@[simp] theorem State.compareLabel_only (m : Measurement) (h1 : Field.tb ∈ fs) (h2 : Field.aligned ∈ fs) :
    OnlyChanges fs s (t.compareLabel m) ↔ OnlyChanges fs s t := by
  unfold State.compareLabel
  dsimp only
  repeat' split
  all_goals first | rfl | simp [h1, h2] | (rw [forEach_only] <;> (try intro i u) <;> (repeat' split) <;> simp [h1, h2])

@[simp] theorem State.adoptLabel_only (m : Measurement) (h1 : Field.tb ∈ fs) :
    OnlyChanges fs s (t.adoptLabel m) ↔ OnlyChanges fs s t := by
  unfold State.adoptLabel
  repeat' split
  all_goals simp [h1]

@[simp] theorem State.takePhase_only (m : Measurement) (h1 : Field.tb ∈ fs) (h2 : Field.loop ∈ fs) (h3 : Field.hold ∈
    fs) (h4 : Field.aligned ∈ fs) (h5 : Field.views ∈ fs) :
    OnlyChanges fs s (t.takePhase m) ↔ OnlyChanges fs s t := by
  unfold State.takePhase
  split <;> simp [h1, h2, h3, h4, h5]

@[simp] theorem State.takeAssist_only (m : Measurement) (h1 : Field.tb ∈ fs) (h2 : Field.loop ∈ fs) (h3 : Field.hold ∈
    fs) :
    OnlyChanges fs s (t.takeAssist m) ↔ OnlyChanges fs s t := by
  unfold State.takeAssist
  repeat' split
  all_goals simp [h1, h2, h3]

end Sys2Proof.Machine
end

