-- ==== Sys2Proof/Laws/FramesReferences.lean ====
section
/-! SUPPORT. What each operation of Qualifier, FrontEnd can change: the fields named by its lemma, and no other. -/

namespace Sys2Proof.Machine

variable (fs : List Field) (s t : State)

@[simp] theorem State.clearPair_only (i : Slot) (j : Slot) (h1 : Field.conflicts ∈ fs) :
    OnlyChanges fs s (t.clearPair i j) ↔ OnlyChanges fs s t := by
  simp [State.clearPair, h1]

@[simp] theorem State.moveRef_only (i : Slot) (r : RefRecord) (h1 : Field.refs ∈ fs) (h2 : Field.conflicts ∈ fs) :
    OnlyChanges fs s (t.moveRef i r) ↔ OnlyChanges fs s t := by
  unfold State.moveRef
  split
  · rw [forEach_only fs s (t.setRef i r) 8 _ fun j u => by simp [h2]]
    simp [h1]
  · simp [h1]

@[simp] theorem State.testQualified_only (i : Slot) (h1 : Field.refs ∈ fs) (h2 : Field.conflicts ∈ fs) :
    OnlyChanges fs s (t.testQualified i) ↔ OnlyChanges fs s t := by
  unfold State.testQualified
  split <;> simp [h1, h2]

@[simp] theorem State.testQualifying_only (i : Slot) (h1 : Field.refs ∈ fs) :
    OnlyChanges fs s (t.testQualifying i) ↔ OnlyChanges fs s t := by
  unfold State.testQualifying
  split <;> simp [h1]

@[simp] theorem State.score_only (m : Measurement) (h1 : Field.refs ∈ fs) (h2 : Field.conflicts ∈ fs) :
    OnlyChanges fs s (t.score m) ↔ OnlyChanges fs s t := by
  unfold State.score
  dsimp only
  repeat' split
  all_goals first | rfl | simp [h1, h2] | (rw [forEach_only] <;> (try intro i u) <;> (repeat' split) <;> simp [h1, h2])

@[simp] theorem State.comparePair_only (i : Slot) (j : Slot) (h1 : Field.refs ∈ fs) :
    OnlyChanges fs s (t.comparePair i j) ↔ OnlyChanges fs s t := by
  unfold State.comparePair
  repeat' split
  all_goals simp [h1]

@[simp] theorem State.pairingStep_only (m : Measurement) (h1 : Field.refs ∈ fs) :
    OnlyChanges fs s (t.pairingStep m) ↔ OnlyChanges fs s t := by
  unfold State.pairingStep
  repeat' split
  · rw [forEach_only fs s _ 8 _ fun j u => by split <;> simp [h1]]
    simp [h1]
  all_goals rfl

@[simp] theorem State.charge_only (i : Slot) (h1 : Field.refs ∈ fs) (h2 : Field.conflicts ∈ fs) :
    OnlyChanges fs s (t.charge i) ↔ OnlyChanges fs s t := by
  simp [State.charge, h1, h2]

@[simp] theorem PairConflict.count_compared (c : PairConflict) (sec : Nat) (agree : Bool) :
    (c.count sec agree).compared = some sec := by cases agree <;> rfl

@[simp] theorem PairConflict.count_run (c : PairConflict) (sec : Nat) (agree : Bool) :
    (c.count sec agree).run = if agree then 0 else min 3 (c.run + 1) := by cases agree <;> rfl

@[simp] theorem PairConflict.count_flag (c : PairConflict) (sec : Nat) (agree : Bool) :
    (c.count sec agree).flag = (!agree && decide (3 ≤ c.run + 1)) := by cases agree <;> rfl

/-- A second that a pair has compared is not compared again (R67). -/
theorem State.compareLabels_again {i j : Slot} {sec : Nat} (agree : Bool)
    (h : (s.conflicts[pairIndex i j]).compared = some sec) : s.compareLabels i j sec agree = s := by
  unfold State.compareLabels
  exact if_pos h

@[simp] theorem State.compareLabels_only (i : Slot) (j : Slot) (sec : Nat) (agree : Bool) (h1 : Field.refs ∈ fs) (h2 :
    Field.conflicts ∈ fs) :
    OnlyChanges fs s (t.compareLabels i j sec agree) ↔ OnlyChanges fs s t := by
  unfold State.compareLabels
  dsimp only
  repeat' split
  all_goals first | rfl | simp [h1, h2] | (rw [forEach_only] <;> (try intro i u) <;> (repeat' split) <;> simp [h1, h2])

@[simp] theorem State.labelStep_only (m : Measurement) (h1 : Field.refs ∈ fs) (h2 : Field.conflicts ∈ fs) :
    OnlyChanges fs s (t.labelStep m) ↔ OnlyChanges fs s t := by
  unfold State.labelStep
  repeat' split
  · rw [forEach_only fs s _ 8 _ fun j u => by (repeat' split) <;> simp [h1, h2]]
    simp [h1]
  all_goals rfl

@[simp] theorem State.refreshCandidates_only (h1 : Field.refs ∈ fs) :
    OnlyChanges fs s (t.refreshCandidates) ↔ OnlyChanges fs s t := by
  simp [State.refreshCandidates, h1]

@[simp] theorem State.changePhase_only (new : Option Slot) (h1 : Field.tb ∈ fs) (h2 : Field.loop ∈ fs) (h3 :
    Field.hold ∈ fs) (h4 : Field.sel ∈ fs) (h5 : Field.views ∈ fs) :
    OnlyChanges fs s (t.changePhase new) ↔ OnlyChanges fs s t := by
  unfold State.changePhase
  repeat' split
  all_goals simp [h1, h2, h3, h4, h5]

@[simp] theorem State.changeAssist_only (new : Option Slot) (h1 : Field.tb ∈ fs) (h2 : Field.loop ∈ fs) (h3 :
    Field.hold ∈ fs) (h4 : Field.sel ∈ fs) (h5 : Field.views ∈ fs) :
    OnlyChanges fs s (t.changeAssist new) ↔ OnlyChanges fs s t := by
  unfold State.changeAssist
  repeat' split
  all_goals simp [h1, h2, h3, h4, h5]

@[simp] theorem State.reevaluate_only (h1 : Field.tb ∈ fs) (h2 : Field.loop ∈ fs) (h3 : Field.hold ∈ fs) (h4 :
    Field.refs ∈ fs) (h5 : Field.sel ∈ fs) (h6 : Field.views ∈ fs) :
    OnlyChanges fs s (t.reevaluate) ↔ OnlyChanges fs s t := by
  simp [State.reevaluate, h1, h2, h3, h4, h5, h6]

@[simp] theorem State.handOn_only (m : Measurement) (h1 : Field.tb ∈ fs) (h2 : Field.loop ∈ fs) (h3 : Field.hold ∈ fs)
    (h4 : Field.aligned ∈ fs) (h5 : Field.views ∈ fs) :
    OnlyChanges fs s (t.handOn m) ↔ OnlyChanges fs s t := by
  unfold State.handOn
  repeat' split
  all_goals simp [h1, h2, h3, h4, h5]

@[simp] theorem State.takeMeasurement_only (m : Measurement) (h1 : Field.tb ∈ fs) (h2 : Field.loop ∈ fs) (h3 :
    Field.hold ∈ fs) (h4 : Field.aligned ∈ fs) (h5 : Field.refs ∈ fs) (h6 : Field.conflicts ∈ fs) (h7 : Field.sel ∈
    fs) (h8 : Field.views ∈ fs) :
    OnlyChanges fs s (t.takeMeasurement m) ↔ OnlyChanges fs s t := by
  unfold State.takeMeasurement
  split <;> simp [h1, h2, h3, h4, h5, h6, h7, h8]

@[simp] theorem State.activityLost_only (i : Slot) (h1 : Field.tb ∈ fs) (h2 : Field.loop ∈ fs) (h3 : Field.hold ∈ fs)
    (h4 : Field.refs ∈ fs) (h5 : Field.conflicts ∈ fs) (h6 : Field.sel ∈ fs) (h7 : Field.views ∈ fs) :
    OnlyChanges fs s (t.activityLost i) ↔ OnlyChanges fs s t := by
  unfold State.activityLost
  split <;> simp [h1, h2, h3, h4, h5, h6, h7]

@[simp] theorem State.activityPresent_only (i : Slot) (h1 : Field.tb ∈ fs) (h2 : Field.loop ∈ fs) (h3 : Field.hold ∈
    fs) (h4 : Field.refs ∈ fs) (h5 : Field.sel ∈ fs) (h6 : Field.views ∈ fs) :
    OnlyChanges fs s (t.activityPresent i) ↔ OnlyChanges fs s t := by
  unfold State.activityPresent
  split <;> simp [h1, h2, h3, h4, h5, h6]

@[simp] theorem State.holdoffEnds_only (i : Slot) (h1 : Field.tb ∈ fs) (h2 : Field.loop ∈ fs) (h3 : Field.hold ∈ fs)
    (h4 : Field.refs ∈ fs) (h5 : Field.sel ∈ fs) (h6 : Field.views ∈ fs) :
    OnlyChanges fs s (t.holdoffEnds i) ↔ OnlyChanges fs s t := by
  unfold State.holdoffEnds
  split <;> simp [h1, h2, h3, h4, h5, h6]

@[simp] theorem State.refsAtStep_only (h1 : Field.refs ∈ fs) (h2 : Field.conflicts ∈ fs) :
    OnlyChanges fs s (t.refsAtStep) ↔ OnlyChanges fs s t := by
  unfold State.refsAtStep
  exact onlyChanges_iff fun f hf => by
    cases f <;> first | exact absurd h1 hf | exact absurd h2 hf | rfl

@[simp] theorem State.refsAtFault_only (h1 : Field.refs ∈ fs) (h2 : Field.conflicts ∈ fs) :
    OnlyChanges fs s (t.refsAtFault) ↔ OnlyChanges fs s t := by
  unfold State.refsAtFault
  exact onlyChanges_iff fun f hf => by
    cases f <;> first | exact absurd h1 hf | exact absurd h2 hf | rfl

@[simp] theorem State.judgePeriod_only (i : InputIx) (p : TaPeriod) (h1 : Field.tb ∈ fs) (h2 : Field.loop ∈ fs) (h3 :
    Field.hold ∈ fs) (h4 : Field.ta ∈ fs) (h5 : Field.aligned ∈ fs) (h6 : Field.refs ∈ fs) (h7 : Field.conflicts ∈ fs)
    (h8 : Field.sel ∈ fs) (h9 : Field.views ∈ fs) :
    OnlyChanges fs s (t.judgePeriod i p) ↔ OnlyChanges fs s t := by
  simp [State.judgePeriod, h1, h2, h3, h4, h5, h6, h7, h8, h9]

@[simp] theorem State.judgeIfWhole_only (i : InputIx) (h1 : Field.tb ∈ fs) (h2 : Field.loop ∈ fs) (h3 : Field.hold ∈
    fs) (h4 : Field.ta ∈ fs) (h5 : Field.aligned ∈ fs) (h6 : Field.refs ∈ fs) (h7 : Field.conflicts ∈ fs) (h8 :
    Field.sel ∈ fs) (h9 : Field.views ∈ fs) :
    OnlyChanges fs s (t.judgeIfWhole i) ↔ OnlyChanges fs s t := by
  unfold State.judgeIfWhole
  repeat' split
  all_goals simp [h1, h2, h3, h4, h5, h6, h7, h8, h9]

@[simp] theorem State.judgeAtClose_only (i : InputIx) (h1 : Field.tb ∈ fs) (h2 : Field.loop ∈ fs) (h3 : Field.hold ∈
    fs) (h4 : Field.ta ∈ fs) (h5 : Field.aligned ∈ fs) (h6 : Field.refs ∈ fs) (h7 : Field.conflicts ∈ fs) (h8 :
    Field.sel ∈ fs) (h9 : Field.views ∈ fs) :
    OnlyChanges fs s (t.judgeAtClose i) ↔ OnlyChanges fs s t := by
  unfold State.judgeAtClose
  repeat' split
  all_goals simp [h1, h2, h3, h4, h5, h6, h7, h8, h9]

@[simp] theorem State.openPeriod_only (i : InputIx) (h1 : Field.ta ∈ fs) :
    OnlyChanges fs s (t.openPeriod i) ↔ OnlyChanges fs s t := by
  simp [State.openPeriod, h1]

@[simp] theorem State.glitchEdge_only (i : InputIx) (p : TaPeriod) (h1 : Field.ta ∈ fs) :
    OnlyChanges fs s (t.glitchEdge i p) ↔ OnlyChanges fs s t := by
  unfold State.glitchEdge
  split <;> simp [h1]

@[simp] theorem State.taActivity_only (i : InputIx) (h1 : Field.tb ∈ fs) (h2 : Field.loop ∈ fs) (h3 : Field.hold ∈ fs)
    (h4 : Field.ta ∈ fs) (h5 : Field.refs ∈ fs) (h6 : Field.sel ∈ fs) (h7 : Field.views ∈ fs) :
    OnlyChanges fs s (t.taActivity i) ↔ OnlyChanges fs s t := by
  unfold State.taActivity
  split <;> simp [h1, h2, h3, h4, h5, h6, h7]

@[simp] theorem State.taEdge_only (i : InputIx) (h1 : Field.tb ∈ fs) (h2 : Field.loop ∈ fs) (h3 : Field.hold ∈ fs) (h4
    : Field.ta ∈ fs) (h5 : Field.aligned ∈ fs) (h6 : Field.refs ∈ fs) (h7 : Field.conflicts ∈ fs) (h8 : Field.sel ∈
    fs) (h9 : Field.views ∈ fs) :
    OnlyChanges fs s (t.taEdge i) ↔ OnlyChanges fs s t := by
  unfold State.taEdge
  dsimp only
  repeat' split
  all_goals first | rfl | simp [h1, h2, h3, h4, h5, h6, h7, h8, h9] | (rw [forEach_only] <;> (try intro i u) <;> (repeat' split) <;> simp [h1, h2, h3, h4, h5, h6, h7, h8, h9])

@[simp] theorem State.taTrailing_only (i : InputIx) (h1 : Field.tb ∈ fs) (h2 : Field.loop ∈ fs) (h3 : Field.hold ∈ fs)
    (h4 : Field.ta ∈ fs) (h5 : Field.aligned ∈ fs) (h6 : Field.refs ∈ fs) (h7 : Field.conflicts ∈ fs) (h8 : Field.sel
    ∈ fs) (h9 : Field.views ∈ fs) :
    OnlyChanges fs s (t.taTrailing i) ↔ OnlyChanges fs s t := by
  unfold State.taTrailing
  repeat' split
  all_goals simp [h1, h2, h3, h4, h5, h6, h7, h8, h9]

@[simp] theorem State.taWindowClose_only (i : InputIx) (h1 : Field.counter ∈ fs) (h2 : Field.secondOwed ∈ fs) (h3 :
    Field.msOwed ∈ fs) (h4 : Field.tb ∈ fs) (h5 : Field.loop ∈ fs) (h6 : Field.hold ∈ fs) (h7 : Field.ta ∈ fs) (h8 :
    Field.aligned ∈ fs) (h9 : Field.refs ∈ fs) (h10 : Field.conflicts ∈ fs) (h11 : Field.sel ∈ fs) (h12 : Field.views
    ∈ fs) :
    OnlyChanges fs s (t.taWindowClose i) ↔ OnlyChanges fs s t := by
  unfold State.taWindowClose
  repeat' split
  all_goals simp [*]

@[simp] theorem State.taGuardEnd_only (i : InputIx) (h1 : Field.counter ∈ fs) (h2 : Field.secondOwed ∈ fs) (h3 :
    Field.msOwed ∈ fs) (h4 : Field.tb ∈ fs) (h5 : Field.loop ∈ fs) (h6 : Field.hold ∈ fs) (h7 : Field.ta ∈ fs) (h8 :
    Field.aligned ∈ fs) (h9 : Field.refs ∈ fs) (h10 : Field.conflicts ∈ fs) (h11 : Field.sel ∈ fs) (h12 : Field.views
    ∈ fs) :
    OnlyChanges fs s (t.taGuardEnd i) ↔ OnlyChanges fs s t := by
  unfold State.taGuardEnd
  split <;> simp [*]

@[simp] theorem State.taTimeout_only (i : InputIx) (h1 : Field.osc ∈ fs) (h2 : Field.tb ∈ fs) (h3 : Field.loop ∈ fs)
    (h4 : Field.hold ∈ fs) (h5 : Field.ta ∈ fs) (h6 : Field.refs ∈ fs) (h7 : Field.conflicts ∈ fs) (h8 : Field.sel ∈
    fs) (h9 : Field.views ∈ fs) :
    OnlyChanges fs s (t.taTimeout i) ↔ OnlyChanges fs s t := by
  unfold State.taTimeout
  repeat' split
  all_goals simp [h1, h2, h3, h4, h5, h6, h7, h8, h9]

@[simp] theorem State.strayLabel_only (i : InputIx) (h1 : Field.ta ∈ fs) :
    OnlyChanges fs s (t.strayLabel i) ↔ OnlyChanges fs s t := by
  simp [State.strayLabel, h1]

@[simp] theorem State.placeLabel_only (i : InputIx) (l : HeldLabel) (h1 : Field.tb ∈ fs) (h2 : Field.loop ∈ fs) (h3 :
    Field.hold ∈ fs) (h4 : Field.ta ∈ fs) (h5 : Field.aligned ∈ fs) (h6 : Field.refs ∈ fs) (h7 : Field.conflicts ∈ fs)
    (h8 : Field.sel ∈ fs) (h9 : Field.views ∈ fs) :
    OnlyChanges fs s (t.placeLabel i l) ↔ OnlyChanges fs s t := by
  unfold State.placeLabel
  repeat' split
  all_goals simp [h1, h2, h3, h4, h5, h6, h7, h8, h9]

@[simp] theorem State.dropLabel_only (i : InputIx) (h1 : Field.ta ∈ fs) :
    OnlyChanges fs s (t.dropLabel i) ↔ OnlyChanges fs s t := by
  simp [State.dropLabel, h1]

@[simp] theorem State.heldBytes_only (i : InputIx) (b : Byte) (h1 : Field.tb ∈ fs) (h2 : Field.loop ∈ fs) (h3 :
    Field.hold ∈ fs) (h4 : Field.ta ∈ fs) (h5 : Field.aligned ∈ fs) (h6 : Field.refs ∈ fs) (h7 : Field.conflicts ∈ fs)
    (h8 : Field.sel ∈ fs) (h9 : Field.views ∈ fs) :
    OnlyChanges fs s (t.heldBytes i b) ↔ OnlyChanges fs s t := by
  unfold State.heldBytes
  repeat' split
  all_goals simp [h1, h2, h3, h4, h5, h6, h7, h8, h9]

@[simp] theorem State.labelByte_only (i : InputIx) (b : Byte) (h1 : Field.tb ∈ fs) (h2 : Field.loop ∈ fs) (h3 :
    Field.hold ∈ fs) (h4 : Field.ta ∈ fs) (h5 : Field.aligned ∈ fs) (h6 : Field.refs ∈ fs) (h7 : Field.conflicts ∈ fs)
    (h8 : Field.sel ∈ fs) (h9 : Field.views ∈ fs) :
    OnlyChanges fs s (t.labelByte i b) ↔ OnlyChanges fs s t := by
  unfold State.labelByte
  repeat' split
  all_goals simp [h1, h2, h3, h4, h5, h6, h7, h8, h9]

@[simp] theorem State.labelBytes_only (i : InputIx) (l : List Byte) (h1 : Field.tb ∈ fs) (h2 : Field.loop ∈ fs) (h3 :
    Field.hold ∈ fs) (h4 : Field.ta ∈ fs) (h5 : Field.aligned ∈ fs) (h6 : Field.refs ∈ fs) (h7 : Field.conflicts ∈ fs)
    (h8 : Field.sel ∈ fs) (h9 : Field.views ∈ fs) :
    OnlyChanges fs s (t.labelBytes i l) ↔ OnlyChanges fs s t := by
  unfold State.labelBytes
  induction l generalizing t with
  | nil => rfl
  | cons b l ih => rw [List.foldl_cons, ih, State.labelByte_only fs s t i b h1 h2 h3 h4 h5 h6 h7 h8 h9]

@[simp] theorem State.labelGap_only (i : InputIx) (h1 : Field.osc ∈ fs) (h2 : Field.ta ∈ fs) :
    OnlyChanges fs s (t.labelGap i) ↔ OnlyChanges fs s t := by
  unfold State.labelGap
  split <;> simp [h1, h2]

@[simp] theorem State.fqEdges_only (i : InputIx) (n : Nat) (h1 : Field.fq ∈ fs) :
    OnlyChanges fs s (t.fqEdges i n) ↔ OnlyChanges fs s t := by
  unfold State.fqEdges
  repeat' split
  all_goals simp [h1]

@[simp] theorem State.originTaken_only (i : InputIx) (renominal : Bool) (h1 : Field.loop ∈ fs) :
    OnlyChanges fs s (t.originTaken i renominal) ↔ OnlyChanges fs s t := by
  unfold State.originTaken
  split <;> simp [h1]

@[simp] theorem State.closeFqSecond_only (i : InputIx) (h1 : Field.tb ∈ fs) (h2 : Field.loop ∈ fs) (h3 : Field.hold ∈
    fs) (h4 : Field.fq ∈ fs) (h5 : Field.aligned ∈ fs) (h6 : Field.refs ∈ fs) (h7 : Field.conflicts ∈ fs) (h8 :
    Field.sel ∈ fs) (h9 : Field.views ∈ fs) :
    OnlyChanges fs s (t.closeFqSecond i) ↔ OnlyChanges fs s t := by
  unfold State.closeFqSecond
  dsimp only
  repeat' split
  all_goals first | rfl | simp [h1, h2, h3, h4, h5, h6, h7, h8, h9] | (rw [forEach_only] <;> (try intro i u) <;> (repeat' split) <;> simp [h1, h2, h3, h4, h5, h6, h7, h8, h9])

@[simp] theorem State.fqTimeout_only (i : InputIx) (h1 : Field.osc ∈ fs) (h2 : Field.tb ∈ fs) (h3 : Field.loop ∈ fs)
    (h4 : Field.hold ∈ fs) (h5 : Field.fq ∈ fs) (h6 : Field.refs ∈ fs) (h7 : Field.conflicts ∈ fs) (h8 : Field.sel ∈
    fs) (h9 : Field.views ∈ fs) :
    OnlyChanges fs s (t.fqTimeout i) ↔ OnlyChanges fs s t := by
  unfold State.fqTimeout
  repeat' split
  all_goals simp [h1, h2, h3, h4, h5, h6, h7, h8, h9]

@[simp] theorem State.takeReport_only (p : Port) (e : Int) (whole : Int) (interval : Nat) (quality : Nat) (noise :
    Nat) (h1 : Field.tb ∈ fs) (h2 : Field.loop ∈ fs) (h3 : Field.hold ∈ fs) (h4 : Field.ofs ∈ fs) (h5 : Field.aligned
    ∈ fs) (h6 : Field.refs ∈ fs) (h7 : Field.conflicts ∈ fs) (h8 : Field.sel ∈ fs) (h9 : Field.views ∈ fs) :
    OnlyChanges fs s (t.takeReport p e whole interval quality noise) ↔ OnlyChanges fs s t := by
  unfold State.takeReport
  dsimp only
  repeat' split
  all_goals first | rfl | simp [h1, h2, h3, h4, h5, h6, h7, h8, h9] | (rw [forEach_only] <;> (try intro i u) <;> (repeat' split) <;> simp [h1, h2, h3, h4, h5, h6, h7, h8, h9])

@[simp] theorem State.ofTimeout_only (p : Port) (h1 : Field.osc ∈ fs) (h2 : Field.tb ∈ fs) (h3 : Field.loop ∈ fs) (h4
    : Field.hold ∈ fs) (h5 : Field.ofs ∈ fs) (h6 : Field.refs ∈ fs) (h7 : Field.conflicts ∈ fs) (h8 : Field.sel ∈ fs)
    (h9 : Field.views ∈ fs) :
    OnlyChanges fs s (t.ofTimeout p) ↔ OnlyChanges fs s t := by
  unfold State.ofTimeout
  repeat' split
  all_goals simp [h1, h2, h3, h4, h5, h6, h7, h8, h9]

@[simp] theorem State.frontEndAtStep_only (amount : Int) (origin : StepOrigin) (h1 : Field.ta ∈ fs) (h2 : Field.fq ∈
    fs) (h3 : Field.aligned ∈ fs) :
    OnlyChanges fs s (t.frontEndAtStep amount origin) ↔ OnlyChanges fs s t := by
  exact onlyChanges_iff fun f hf => by cases f <;> first | rfl | exact absurd (by assumption) hf

@[simp] theorem State.frontEndAtFault_only (h1 : Field.ta ∈ fs) (h2 : Field.fq ∈ fs) (h3 : Field.aligned ∈ fs) :
    OnlyChanges fs s (t.frontEndAtFault) ↔ OnlyChanges fs s t := by
  exact onlyChanges_iff fun f hf => by cases f <;> first | rfl | exact absurd (by assumption) hf

@[simp] theorem State.frontEndAtWarmup_only (h1 : Field.fq ∈ fs) :
    OnlyChanges fs s (t.frontEndAtWarmup) ↔ OnlyChanges fs s t := by
  simp [State.frontEndAtWarmup, h1]

@[simp] theorem State.startSlot_only (i : Slot) (h1 : Field.ta ∈ fs) (h2 : Field.fq ∈ fs) (h3 : Field.ofs ∈ fs) :
    OnlyChanges fs s (t.startSlot i) ↔ OnlyChanges fs s t := by
  unfold State.startSlot
  repeat' split
  all_goals simp [h1, h2, h3]

@[simp] theorem State.endSlot_only (i : Slot) (h1 : Field.ta ∈ fs) (h2 : Field.fq ∈ fs) (h3 : Field.ofs ∈ fs) :
    OnlyChanges fs s (t.endSlot i) ↔ OnlyChanges fs s t := by
  unfold State.endSlot
  repeat' split
  all_goals simp [h1, h2, h3]

@[simp] theorem State.enableSlot_only (i : Slot) (h1 : Field.ta ∈ fs) (h2 : Field.fq ∈ fs) (h3 : Field.ofs ∈ fs) (h4 :
    Field.refs ∈ fs) :
    OnlyChanges fs s (t.enableSlot i) ↔ OnlyChanges fs s t := by
  unfold State.enableSlot
  split <;> simp [h1, h2, h3, h4]

@[simp] theorem State.disableSlot_only (i : Slot) (h1 : Field.ta ∈ fs) (h2 : Field.fq ∈ fs) (h3 : Field.ofs ∈ fs) (h4
    : Field.refs ∈ fs) (h5 : Field.conflicts ∈ fs) :
    OnlyChanges fs s (t.disableSlot i) ↔ OnlyChanges fs s t := by
  unfold State.disableSlot
  split <;> simp [h1, h2, h3, h4, h5]

end Sys2Proof.Machine
end

