-- ==== Sys2Proof/Laws/FramesEmission.lean ====
section
/-! SUPPORT. What each operation of Drops, Scheduler can change: the fields named by its lemma, and no other. -/

namespace Sys2Proof.Machine

variable (fs : List Field) (s t : State)

@[simp] theorem State.reformDelay_only (d : DropIx) (h1 : Field.drops ∈ fs) (h2 : Field.views ∈ fs) :
    OnlyChanges fs s (t.reformDelay d) ↔ OnlyChanges fs s t := by
  unfold State.reformDelay
  dsimp only
  repeat' split
  all_goals first | rfl | simp [h1, h2] | (rw [forEach_only] <;> (try intro i u) <;> (repeat' split) <;> simp [h1, h2])

@[simp] theorem State.moveDrop_only (d : DropIx) (r : DropRec) (h1 : Field.drops ∈ fs) (h2 : Field.views ∈ fs) :
    OnlyChanges fs s (t.moveDrop d r) ↔ OnlyChanges fs s t := by
  unfold State.moveDrop
  split <;> simp [h1, h2]

@[simp] theorem State.enterSeeking_only (d : DropIx) (h1 : Field.drops ∈ fs) (h2 : Field.views ∈ fs) :
    OnlyChanges fs s (t.enterSeeking d) ↔ OnlyChanges fs s t := by
  simp [State.enterSeeking, h1, h2]

@[simp] theorem State.disableDrop_only (d : DropIx) (h1 : Field.drops ∈ fs) (h2 : Field.views ∈ fs) :
    OnlyChanges fs s (t.disableDrop d) ↔ OnlyChanges fs s t := by
  unfold State.disableDrop
  split <;> simp [h1, h2]

@[simp] theorem State.enableDrop_only (d : DropIx) (h1 : Field.drops ∈ fs) (h2 : Field.views ∈ fs) :
    OnlyChanges fs s (t.enableDrop d) ↔ OnlyChanges fs s t := by
  unfold State.enableDrop
  split <;> simp [h1, h2]

@[simp] theorem State.failExchange_only (d : DropIx) (c : FailCause) (h1 : Field.drops ∈ fs) (h2 : Field.views ∈ fs) :
    OnlyChanges fs s (t.failExchange d c) ↔ OnlyChanges fs s t := by
  unfold State.failExchange
  dsimp only
  repeat' split
  all_goals first | rfl | simp [h1, h2] | (rw [forEach_only] <;> (try intro i u) <;> (repeat' split) <;> simp [h1, h2])

@[simp] theorem State.joinRing_only (d : DropIx) (r : Int) (h1 : Field.drops ∈ fs) (h2 : Field.views ∈ fs) :
    OnlyChanges fs s (t.joinRing d r) ↔ OnlyChanges fs s t := by
  unfold State.joinRing
  dsimp only
  repeat' split
  all_goals first | rfl | simp [h1, h2] | (rw [forEach_only] <;> (try intro i u) <;> (repeat' split) <;> simp [h1, h2])

@[simp] theorem State.takeEcho_only (d : DropIx) (t1 : Nat) (t4 : Nat) (maxRtt : Int) (t2 : Nat) (t3 : Nat) (st :
    UnitStatus) (h1 : Field.drops ∈ fs) (h2 : Field.views ∈ fs) :
    OnlyChanges fs s (t.takeEcho d t1 t4 maxRtt t2 t3 st) ↔ OnlyChanges fs s t := by
  unfold State.takeEcho
  dsimp only
  repeat' split
  all_goals first | rfl | simp [h1, h2] | (rw [forEach_only] <;> (try intro i u) <;> (repeat' split) <;> simp [h1, h2])

@[simp] theorem State.takeJoin_only (d : DropIx) (identity : Nat) (compact : Bool) (st : UnitStatus) (h1 : Field.drops
    ∈ fs) (h2 : Field.views ∈ fs) :
    OnlyChanges fs s (t.takeJoin d identity compact st) ↔ OnlyChanges fs s t := by
  unfold State.takeJoin
  dsimp only
  repeat' split
  all_goals first | rfl | simp [h1, h2] | (rw [forEach_only] <;> (try intro i u) <;> (repeat' split) <;> simp [h1, h2])

@[simp] theorem State.handTurnOut_only (d : DropIx) (h1 : Field.drops ∈ fs) :
    OnlyChanges fs s (t.handTurnOut d) ↔ OnlyChanges fs s t := by
  unfold State.handTurnOut
  repeat' split
  all_goals simp [h1]

@[simp] theorem State.turnLimitPasses_only (d : DropIx) (h1 : Field.drops ∈ fs) (h2 : Field.views ∈ fs) :
    OnlyChanges fs s (t.turnLimitPasses d) ↔ OnlyChanges fs s t := by
  unfold State.turnLimitPasses
  repeat' split
  all_goals simp [h1, h2]

@[simp] theorem State.settleLine_only (d : DropIx) (h1 : Field.drops ∈ fs) (h2 : Field.views ∈ fs) :
    OnlyChanges fs s (t.settleLine d) ↔ OnlyChanges fs s t := by
  unfold State.settleLine
  dsimp only
  repeat' split
  all_goals first | rfl | simp [h1, h2] | (rw [forEach_only] <;> (try intro i u) <;> (repeat' split) <;> simp [h1, h2])

@[simp] theorem State.contend_only (d : DropIx) (h1 : Field.drops ∈ fs) (h2 : Field.views ∈ fs) :
    OnlyChanges fs s (t.contend d) ↔ OnlyChanges fs s t := by
  unfold State.contend
  dsimp only
  repeat' split
  all_goals first | rfl | simp [h1, h2] | (rw [forEach_only] <;> (try intro i u) <;> (repeat' split) <;> simp [h1, h2])

@[simp] theorem State.activityBegins_only (d : DropIx) (h1 : Field.drops ∈ fs) (h2 : Field.views ∈ fs) :
    OnlyChanges fs s (t.activityBegins d) ↔ OnlyChanges fs s t := by
  unfold State.activityBegins
  dsimp only
  repeat' split
  all_goals first | rfl | simp [h1, h2] | (rw [forEach_only] <;> (try intro i u) <;> (repeat' split) <;> simp [h1, h2])

@[simp] theorem State.unitFirstByte_only (d : DropIx) (h1 : Field.drops ∈ fs) (h2 : Field.views ∈ fs) :
    OnlyChanges fs s (t.unitFirstByte d) ↔ OnlyChanges fs s t := by
  unfold State.unitFirstByte
  dsimp only
  repeat' split
  all_goals first | rfl | simp [h1, h2] | (rw [forEach_only] <;> (try intro i u) <;> (repeat' split) <;> simp [h1, h2])

@[simp] theorem State.unitMessage_only (d : DropIx) (bytes : List Byte) (h1 : Field.drops ∈ fs) (h2 : Field.views ∈
    fs) :
    OnlyChanges fs s (t.unitMessage d bytes) ↔ OnlyChanges fs s t := by
  unfold State.unitMessage
  dsimp only
  repeat' split
  all_goals first | rfl | simp [h1, h2] | (rw [forEach_only] <;> (try intro i u) <;> (repeat' split) <;> simp [h1, h2])

@[simp] theorem State.lineIdle_only (d : DropIx) (h1 : Field.drops ∈ fs) (h2 : Field.views ∈ fs) :
    OnlyChanges fs s (t.lineIdle d) ↔ OnlyChanges fs s t := by
  simp [State.lineIdle, h1, h2]

@[simp] theorem State.tickDrops_only (h1 : Field.drops ∈ fs) :
    OnlyChanges fs s (t.tickDrops) ↔ OnlyChanges fs s t := by
  simp [State.tickDrops, h1]

@[simp] theorem State.dropsAtStep_only (amount : Int) (h1 : Field.drops ∈ fs) :
    OnlyChanges fs s (t.dropsAtStep amount) ↔ OnlyChanges fs s t := by
  simp [State.dropsAtStep, h1]

@[simp] theorem State.dropAtFault_only (d : DropIx) (h1 : Field.drops ∈ fs) (h2 : Field.views ∈ fs) :
    OnlyChanges fs s (t.dropAtFault d) ↔ OnlyChanges fs s t := by
  unfold State.dropAtFault
  dsimp only
  repeat' split
  all_goals first | rfl | simp [h1, h2] | (rw [forEach_only] <;> (try intro i u) <;> (repeat' split) <;> simp [h1, h2])

@[simp] theorem State.dropsAtFault_only (h1 : Field.drops ∈ fs) (h2 : Field.views ∈ fs) :
    OnlyChanges fs s (t.dropsAtFault) ↔ OnlyChanges fs s t := by
  unfold State.dropsAtFault
  exact forEach_only fs s t 8 _ fun i u => by simp [h1, h2]

@[simp] theorem State.raiseHorizons_only (stop : Int) (h1 : Field.sched ∈ fs) :
    OnlyChanges fs s (t.raiseHorizons stop) ↔ OnlyChanges fs s t := by
  simp [State.raiseHorizons, h1]

@[simp] theorem State.changeEntry_only (i : EntryIx) (f : Entry → Entry) (h1 : Field.entries ∈ fs) :
    OnlyChanges fs s (t.changeEntry i f) ↔ OnlyChanges fs s t := by
  unfold State.changeEntry
  split <;> simp [h1]

theorem Planning.hard_only (p : Planning) (g : Gathered) (h1 : Field.entries ∈ fs) (h2 : Field.sched ∈ fs) :
    OnlyChanges fs s (p.hard g).s ↔ OnlyChanges fs s p.s := by
  unfold Planning.hard
  repeat' split
  all_goals simp [h1, h2]

theorem Planning.placeSoft_only (p : Planning) (d : DropIx) (units : Nat) (k : SoftKind) (h : Field.sched ∈ fs) :
    OnlyChanges fs s (p.placeSoft d units k).s ↔ OnlyChanges fs s p.s := by simp [Planning.placeSoft, h]

theorem Planning.placeAnnouncement_only (p : Planning) (d : DropIx) (a : Announcement) (h1 : Field.sched ∈ fs)
    (h2 : Field.drops ∈ fs) : OnlyChanges fs s (p.placeAnnouncement d a).s ↔ OnlyChanges fs s p.s := by
  simp [Planning.placeAnnouncement, h2, Planning.placeSoft_only fs s p d _ _ h1]

theorem Planning.urgent_only (p : Planning) (d : DropIx) (h1 : Field.sched ∈ fs) (h2 : Field.drops ∈ fs) :
    OnlyChanges fs s (p.urgent d).s ↔ OnlyChanges fs s p.s := by
  unfold Planning.urgent
  repeat' split
  all_goals simp [Planning.placeAnnouncement_only fs s p d _ h1 h2]

theorem Planning.trickle_only (p : Planning) (d : DropIx) (h1 : Field.sched ∈ fs) (h2 : Field.drops ∈ fs) :
    OnlyChanges fs s (p.trickle d).s ↔ OnlyChanges fs s p.s := by
  unfold Planning.trickle
  repeat' split
  all_goals simp [Planning.placeAnnouncement_only fs s p d _ h1 h2]

theorem Planning.exchange_only (p : Planning) (d : DropIx) (h : Field.sched ∈ fs) :
    OnlyChanges fs s (p.exchange d).s ↔ OnlyChanges fs s p.s := by
  unfold Planning.exchange
  repeat' split
  all_goals simp [Planning.placeSoft_only fs s p d _ _ h]

/-- What each drop of a pass leaves, the pass leaves. -/
theorem Planning.pass_only (p : Planning) (f : Planning → DropIx → Planning)
    (h : ∀ q d, OnlyChanges fs s (f q d).s ↔ OnlyChanges fs s q.s) :
    OnlyChanges fs s (p.pass f).s ↔ OnlyChanges fs s p.s := by
  unfold Planning.pass
  induction rotation p.s.sched.pointer generalizing p with
  | nil => rfl
  | cons d l ih => rw [List.foldl_cons, ih, h]

/-- A planning changes the entries' counts, the scheduler and the drops' records of what is placed. -/
theorem State.plan_only (ahead : Nat) (spent : Budget) (h1 : Field.entries ∈ fs) (h2 : Field.sched ∈ fs) (h3 : Field.drops ∈ fs) :
    OnlyChanges fs s (t.plan ahead spent).s ↔ OnlyChanges fs s t := by
  have k : ∀ (l : List Gathered) (p : Planning),
      OnlyChanges fs s (l.foldl Planning.hard p).s ↔ OnlyChanges fs s p.s := by
    intro l
    induction l with
    | nil => exact fun _ => Iff.rfl
    | cons g l ih => intro p; rw [List.foldl_cons, ih, Planning.hard_only fs s p g h1 h2]
  unfold State.plan
  dsimp only
  rw [Planning.pass_only fs s _ _ fun q d => Planning.exchange_only fs s q d h2,
    Planning.pass_only fs s _ _ fun q d => Planning.trickle_only fs s q d h2 h3,
    Planning.pass_only fs s _ _ fun q d => Planning.urgent_only fs s q d h2 h3, k]
  simp [State.beginPlanning, h2]

@[simp] theorem State.setSpent_only (a b : Budget) (h1 : Field.sched ∈ fs) :
    OnlyChanges fs s (t.setSpent a b) ↔ OnlyChanges fs s t := by
  simp [State.setSpent, h1]

@[simp] theorem State.planNext_only (h1 : Field.entries ∈ fs) (h2 : Field.sched ∈ fs) (h3 : Field.drops ∈ fs) :
    OnlyChanges fs s (t.planNext) ↔ OnlyChanges fs s t := by
  unfold State.planNext
  simp [State.plan_only fs s t 1 _ h1 h2 h3, h2]

@[simp] theorem State.planAtOnce_only (spent : Budget) (h1 : Field.entries ∈ fs) (h2 : Field.sched ∈ fs) (h3 : Field.drops ∈ fs) :
    OnlyChanges fs s (t.planAtOnce spent) ↔ OnlyChanges fs s t := by
  unfold State.planAtOnce
  simp [State.plan_only fs s _ _ _ h1 h2 h3, h2]

@[simp] theorem State.countWithdrawn_only (l : List HardItem) (h1 : Field.entries ∈ fs) :
    OnlyChanges fs s (t.countWithdrawn l) ↔ OnlyChanges fs s t := by
  unfold State.countWithdrawn
  induction l generalizing t with
  | nil => rfl
  | cons x l ih => rw [List.foldl_cons, ih, State.changeEntry_only fs s t _ _ h1]

@[simp] theorem State.withdraw_only (p : EntryIx → Bool) (h1 : Field.entries ∈ fs) (h2 : Field.sched ∈ fs) :
    OnlyChanges fs s (t.withdraw p) ↔ OnlyChanges fs s t := by
  simp [State.withdraw, h1, h2]

@[simp] theorem State.unplace_only (x : SoftItem) (h1 : Field.drops ∈ fs) :
    OnlyChanges fs s (t.unplace x) ↔ OnlyChanges fs s t := by
  unfold State.unplace
  split <;> simp [h1]

@[simp] theorem State.discardPlans_only (h1 : Field.entries ∈ fs) (h2 : Field.sched ∈ fs) (h3 : Field.drops ∈ fs) :
    OnlyChanges fs s (t.discardPlans) ↔ OnlyChanges fs s t := by
  have h : ∀ (l : List SoftItem) (u : State), OnlyChanges fs s (l.foldl State.unplace u) ↔ OnlyChanges fs s u := by
    intro l
    induction l with
    | nil => exact fun _ => Iff.rfl
    | cons x l ih => intro u; rw [List.foldl_cons, ih, State.unplace_only fs s u x h3]
  unfold State.discardPlans
  simp [h, h1, h2]

@[simp] theorem State.putOnLine_only (d : DropIx) (m : LineMessage) (h1 : Field.drops ∈ fs) :
    OnlyChanges fs s (t.putOnLine d m) ↔ OnlyChanges fs s t := by
  simp [State.putOnLine, h1]

@[simp] theorem State.emit_only (h : HardItem) (h1 : Field.px ∈ fs) (h2 : Field.drops ∈ fs) :
    OnlyChanges fs s (t.emit h) ↔ OnlyChanges fs s t := by
  unfold State.emit
  split <;> simp [h1, h2]

@[simp] theorem State.settleTarget_only (o : Output) (h1 : Field.drops ∈ fs) (h2 : Field.views ∈ fs) :
    OnlyChanges fs s (t.settleTarget o) ↔ OnlyChanges fs s t := by
  unfold State.settleTarget
  split <;> simp [h1, h2]

@[simp] theorem State.releaseItem_only (h : HardItem) (h1 : Field.entries ∈ fs) (h2 : Field.px ∈ fs) (h3 : Field.drops
    ∈ fs) :
    OnlyChanges fs s (t.releaseItem h) ↔ OnlyChanges fs s t := by
  unfold State.releaseItem
  split <;> simp [h1, h2, h3]

@[simp] theorem State.releaseHard_only (n : EntryIx) (h1 : Field.counter ∈ fs) (h2 : Field.secondOwed ∈ fs) (h3 :
    Field.msOwed ∈ fs) (h4 : Field.entries ∈ fs) (h5 : Field.px ∈ fs) (h6 : Field.sched ∈ fs) (h7 : Field.drops ∈ fs)
    (h8 : Field.views ∈ fs) :
    OnlyChanges fs s (t.releaseHard n) ↔ OnlyChanges fs s t := by
  unfold State.releaseHard
  split <;> simp [h1, h2, h3, h4, h5, h6, h7, h8]

@[simp] theorem State.endPulse_only (x : Px) (h1 : Field.counter ∈ fs) (h2 : Field.secondOwed ∈ fs) (h3 : Field.msOwed
    ∈ fs) (h4 : Field.px ∈ fs) :
    OnlyChanges fs s (t.endPulse x) ↔ OnlyChanges fs s t := by
  unfold State.endPulse
  split <;> simp [h1, h2, h3, h4]

@[simp] theorem State.releaseSoftItem_only (x : SoftItem) (h1 : Field.drops ∈ fs) :
    OnlyChanges fs s (t.releaseSoftItem x) ↔ OnlyChanges fs s t := by
  unfold State.releaseSoftItem
  repeat' split
  all_goals simp [h1]

@[simp] theorem State.releaseSoft_only (d : DropIx) (h1 : Field.counter ∈ fs) (h2 : Field.secondOwed ∈ fs) (h3 :
    Field.msOwed ∈ fs) (h4 : Field.sched ∈ fs) (h5 : Field.drops ∈ fs) (h6 : Field.views ∈ fs) :
    OnlyChanges fs s (t.releaseSoft d) ↔ OnlyChanges fs s t := by
  unfold State.releaseSoft
  split <;> simp [h1, h2, h3, h4, h5, h6]

@[simp] theorem State.moveTrain_only (a : EntryIx) (st : EntryState) (h1 : Field.entries ∈ fs) :
    OnlyChanges fs s (t.moveTrain a st) ↔ OnlyChanges fs s t := by
  simp [State.moveTrain, h1]

@[simp] theorem State.endedNotice_only (i : EntryIx) (e : Entry) (h1 : Field.views ∈ fs) :
    OnlyChanges fs s (t.endedNotice i e) ↔ OnlyChanges fs s t := by
  simp [State.endedNotice, h1]

@[simp] theorem State.endedNotices_only (a : EntryIx) (h1 : Field.views ∈ fs) :
    OnlyChanges fs s (t.endedNotices a) ↔ OnlyChanges fs s t := by
  unfold State.endedNotices
  dsimp only
  rw [forEach_only fs s _ 64 _ fun i u => by (repeat' split) <;> simp [h1]]
  repeat' split
  all_goals simp [h1]

@[simp] theorem State.endTrain_only (a : EntryIx) (h1 : Field.entries ∈ fs) (h2 : Field.views ∈ fs) :
    OnlyChanges fs s (t.endTrain a) ↔ OnlyChanges fs s t := by
  simp [State.endTrain, h1, h2]

@[simp] theorem State.moveEntries_only (ends : Nat → Bool) (h1 : Field.entries ∈ fs) (h2 : Field.views ∈ fs) :
    OnlyChanges fs s (t.moveEntries ends) ↔ OnlyChanges fs s t := by
  unfold State.moveEntries
  exact forEach_only fs s t 64 _ fun i u => by (repeat' split) <;> simp [h1, h2]

@[simp] theorem State.entriesAtSecond_only (h1 : Field.entries ∈ fs) (h2 : Field.views ∈ fs) :
    OnlyChanges fs s (t.entriesAtSecond) ↔ OnlyChanges fs s t := by
  simp [State.entriesAtSecond, h1, h2]

@[simp] theorem State.entriesAtStep_only (before : Nat) (h1 : Field.entries ∈ fs) (h2 : Field.views ∈ fs) :
    OnlyChanges fs s (t.entriesAtStep before) ↔ OnlyChanges fs s t := by
  simp [State.entriesAtStep, h1, h2]

@[simp] theorem State.pulsesAtStep_only (amount : Int) (h1 : Field.px ∈ fs) :
    OnlyChanges fs s (t.pulsesAtStep amount) ↔ OnlyChanges fs s t := by
  simp [State.pulsesAtStep, h1]

@[simp] theorem State.replanAtStep_only (h1 : Field.entries ∈ fs) (h2 : Field.sched ∈ fs) (h3 : Field.drops ∈ fs) :
    OnlyChanges fs s (t.replanAtStep) ↔ OnlyChanges fs s t := by
  simp [State.replanAtStep, h1, h2, h3]

@[simp] theorem State.replanAtReturn_only (h1 : Field.msOwed ∈ fs) (h2 : Field.entries ∈ fs) (h3 : Field.sched ∈ fs)
    (h4 : Field.drops ∈ fs) : OnlyChanges fs s (t.replanAtReturn) ↔ OnlyChanges fs s t := by
  simp [State.replanAtReturn, h1, h2, h3, h4]

@[simp] theorem State.pulsesAtFault_only (h1 : Field.px ∈ fs) :
    OnlyChanges fs s (t.pulsesAtFault) ↔ OnlyChanges fs s t := by
  simp [State.pulsesAtFault, h1]

end Sys2Proof.Machine
end

