-- ==== Sys2Proof/Laws/FramesPorts.lean ====
section
/-! SUPPORT. What each operation of Faults, Seconds, Ports, TimeRequests, RefRequests, EntryRequests, DropRequests, Schedule can change: the fields named by its lemma, and no other. -/

namespace Sys2Proof.Machine

variable (fs : List Field) (s t : State)

@[simp] theorem State.loopAtFault_only (h1 : Field.loop ∈ fs) :
    OnlyChanges fs s (t.loopAtFault) ↔ OnlyChanges fs s t := by
  simp [State.loopAtFault, h1]

@[simp] theorem State.timebaseAtFault_only (h1 : Field.osc ∈ fs) (h2 : Field.tb ∈ fs) (h3 : Field.loop ∈ fs) (h4 :
    Field.hold ∈ fs) (h5 : Field.views ∈ fs) :
    OnlyChanges fs s (t.timebaseAtFault) ↔ OnlyChanges fs s t := by
  simp [State.timebaseAtFault, h1, h2, h3, h4, h5]

@[simp] theorem State.enterFault_only (h1 : Field.osc ∈ fs) (h2 : Field.tb ∈ fs) (h3 : Field.loop ∈ fs) (h4 :
    Field.hold ∈ fs) (h5 : Field.ta ∈ fs) (h6 : Field.fq ∈ fs) (h7 : Field.aligned ∈ fs) (h8 : Field.refs ∈ fs) (h9 :
    Field.conflicts ∈ fs) (h10 : Field.sel ∈ fs) (h11 : Field.entries ∈ fs) (h12 : Field.px ∈ fs) (h13 : Field.sched ∈
    fs) (h14 : Field.drops ∈ fs) (h15 : Field.views ∈ fs) :
    OnlyChanges fs s (t.enterFault) ↔ OnlyChanges fs s t := by
  unfold State.enterFault
  split <;> simp [*]

@[simp] theorem State.loadWarmup_only (h1 : Field.osc ∈ fs) :
    OnlyChanges fs s (t.loadWarmup) ↔ OnlyChanges fs s t := by
  simp [State.loadWarmup, h1]

@[simp] theorem State.returnToWarmup_only (h1 : Field.osc ∈ fs) (h2 : Field.tb ∈ fs) (h3 : Field.loop ∈ fs) (h4 :
    Field.fq ∈ fs) (h5 : Field.entries ∈ fs) (h6 : Field.sched ∈ fs) (h7 : Field.drops ∈ fs) (h8 : Field.views ∈ fs)
    (h9 : Field.msOwed ∈ fs) :
    OnlyChanges fs s (t.returnToWarmup) ↔ OnlyChanges fs s t := by
  unfold State.returnToWarmup
  split <;> simp [h1, h2, h3, h4, h5, h6, h7, h8, h9]

@[simp] theorem State.judgeLost_only (h1 : Field.osc ∈ fs) (h2 : Field.tb ∈ fs) (h3 : Field.loop ∈ fs) (h4 :
    Field.hold ∈ fs) (h5 : Field.ta ∈ fs) (h6 : Field.fq ∈ fs) (h7 : Field.aligned ∈ fs) (h8 : Field.refs ∈ fs) (h9 :
    Field.conflicts ∈ fs) (h10 : Field.sel ∈ fs) (h11 : Field.entries ∈ fs) (h12 : Field.px ∈ fs) (h13 : Field.sched ∈
    fs) (h14 : Field.drops ∈ fs) (h15 : Field.views ∈ fs) :
    OnlyChanges fs s (t.judgeLost) ↔ OnlyChanges fs s t := by
  simp [State.judgeLost, *]

@[simp] theorem State.judgeGood_only (h1 : Field.osc ∈ fs) (h2 : Field.tb ∈ fs) (h3 : Field.loop ∈ fs) (h4 : Field.fq
    ∈ fs) (h5 : Field.entries ∈ fs) (h6 : Field.sched ∈ fs) (h7 : Field.drops ∈ fs) (h8 : Field.views ∈ fs)
    (h9 : Field.msOwed ∈ fs) :
    OnlyChanges fs s (t.judgeGood) ↔ OnlyChanges fs s t := by
  simp [State.judgeGood, h1, h2, h3, h4, h5, h6, h7, h8, h9]

@[simp] theorem State.gateEnds_only (edges : Nat) (h1 : Field.osc ∈ fs) (h2 : Field.tb ∈ fs) (h3 : Field.loop ∈ fs)
    (h4 : Field.hold ∈ fs) (h5 : Field.ta ∈ fs) (h6 : Field.fq ∈ fs) (h7 : Field.aligned ∈ fs) (h8 : Field.refs ∈ fs)
    (h9 : Field.conflicts ∈ fs) (h10 : Field.sel ∈ fs) (h11 : Field.entries ∈ fs) (h12 : Field.px ∈ fs) (h13 :
    Field.sched ∈ fs) (h14 : Field.drops ∈ fs) (h15 : Field.views ∈ fs)
    (h16 : Field.msOwed ∈ fs) :
    OnlyChanges fs s (t.gateEnds edges) ↔ OnlyChanges fs s t := by
  unfold State.gateEnds
  dsimp only
  repeat' split
  all_goals first | rfl | simp [*]

@[simp] theorem State.edgeGap_only (h1 : Field.osc ∈ fs) (h2 : Field.tb ∈ fs) (h3 : Field.loop ∈ fs) (h4 : Field.hold
    ∈ fs) (h5 : Field.ta ∈ fs) (h6 : Field.fq ∈ fs) (h7 : Field.aligned ∈ fs) (h8 : Field.refs ∈ fs) (h9 :
    Field.conflicts ∈ fs) (h10 : Field.sel ∈ fs) (h11 : Field.entries ∈ fs) (h12 : Field.px ∈ fs) (h13 : Field.sched ∈
    fs) (h14 : Field.drops ∈ fs) (h15 : Field.views ∈ fs) :
    OnlyChanges fs s (t.edgeGap) ↔ OnlyChanges fs s t := by
  unfold State.edgeGap
  split <;> simp [*]

@[simp] theorem State.leapEffect_only (l : Leap) (h1 : Field.tb ∈ fs) :
    OnlyChanges fs s (t.leapEffect l) ↔ OnlyChanges fs s t := by
  simp [State.leapEffect, h1]

@[simp] theorem State.leapAtStep_only (before : Nat) (h1 : Field.tb ∈ fs) :
    OnlyChanges fs s (t.leapAtStep before) ↔ OnlyChanges fs s t := by
  unfold State.leapAtStep
  repeat' split
  all_goals simp [h1]

@[simp] theorem State.jump_only (amount : Int) (h1 : Field.counter ∈ fs) (h2 : Field.msOwed ∈ fs) (h3 : Field.tb ∈ fs)
    :
    OnlyChanges fs s (t.jump amount) ↔ OnlyChanges fs s t := by
  exact onlyChanges_iff fun f hf => by cases f <;> first | rfl | exact absurd (by assumption) hf

@[simp] theorem State.applyStep_only (p : PendingStep) (h1 : Field.counter ∈ fs) (h2 : Field.msOwed ∈ fs) (h3 :
    Field.tb ∈ fs) (h4 : Field.hold ∈ fs) (h5 : Field.ta ∈ fs) (h6 : Field.fq ∈ fs) (h7 : Field.aligned ∈ fs) (h8 :
    Field.refs ∈ fs) (h9 : Field.entries ∈ fs) (h10 : Field.px ∈ fs) (h11 : Field.sched ∈ fs) (h12 : Field.drops ∈ fs)
    (h13 : Field.views ∈ fs) (h14 : Field.conflicts ∈ fs) :
    OnlyChanges fs s (t.applyStep p) ↔ OnlyChanges fs s t := by
  simp [State.applyStep, *]

@[simp] theorem State.reachSecond_only (h1 : Field.counter ∈ fs) (h3 : Field.msOwed ∈ fs) :
    OnlyChanges fs s (t.reachSecond) ↔ OnlyChanges fs s t := by
  unfold State.reachSecond
  split
  · exact onlyChanges_iff fun f hf => by cases f <;> first | exact absurd h1 hf | exact absurd h3 hf | rfl
  · simp [h1]

@[simp] theorem State.minuteBoundary_only (h1 : Field.tb ∈ fs) (h2 : Field.loop ∈ fs) (h3 : Field.hold ∈ fs) (h4 :
    Field.views ∈ fs) :
    OnlyChanges fs s (t.minuteBoundary) ↔ OnlyChanges fs s t := by
  simp [State.minuteBoundary, h1, h2, h3, h4]

@[simp] theorem State.leapAtSecond_only (h1 : Field.tb ∈ fs) :
    OnlyChanges fs s (t.leapAtSecond) ↔ OnlyChanges fs s t := by
  unfold State.leapAtSecond
  repeat' split
  all_goals simp [h1]

@[simp] theorem State.resume_only (o : Overshoot) (h1 : Field.counter ∈ fs) (h2 : Field.secondOwed ∈ fs) :
    OnlyChanges fs s (t.resume o) ↔ OnlyChanges fs s t := by
  unfold State.resume
  rw [onlyChanges_counter fs s { t with secondOwed := o.seconds } _ h1, onlyChanges_secondOwed fs s t _ h2]

@[simp] theorem State.beforeStep_only (o : Overshoot) (h1 : Field.secondOwed ∈ fs) (h2 : Field.msOwed ∈ fs) :
    OnlyChanges fs s (t.beforeStep o) ↔ OnlyChanges fs s t := by
  exact onlyChanges_iff fun f hf => by cases f <;> first | rfl | exact absurd (by assumption) hf

@[simp] theorem State.rerun_only (o : Overshoot) (h1 : Field.counter ∈ fs) (h2 : Field.secondOwed ∈ fs) (h3 :
    Field.msOwed ∈ fs) :
    OnlyChanges fs s (t.rerun o) ↔ OnlyChanges fs s t := by
  simp [State.rerun, h1, h2, h3]

@[simp] theorem State.sampleAndMinute_only (h1 : Field.tb ∈ fs) (h2 : Field.loop ∈ fs) (h3 : Field.hold ∈ fs) (h4 :
    Field.views ∈ fs) :
    OnlyChanges fs s (t.sampleAndMinute) ↔ OnlyChanges fs s t := by
  unfold State.sampleAndMinute
  dsimp only
  split <;> simp [h1, h2, h3, h4]

@[simp] theorem State.secondWork_only (h1 : Field.tb ∈ fs) (h2 : Field.loop ∈ fs) (h3 : Field.hold ∈ fs) (h4 :
    Field.fq ∈ fs) (h5 : Field.refs ∈ fs) (h6 : Field.conflicts ∈ fs) (h7 : Field.sel ∈ fs) (h8 : Field.entries ∈ fs)
    (h9 : Field.views ∈ fs) (h10 : Field.alarms ∈ fs) (h12 : Field.aligned ∈ fs) :
    OnlyChanges fs s (t.secondWork) ↔ OnlyChanges fs s t := by
  simp [State.secondWork, h1, h2, h3, h4, h5, h6, h7, h8, h9, h10, h12]

@[simp] theorem State.secondEnds_only (o : Overshoot) (h1 : Field.counter ∈ fs) (h2 : Field.secondOwed ∈ fs) (h3 :
    Field.msOwed ∈ fs) (h4 : Field.tb ∈ fs) (h5 : Field.hold ∈ fs) (h6 : Field.ta ∈ fs) (h7 : Field.fq ∈ fs) (h8 :
    Field.aligned ∈ fs) (h9 : Field.refs ∈ fs) (h10 : Field.entries ∈ fs) (h11 : Field.px ∈ fs) (h12 : Field.sched ∈
    fs) (h13 : Field.drops ∈ fs) (h14 : Field.views ∈ fs) (h15 : Field.conflicts ∈ fs) (h16 :
    Field.alarms ∈ fs) :
    OnlyChanges fs s (t.secondEnds o) ↔ OnlyChanges fs s t := by
  unfold State.secondEnds
  repeat' split
  all_goals simp [*]

@[simp] theorem State.secondBoundary_only (h1 : Field.counter ∈ fs) (h2 : Field.secondOwed ∈ fs) (h3 : Field.msOwed ∈
    fs) (h4 : Field.tb ∈ fs) (h5 : Field.loop ∈ fs) (h6 : Field.hold ∈ fs) (h7 : Field.ta ∈ fs) (h8 : Field.fq ∈ fs)
    (h9 : Field.aligned ∈ fs) (h10 : Field.refs ∈ fs) (h11 : Field.conflicts ∈ fs) (h12 : Field.sel ∈ fs) (h13 :
    Field.entries ∈ fs) (h14 : Field.px ∈ fs) (h15 : Field.sched ∈ fs) (h16 : Field.drops ∈ fs) (h17 : Field.views ∈
    fs) (h18 : Field.alarms ∈ fs) :
    OnlyChanges fs s (t.secondBoundary) ↔ OnlyChanges fs s t := by
  unfold State.secondBoundary
  split <;> simp [*]

@[simp] theorem State.reachMillisecond_only (h1 : Field.counter ∈ fs) (h2 : Field.secondOwed ∈ fs) (h3 : Field.msOwed
    ∈ fs) :
    OnlyChanges fs s (t.reachMillisecond) ↔ OnlyChanges fs s t := by
  unfold State.reachMillisecond
  dsimp only
  split <;> simp [h1, h2, h3]

@[simp] theorem State.takeMillisecond_only (h1 : Field.counter ∈ fs) (h2 : Field.msOwed ∈ fs) (h3 : Field.entries ∈
    fs) (h4 : Field.sched ∈ fs) (h5 : Field.drops ∈ fs) (h6 : Field.alarms ∈ fs) (h7 : Field.views ∈ fs) :
    OnlyChanges fs s (t.takeMillisecond) ↔ OnlyChanges fs s t := by
  unfold State.takeMillisecond
  dsimp only
  rw [onlyChanges_counter _ _ _ _ h1, State.syncAlarms_only fs s _ h6 h7]
  split
  all_goals
    simp only [State.planNext_only, State.tickDrops_only, h3, h4, h5]
    exact onlyChanges_iff fun f hf => by cases f <;> first | rfl | exact absurd (by assumption) hf

@[simp] theorem State.millisecondBoundary_only (h1 : Field.counter ∈ fs) (h2 : Field.secondOwed ∈ fs) (h3 :
    Field.msOwed ∈ fs) (h4 : Field.entries ∈ fs) (h5 : Field.sched ∈ fs) (h6 : Field.drops ∈ fs) (h7 : Field.alarms ∈
    fs) (h8 : Field.views ∈ fs) :
    OnlyChanges fs s (t.millisecondBoundary) ↔ OnlyChanges fs s t := by
  unfold State.millisecondBoundary
  split <;> simp [h1, h2, h3, h4, h5, h6, h7, h8]

@[simp] theorem State.takeStatus_only (p : Port) (h1 : Field.ports ∈ fs) :
    OnlyChanges fs s (t.takeStatus p) ↔ OnlyChanges fs s t := by
  simp [State.takeStatus, h1]

@[simp] theorem State.flagStanding_only (p : Port) (h1 : Field.views ∈ fs) :
    OnlyChanges fs s (t.flagStanding p) ↔ OnlyChanges fs s t := by
  simp [State.flagStanding, h1]

@[simp] theorem State.comeOnline_only (p : Port) (h1 : Field.views ∈ fs) (h2 : Field.ports ∈ fs) (h3 :
    Field.alarms ∈ fs) :
    OnlyChanges fs s (t.comeOnline p) ↔ OnlyChanges fs s t := by
  unfold State.comeOnline
  split <;> simp [h1, h2, h3]

@[simp] theorem State.loadSilence_only (p : Port) (h1 : Field.ports ∈ fs) :
    OnlyChanges fs s (t.loadSilence p) ↔ OnlyChanges fs s t := by
  simp [State.loadSilence, h1]

@[simp] theorem State.beginPush_only (p : Port) (h1 : Field.views ∈ fs) (h2 : Field.ports ∈ fs) (h3 :
    Field.alarms ∈ fs) :
    OnlyChanges fs s (t.beginPush p) ↔ OnlyChanges fs s t := by
  simp [State.beginPush, h1, h2, h3]

@[simp] theorem State.requestArrives_only (p : Port) (code : Byte) (tag : BitVec 16) (body : List Byte) (h1 :
    Field.ports ∈ fs) :
    OnlyChanges fs s (t.requestArrives p code tag body) ↔ OnlyChanges fs s t := by
  unfold State.requestArrives
  dsimp only
  repeat' split
  all_goals first | rfl | simp [h1] | (rw [forEach_only] <;> (try intro i u) <;> (repeat' split) <;> simp [h1])

@[simp] theorem State.cutShort_only (p : Port) (h1 : Field.ports ∈ fs) :
    OnlyChanges fs s (t.cutShort p) ↔ OnlyChanges fs s t := by
  unfold State.cutShort
  split <;> simp [h1]

@[simp] theorem State.beginPull_only (p : Port) (h1 : Field.ports ∈ fs) :
    OnlyChanges fs s (t.beginPull p) ↔ OnlyChanges fs s t := by
  unfold State.beginPull
  split <;> simp [h1]

@[simp] theorem State.segmentEnds_only (p : Port) (h1 : Field.ports ∈ fs) :
    OnlyChanges fs s (t.segmentEnds p) ↔ OnlyChanges fs s t := by
  unfold State.segmentEnds
  dsimp only
  repeat' split
  all_goals first | rfl | simp [h1] | (rw [forEach_only] <;> (try intro i u) <;> (repeat' split) <;> simp [h1])

@[simp] theorem State.grant_only (p : Port) (before : Nat) (h1 : Field.hold ∈ fs) (h2 : Field.views ∈ fs) (h3 :
    Field.holder ∈ fs) :
    OnlyChanges fs s (t.grant p before) ↔ OnlyChanges fs s t := by
  simp [State.grant, h1, h2, h3]

@[simp] theorem State.passAuthority_only (p : Port) (h1 : Field.hold ∈ fs) (h2 : Field.views ∈ fs) (h3 : Field.holder
    ∈ fs) (h4 : Field.waitList ∈ fs) :
    OnlyChanges fs s (t.passAuthority p) ↔ OnlyChanges fs s t := by
  unfold State.passAuthority
  split <;> simp [h1, h2, h3, h4]

@[simp] theorem State.leaveAuthority_only (p : Port) (h1 : Field.hold ∈ fs) (h2 : Field.views ∈ fs) (h3 : Field.holder
    ∈ fs) (h4 : Field.waitList ∈ fs) :
    OnlyChanges fs s (t.leaveAuthority p) ↔ OnlyChanges fs s t := by
  unfold State.leaveAuthority
  split <;> simp [h1, h2, h3, h4]

@[simp] theorem State.takeAuthority_only (p : Port) (urgency : Nat) (h1 : Field.hold ∈ fs) (h2 : Field.views ∈ fs) (h3
    : Field.holder ∈ fs) (h4 : Field.waitList ∈ fs) :
    OnlyChanges fs s (t.takeAuthority p urgency) ↔ OnlyChanges fs s t := by
  unfold State.takeAuthority
  repeat' split
  all_goals simp [h1, h2, h3, h4]

@[simp] theorem State.clearPort_only (p : Port) (h1 : Field.hold ∈ fs) (h2 : Field.views ∈ fs) (h3 : Field.ports ∈ fs)
    (h4 : Field.holder ∈ fs) (h5 : Field.waitList ∈ fs) :
    OnlyChanges fs s (t.clearPort p) ↔ OnlyChanges fs s t := by
  simp [State.clearPort, h1, h2, h3, h4, h5]

@[simp] theorem State.goOffline_only (p : Port) (h1 : Field.hold ∈ fs) (h2 : Field.views ∈ fs) (h3 : Field.ports ∈ fs)
    (h4 : Field.holder ∈ fs) (h5 : Field.waitList ∈ fs) :
    OnlyChanges fs s (t.goOffline p) ↔ OnlyChanges fs s t := by
  simp [State.goOffline, h1, h2, h3, h4, h5]

@[simp] theorem State.silenceEnds_only (p : Port) (h1 : Field.osc ∈ fs) (h2 : Field.hold ∈ fs) (h3 : Field.views ∈ fs)
    (h4 : Field.ports ∈ fs) (h5 : Field.holder ∈ fs) (h6 : Field.waitList ∈ fs) :
    OnlyChanges fs s (t.silenceEnds p) ↔ OnlyChanges fs s t := by
  unfold State.silenceEnds
  repeat' split
  all_goals simp [h1, h2, h3, h4, h5, h6]

@[simp] theorem State.reply_only (p : Port) (r : Request) (status : Status) (body : List Byte) (h1 : Field.ports ∈ fs)
    :
    OnlyChanges fs s (t.reply p r status body) ↔ OnlyChanges fs s t := by
  simp [State.reply, h1]

@[simp] theorem State.resetPort_only (p : Port) (r : Request) (h1 : Field.hold ∈ fs) (h2 : Field.alarms ∈ fs) (h3 :
    Field.views ∈ fs) (h4 : Field.ports ∈ fs) (h5 : Field.holder ∈ fs) (h6 : Field.waitList ∈ fs) :
    OnlyChanges fs s (t.resetPort p r) ↔ OnlyChanges fs s t := by
  simp [State.resetPort, h1, h2, h3, h4, h5, h6]

@[simp] theorem State.portResets_only (p : Port) (h1 : Field.hold ∈ fs) (h2 : Field.alarms ∈ fs) (h3 : Field.views ∈
    fs) (h4 : Field.ports ∈ fs) (h5 : Field.holder ∈ fs) (h6 : Field.waitList ∈ fs) :
    OnlyChanges fs s (t.portResets p) ↔ OnlyChanges fs s t := by
  unfold State.portResets
  repeat' split
  all_goals simp [h1, h2, h3, h4, h5, h6]

@[simp] theorem State.lowerYMax_only (yMax : Int) (h1 : Field.tb ∈ fs) (h2 : Field.loop ∈ fs) :
    OnlyChanges fs s (t.lowerYMax yMax) ↔ OnlyChanges fs s t := by
  simp [State.lowerYMax, h1, h2]

@[simp] theorem State.freeSteer_only (h1 : Field.tb ∈ fs) :
    OnlyChanges fs s (t.freeSteer) ↔ OnlyChanges fs s t := by
  unfold State.freeSteer
  split <;> simp [h1]

@[simp] theorem State.fallToTracking_only (h1 : Field.loop ∈ fs) (h2 : Field.hold ∈ fs) :
    OnlyChanges fs s (t.fallToTracking) ↔ OnlyChanges fs s t := by
  unfold State.fallToTracking
  split <;> simp [h1, h2]

@[simp] theorem State.setLoopParts_only (v : LoopSetParts) (h1 : Field.tb ∈ fs) (h2 : Field.lp ∈ fs) (h3 : Field.hp ∈
    fs) (h4 : Field.loop ∈ fs) (h5 : Field.hold ∈ fs) (h6 : Field.views ∈ fs) :
    OnlyChanges fs s (t.setLoopParts v) ↔ OnlyChanges fs s t := by
  have k : ∀ u : State, OnlyChanges fs s { u with lp := v.loopParams t.lp, hp := v.holdParams t.hp } ↔
      OnlyChanges fs s u := fun u => onlyChanges_iff fun f hf => by
    cases f <;> first | rfl | exact absurd h2 hf | exact absurd h3 hf
  unfold State.setLoopParts
  dsimp only
  split
  · simp [k, h1, h4, h5, h6]
  · simp [k, h1, h4, h5, h6]

@[simp] theorem State.restore_only (v : RestoreParts) (h1 : Field.tb ∈ fs) (h2 : Field.hold ∈ fs) :
    OnlyChanges fs s (t.restore v) ↔ OnlyChanges fs s t := by
  unfold State.restore
  split <;> simp [h1, h2]

@[simp] theorem State.setParams_only (i : Slot) (v : RefSetParts) (h1 : Field.ta ∈ fs) (h2 : Field.fq ∈ fs) (h3 :
    Field.ofs ∈ fs) :
    OnlyChanges fs s (t.setParams i v) ↔ OnlyChanges fs s t := by
  unfold State.setParams
  repeat' split
  all_goals simp [h1, h2, h3]

@[simp] theorem State.switchSlot_only (i : Slot) (enable : Option Int) (h1 : Field.ta ∈ fs) (h2 : Field.fq ∈ fs) (h3 :
    Field.ofs ∈ fs) (h4 : Field.refs ∈ fs) (h5 : Field.conflicts ∈ fs) :
    OnlyChanges fs s (t.switchSlot i enable) ↔ OnlyChanges fs s t := by
  unfold State.switchSlot
  repeat' split
  all_goals simp [h1, h2, h3, h4, h5]

@[simp] theorem State.retest_only (i : Slot) (old : RefRecord) (h1 : Field.refs ∈ fs) (h2 : Field.conflicts ∈ fs) :
    OnlyChanges fs s (t.retest i old) ↔ OnlyChanges fs s t := by
  unfold State.retest
  dsimp only
  repeat' split
  all_goals first | rfl | simp [h1, h2] | (rw [forEach_only] <;> (try intro i u) <;> (repeat' split) <;> simp [h1, h2])

@[simp] theorem State.setRefParts_only (i : Slot) (v : RefSetParts) (h1 : Field.tb ∈ fs) (h2 : Field.loop ∈ fs) (h3 :
    Field.hold ∈ fs) (h4 : Field.ta ∈ fs) (h5 : Field.fq ∈ fs) (h6 : Field.ofs ∈ fs) (h7 : Field.refs ∈ fs) (h8 :
    Field.conflicts ∈ fs) (h9 : Field.sel ∈ fs) (h10 : Field.views ∈ fs) :
    OnlyChanges fs s (t.setRefParts i v) ↔ OnlyChanges fs s t := by
  simp [State.setRefParts, h1, h2, h3, h4, h5, h6, h7, h8, h9, h10]

@[simp] theorem State.stop_only (i : EntryIx) (e : Entry) (h1 : Field.entries ∈ fs) :
    OnlyChanges fs s (t.stop i e) ↔ OnlyChanges fs s t := by
  unfold State.stop
  repeat' split
  all_goals simp [h1]

@[simp] theorem State.freeReclaimed_only (o : Output) (h1 : Field.entries ∈ fs) (h2 : Field.sched ∈ fs) :
    OnlyChanges fs s (t.freeReclaimed o) ↔ OnlyChanges fs s t := by
  simp [State.freeReclaimed, h1, h2]

@[simp] theorem State.setOwner_only (o : Output) (owner : Option Port) (h1 : Field.px ∈ fs) (h2 : Field.drops ∈ fs) :
    OnlyChanges fs s (t.setOwner o owner) ↔ OnlyChanges fs s t := by
  unfold State.setOwner
  split <;> simp [h1, h2]

@[simp] theorem State.setCable_only (o : Output) (v : Option Int) (h1 : Field.px ∈ fs) :
    OnlyChanges fs s (t.setCable o v) ↔ OnlyChanges fs s t := by
  unfold State.setCable
  split <;> simp [h1]

@[simp] theorem State.assign_only (o : Output) (owner : Option Port) (cable : Option Int) (h1 : Field.entries ∈ fs)
    (h2 : Field.px ∈ fs) (h3 : Field.sched ∈ fs) (h4 : Field.drops ∈ fs) :
    OnlyChanges fs s (t.assign o owner cable) ↔ OnlyChanges fs s t := by
  unfold State.assign
  split <;> simp [h1, h2, h3, h4]

@[simp] theorem State.setProfileParts_only (i : ProfileIx) (v : ProfileSetParts) (h1 : Field.profiles ∈ fs) (h2 :
    Field.drops ∈ fs) (h3 : Field.views ∈ fs) :
    OnlyChanges fs s (t.setProfileParts i v) ↔ OnlyChanges fs s t := by
  unfold State.setProfileParts
  dsimp only
  split
  · simp [h1]
  · rw [forEach_only fs s _ 8 _ fun i u => by split <;> simp [h2, h3]]
    simp [h1]

@[simp] theorem State.chooseProfile_only (d : DropIx) (v : Option Int) (h1 : Field.drops ∈ fs) (h2 : Field.views ∈ fs)
    :
    OnlyChanges fs s (t.chooseProfile d v) ↔ OnlyChanges fs s t := by
  unfold State.chooseProfile
  repeat' split
  all_goals simp [h1, h2]

@[simp] theorem State.expectIdentity_only (d : DropIx) (v : Option IdentityPart) (h1 : Field.drops ∈ fs) :
    OnlyChanges fs s (t.expectIdentity d v) ↔ OnlyChanges fs s t := by
  unfold State.expectIdentity
  split <;> simp [h1]

@[simp] theorem State.switchDrop_only (d : DropIx) (v : Option Int) (h1 : Field.drops ∈ fs) (h2 : Field.views ∈ fs) :
    OnlyChanges fs s (t.switchDrop d v) ↔ OnlyChanges fs s t := by
  unfold State.switchDrop
  repeat' split
  all_goals simp [h1, h2]

@[simp] theorem State.cycleCounter_only (h1 : Field.counter ∈ fs) (h2 : Field.residue ∈ fs) (h3 : Field.secondOwed ∈
    fs) (h4 : Field.msOwed ∈ fs) :
    OnlyChanges fs s (t.cycleCounter) ↔ OnlyChanges fs s t := by
  unfold State.cycleCounter
  split
  · rfl
  · rw [State.runCounter_only fs s _ _ h1 h3 h4]
    exact onlyChanges_iff fun f hf => by
      cases f <;> first | exact absurd h1 hf | exact absurd h2 hf | rfl

@[simp] theorem State.cycleMonitor_only (h1 : Field.loCycles ∈ fs) (h2 : Field.osc ∈ fs) :
    OnlyChanges fs s (t.cycleMonitor) ↔ OnlyChanges fs s t := by
  exact onlyChanges_iff fun f hf => by cases f <;> first | rfl | exact absurd (by assumption) hf

@[simp] theorem State.cycleStall_only (a : Nat) (h1 : Field.osc ∈ fs) :
    OnlyChanges fs s (t.cycleStall a) ↔ OnlyChanges fs s t := by
  simp [State.cycleStall, h1]

@[simp] theorem State.cycleGap_only (h1 : Field.loCycles ∈ fs) (h2 : Field.osc ∈ fs) (h3 : Field.pending ∈ fs) :
    OnlyChanges fs s (t.cycleGap) ↔ OnlyChanges fs s t := by
  exact onlyChanges_iff fun f hf => by cases f <;> first | rfl | exact absurd (by assumption) hf

@[simp] theorem State.loCycle_only (h1 : Field.counter ∈ fs) (h2 : Field.residue ∈ fs) (h3 : Field.secondOwed ∈ fs)
    (h4 : Field.msOwed ∈ fs) (h5 : Field.loCycles ∈ fs) (h6 : Field.osc ∈ fs) (h7 : Field.pending ∈ fs) :
    OnlyChanges fs s (t.loCycle) ↔ OnlyChanges fs s t := by
  unfold State.loCycle
  (repeat' split) <;> simp [h1, h2, h3, h4, h5, h6, h7]

@[simp] theorem State.idle_only (h1 : Field.counter ∈ fs) (h2 : Field.residue ∈ fs) (h3 : Field.secondOwed ∈ fs) (h4 :
    Field.msOwed ∈ fs) (h5 : Field.loCycles ∈ fs) (h6 : Field.osc ∈ fs) (h7 : Field.pending ∈ fs) :
    OnlyChanges fs s (t.idle) ↔ OnlyChanges fs s t := by
  unfold State.idle
  split <;> simp [h1, h2, h3, h4, h5, h6, h7]

end Sys2Proof.Machine
end

