-- ==== Sys2Proof/Laws/Requests.lean ====
section
/-! SUPPORT. What the execution of a request can do (R176, R177): run when it is ready, do nothing when it is not, and
change what its verdict changes, with the port's queues and replies. -/

namespace Sys2Proof.Machine

/-! ### Verdicts -/

@[simp] theorem parsed_some {α : Type} (a : α) (f : α → Verdict) : parsed (some a) f = f a := rfl
@[simp] theorem parsed_none {α : Type} (f : α → Verdict) : parsed none f = .refuse .malformed := rfl

theorem parsed_eq {α : Type} (o : Option α) (f : α → Verdict) (v : Verdict) (h : parsed o f = v) :
    o = none ∧ v = .refuse .malformed ∨ ∃ a, o = some a ∧ f a = v := by
  cases o with
  | none => exact .inl ⟨rfl, h.symm⟩
  | some a => exact .inr ⟨a, rfl, h⟩

@[simp] theorem refuseIf_true (st : Status) (v : Verdict) : refuseIf true st v = .refuse st := rfl
@[simp] theorem refuseIf_false (st : Status) (v : Verdict) : refuseIf false st v = v := rfl

theorem refuseIf_accepts (b : Bool) (st st' : Status) (v : Verdict) (body : List Byte) (u : State)
    (h : refuseIf b st v = .accept st' body u) : b = false ∧ v = .accept st' body u := by
  cases b with
  | false => exact ⟨rfl, h⟩
  | true => cases h

/-! ### Execution -/

/-- A request that is ready is executed. -/
theorem execute_ready (s : State) (p : Port) (mine : Nat → Bool) (f : Request → State → Verdict) (r : Request)
    (q : PortRec) (ho : (s.ports[p]).oldest = some (r, q)) (hm : mine r.code.toNat = true)
    (hr : (s.ports[p]).replies.length < Config.replyMax) :
    s.execute p mine f = (s.setPort p q).conclude p r (f r (s.setPort p q)) := by
  rw [State.execute, ho]
  exact if_pos ⟨hm, hr⟩

/-- Without one, nothing happens. -/
theorem execute_absent (s : State) (p : Port) (mine : Nat → Bool) (f : Request → State → Verdict)
    (h : ∀ r q, (s.ports[p]).oldest = some (r, q) → mine r.code.toNat = true →
      Config.replyMax ≤ (s.ports[p]).replies.length) : s.execute p mine f = s := by
  unfold State.execute
  split
  · next r q ho =>
    split
    · next hc => exact absurd hc.2 (Nat.not_lt.mpr (h r q ho hc.1))
    · rfl
  · rfl

/-- A request that is ready is answered with the verdict on its body. -/
theorem answer_ready (s : State) (p : Port) (code : Nat) (f : List Byte → State → Verdict) (r : Request) (q : PortRec)
    (h : s.ready p code r q) :
    s.answer p code f = (s.setPort p q).conclude p r (f r.body (s.setPort p q)) :=
  execute_ready s p _ _ r q h.1 (by simp [h.2.1]) h.2.2

/-- A refusal leaves the request's reply and nothing else. -/
theorem conclude_refuse (s : State) (p : Port) (r : Request) (q : PortRec) (st : Status) :
    (s.setPort p q).conclude p r (.refuse st) = s.setPort p (q.replied r st []) := by
  simp [State.conclude, State.reply, State.setPort, PortRec.replied, Request.reply]

/-! ### Frames -/

theorem conclude_only (fs : List Field) (s t : State) (p : Port) (r : Request) (v : Verdict) (hp : Field.ports ∈ fs)
    (ht : OnlyChanges fs s t) (hv : ∀ st b u, v = .accept st b u → OnlyChanges fs s u) :
    OnlyChanges fs s (t.conclude p r v) := by
  unfold State.conclude
  split
  · simp [hp, ht]
  · simp [hp]
    exact hv _ _ _ rfl

theorem execute_only (fs : List Field) (s : State) (p : Port) (mine : Nat → Bool) (f : Request → State → Verdict)
    (hp : Field.ports ∈ fs)
    (hv : ∀ r q st b u, f r (s.setPort p q) = .accept st b u → OnlyChanges fs (s.setPort p q) u) :
    OnlyChanges fs s (s.execute p mine f) := by
  unfold State.execute
  split
  · split
    · refine conclude_only _ _ _ _ _ _ hp (by simp [hp]) fun st b u h => ?_
      exact OnlyChanges.trans (by simp [hp]) (hv _ _ _ _ _ h)
    · simp
  · simp

theorem answer_only (fs : List Field) (s : State) (p : Port) (code : Nat) (f : List Byte → State → Verdict)
    (hp : Field.ports ∈ fs) (hv : ∀ b0 s0 st b u, f b0 s0 = .accept st b u → OnlyChanges fs s0 u) :
    OnlyChanges fs s (s.answer p code f) :=
  execute_only _ _ _ _ _ hp fun _ _ _ _ _ h => hv _ _ _ _ _ h

end Sys2Proof.Machine
end

