-- ==== Sys2Proof/Laws/Schedule.lean ====
section
/-! SUPPORT. What the timers of monitor time are to an idle step: which comes next, and when one is due. -/

namespace Sys2Proof.Machine

variable {s : State}

/-- The gate of the oscillator monitor always runs. -/
theorem State.gate_mem_monitorTimers :
    { ends := s.osc.gateEnd, command := .monitorGateEnd (s.osc.gateEdges + s.osc.passedEdges) } ∈ s.monitorTimers := by
  simp [State.monitorTimers, timerOf]

/-- The least of the instants of a list of timers and one more instant. -/
theorem least_cases (l : List MonitorTimer) (b : Nat) :
    (l.foldr (fun m t => min m.ends t) b ≤ b ∧ ∀ m ∈ l, l.foldr (fun m t => min m.ends t) b ≤ m.ends) ∧
      (l.foldr (fun m t => min m.ends t) b = b ∨ ∃ m ∈ l, m.ends = l.foldr (fun m t => min m.ends t) b) := by
  induction l with
  | nil => simp
  | cons a l ih =>
    obtain ⟨⟨hb, hl⟩, hm⟩ := ih
    simp only [List.foldr_cons, List.forall_mem_cons, List.exists_mem_cons_iff]
    generalize l.foldr (fun m t => min m.ends t) b = n at *
    refine ⟨⟨by omega, by omega, fun m h => Nat.le_trans (Nat.min_le_right _ _) (hl m h)⟩, ?_⟩
    rcases Nat.le_total a.ends n with h | h
    · exact .inr (.inl (Nat.min_eq_left h).symm)
    · rw [Nat.min_eq_right h]
      exact hm.imp_right .inr

/-- No timer runs out before the next one. -/
theorem State.nextTimer_le {m : MonitorTimer} (h : m ∈ s.monitorTimers) : s.nextTimer ≤ m.ends :=
  (least_cases s.monitorTimers s.osc.gateEnd).1.2 m h

/-- The next timer is one of those that run. -/
theorem State.nextTimer_mem : ∃ m ∈ s.monitorTimers, m.ends = s.nextTimer :=
  (least_cases s.monitorTimers s.osc.gateEnd).2.elim (fun h => ⟨_, s.gate_mem_monitorTimers, h.symm⟩) id

/-- Nothing of monitor time is due before the next timer runs out. -/
theorem State.monitorDues_eq_nil : s.monitorDues = [] ↔ s.osc.now < s.nextTimer := by
  simp only [State.monitorDues, List.map_eq_nil_iff, List.filter_eq_nil_iff, decide_eq_true_eq, Nat.not_le]
  refine ⟨fun h => ?_, fun h m hm => Nat.lt_of_lt_of_le h (s.nextTimer_le hm)⟩
  obtain ⟨m, hm, e⟩ := s.nextTimer_mem
  exact e ▸ h m hm

/-- A list holds the command due longest unless it is empty. -/
@[simp] theorem longestDue_eq_none {l : List DueCommand} : longestDue l = none ↔ l = [] := by
  cases l with
  | nil => simp [longestDue]
  | cons a l =>
    simp only [longestDue, reduceCtorEq, iff_false]
    split
    · split <;> simp
    · simp

end Sys2Proof.Machine
end

