-- ==== Sys2Proof/Tests/Slice0.lean ====
section
/-! SUPPORT. Tests of the model: ill-formed commands refused, the worked examples of the manual one step at a time, and
for every statement with hypotheses a state and operands that meet them together. -/

namespace Sys2Proof.Tests

open Sys2Proof Sys2Proof.Machine

/-! ### States to start from -/

/-- A request of this code and body. -/
def request (code : Nat) (body : List Byte) : Request := { code := BitVec.ofNat 8 code, tag := 7, body := body, order := 0 }

end Sys2Proof.Tests

namespace Sys2Proof.Machine

/-- The state with one request waiting on port 0. -/
def State.asked (s : State) (code : Nat) (body : List Byte) : State :=
  if body.length ≤ 16 then s.setPort 0 { s.ports[0] with shortQueue := [Tests.request code body] }
  else s.setPort 0 { s.ports[0] with longQueue := [Tests.request code body] }

/-- The state at the whole second n of the counter. -/
def State.atSecond (s : State) (n : Nat) : State := { s with counter := { sec := n, ps := 0, frac := 0 } }

end Sys2Proof.Machine

namespace Sys2Proof.Tests

set_option Elab.async false

open Sys2Proof Sys2Proof.Machine

/-- The part after reset. -/
def fresh : State := State.reset

/-- The part LOCKED at 700 s and 995 ms, port 0 holding the authority. -/
def up : State :=
  { State.reset with
    counter := { sec := 700, ps := 995000000000, frac := 0 }
    osc := { State.reset.osc with warmup := none }
    tb := { State.reset.tb with state := .locked, grade := .lock, traced := true } }

/-- The same in another timebase state. -/
def inState (x : TbState) : State := up.setTb { up.tb with state := x }

/-- A minute record. -/
def minute (i m : Int) : MinuteRecord :=
  { index := i, mean := m, least := 0, greatest := 0, samples := 60, slot := 0, cls := 3, disturbed := false, restored := false }

/-- 05, "Worked example: entry from a full history", at the loss of TA0. -/
def upWithHistory : State :=
  { up with
    counter := { sec := 6398, ps := 0, frac := 0 }
    hp := { up.hp with recordCount := 4 }
    tb := { up.tb with minuteIndex := 106, steer := 2650 }
    loop := { up.loop with cls := 3, y := 2650, lastU := some (-18000) }
    hold := { up.hold with history :=
      ([2400, 2400, 2400, 2400, 2400, 2400, 2400, 2400, 2400, 2400, 2400, 2410, 2430, 2440, 2520, 2610].mapIdx
        fun i m => minute (90 + i) m) } }

/-- The same 29 minutes into its episode. -/
def held : State :=
  let s := upWithHistory.phaseGone
  s.setHold { s.hold with episode := s.hold.episode.map fun e => { e with mH := 29 } }

def heldEpisode : EpisodeRecord :=
  { closed := none, opening := { sec := 6398, ps := 0, frac := 0 }, openingIndex := 106, c := 4, yH := 2420, drift := 900,
    sigma := 50, te0 := 20, aging := 100, assistUncertainty := 2, mH := 29, mA := 0, hee := 20 }

/-- Port 1 waits behind port 0. -/
def waiting : State := { State.reset with waitList := [⟨1, 3⟩] }

/-- 01, "Worked example: an automatic step": the step that follows a loss of lock by 12.00275 s. -/
def foldedStep : PendingStep := { amount := 12002750000000, origin := .automatic, due := 5001 }
def stepping : State :=
  { up with counter := { sec := 5000, ps := 0, frac := 0 }, tb := { up.tb with pendingStep := some foldedStep } }

/-! ### References -/

/-- Port 0 reports the offset of slot 4, which a force holds selected; the loop stands as in 04's worked example. -/
def steered : State :=
  { up with
    refs := up.refs.set 4 { up.refs[4] with enabled := true, state := .qualified, qualifiedSince := some 0 }
    ofs := up.ofs.set 0 { up.ofs[0] with active := true, timer := some 9000000000 }
    sel := { up.sel with phase := some 4, force := some 4 }
    loop := { up.loop with cls := 3, integ := 1310720000, y := 20000 } }

def acquiring : State :=
  { steered with
    tb := { steered.tb with state := .acquiring, heldGrade := some .lock }
    loop := { steered.loop with cls := 0, integ := 0, y := 0 } }

def reportAhead : List Byte := beInt 8 250000 ++ [0, 1, 3] ++ beBytes 4 1000
def partsAhead : OffsetReportParts := { e := 250000, whole := 0, interval := 1, quality := 3, noise := 1000 }
def reportBehind : List Byte := beInt 8 (-2750000000) ++ [0, 1, 3] ++ beBytes 4 1000
def partsBehind : OffsetReportParts := { partsAhead with e := -2750000000 }
def reportNoisy : List Byte := beInt 8 250000 ++ [0, 1, 7] ++ beBytes 4 1000001
def partsNoisy : OffsetReportParts := { partsAhead with quality := 7, noise := 1000001 }

/-- ASSISTED on FQ0, and a measurement of it. -/
def assisted : State :=
  { up with
    tb := { up.tb with state := .assisted, episode := some .traced }
    refs := up.refs.set 2 { up.refs[2] with enabled := true, state := .qualified }
    sel := { up.sel with assist := some 2 }
    loop := { up.loop with phi0 := some 7 } }

def lineClock : Measurement :=
  { slot := 2, time := up.counter, causes := [], e := none, u := none, labelSec := none, quality := none, status := none,
    utc := none, leap := none, leapSec := none, straddles := false, phi := some 5, freq := some 0, count := some 10000000,
    noise := none, interval := none }

/-- FQ0 running, its last edge 100 ms ago. -/
def counting : State :=
  { up with
    refs := up.refs.set 2 { up.refs[2] with enabled := true, state := .qualifying }
    fq := up.fq.set 0 { up.fq[0] with
      active := true, timer := some 1000000000, stage := .running, count := 10000000, lastEdge := some 700900000000000
      origin := some 699900000000000, total := 10000000, prevCount := some 10000000, phis := [0] } }

/-- TA0 in a period opened at 700 s, its width and label still to come. -/
def openPeriod : TaPeriod :=
  { edge := 700000000000000, straddles := false, glitch := false, width := none, label := none, judged := false }

def withPeriod : State :=
  { up with
    refs := up.refs.set 0 { up.refs[0] with enabled := true, state := .qualifying }
    ta := up.ta.set 0 { up.ta[0] with active := true, timer := some 3000000000, period := some openPeriod } }

/-- Eighteen bytes of a label held. -/
def withBytes : State :=
  withPeriod.setTa 0 { withPeriod.ta[0] with rx := some (List.replicate 18 0), rxDeadline := some 2000000 }

/-- TA0 selected, TA1 ranking before it for 5 ns. -/
def twoCandidates : State :=
  { up with
    refs := (up.refs.set 0 { up.refs[0] with
      enabled := true, state := .qualified, priority := 1, rankQuality := 4, candidateSince := some 0 }).set 1
      { up.refs[1] with enabled := true, state := .qualified, priority := 1, rankQuality := 3, candidateSince := some 5 }
    sel := { up.sel with phase := some 0, mode := .revertive } }

/-! ### Emission and drops -/

def trainFields : EntryFields :=
  { kind := .mark, target := .drop 0, link := .anchor 10000 2000000 none none, width := none, squelch := none }

/-- A MARK train every 10 ms at 2 ms on drop 0, and a train that follows every third of its instances, 0.5 ms early. -/
def trainAnchor : Entry := { state := .running, owner := 0, fields := trainFields, emitted := 0, skipped := 0, suppressed := 0 }
def follower : Entry := { trainAnchor with fields := { trainFields with link := .relative 0 (-500000) 3 1 } }

def withTrain : State :=
  { up with
    drops := up.drops.set 0 { up.drops[0] with owner := some 0, enabled := true, state := .serving }
    entries := (up.entries.set 0 (some trainAnchor)).set 1 (some follower) }

/-- A placed MARK of that train. -/
def aMark : HardItem :=
  { entry := 0, target := .drop 0, due := 700996000000000, transmit := 700995960000000, window := 700996, squelch := .hold3,
    width := 0 }
def marked : State := { withTrain with sched := { withTrain.sched with hardPlan := [aMark] } }

/-- A MARK of that train whose drop has its turn out, and a pulse of 1 µs. -/
def turnedOut : State :=
  marked.setDrop 0 { marked.drops[0] with turn := .out 700995900000000 .probe 2000000000 700995900000000 200000000 }
def aPulse : HardItem := { aMark with target := .px 2, width := 1000 }
def pulsing : State := { withTrain with sched := { withTrain.sched with hardPlan := [aPulse] } }

/-- One instance of that train to plan, with its drop's budget half spent. -/
def aGathered : Gathered := { entry := 0, fields := trainFields, due := 700996000000000, transmit := 700995960000000 }
def aPlanning : Planning :=
  { s := withTrain, start := 700995000000000, budget := { units := 12, items := Vector.replicate 8 2 }, refusedUrgent := []
    cursor := Vector.replicate 8 0 }

/-- An anchor that ends at 701. -/
def endingAnchor : Entry := { trainAnchor with fields := { trainFields with link := .anchor 10000 2000000 none (some 701) } }
def endingTrain : State := withTrain.setEntry 0 (some endingAnchor)

/-- The train with its follower idle, and with both idle; the second follower lies 2 ms behind. -/
def withTrainHalf : State := withTrain.setEntry 1 (some { follower with state := .idle })
def idleTrain : State :=
  (withTrainHalf.setEntry 0 (some { trainAnchor with state := .idle })).setEntry 2 (some { trainAnchor with state := .idle })
def idleFarTrain : State :=
  idleTrain.setEntry 1 (some { follower with
    state := .idle, fields := { follower.fields with link := .relative 0 (-2000000) 3 1 } })

def serving : State := withTrain

/-- A placed PROBE of that drop. -/
def aProbe : SoftItem := { drop := 0, kind := .probe, transmit := 700996010000000, window := 700996 }
def probing : State := { withTrain with sched := { withTrain.sched with softPlan := [aProbe] } }

/-- A PROBE on the line. -/
def aLine : LineMessage :=
  { kind := .probe none none 0, bytes := probeMessage 2000, start := 700994999000000, length := 40000, limit := 2000000000,
    maxRtt := 200000000 }
def sending : State := withTrain.setDrop 0 { withTrain.drops[0] with line := some aLine }

/-- A message that the chip is sending, of each kind. -/
def anAnnouncement : Announcement :=
  { full := true, stampSec := 700, stampNs := 994999990, grade := .lock, utc := 0, leapPending := false, stepFlag := true
    urgent := false }
def onLine (k : SentKind) : State :=
  withTrain.setDrop 0 { withTrain.drops[0] with line := some { aLine with kind := k, start := 700994999990000 } }

/-- A placed PROBE whose release finds the turn out. -/
def probingOut : State :=
  probing.setDrop 0 { probing.drops[0] with turn := .out 700995900000000 .probe 2000000000 700995900000000 200000000 }

/-- 07, "Worked example: calibrating a drop", at its first ECHO. -/
def calibrating : State :=
  { up with
    profiles := up.profiles.set 2 { up.profiles[2] with fixedDelay := 40000000, asymmetry := 1500 }
    drops := up.drops.set 0 { up.drops[0] with
      owner := some 0, enabled := true, state := .calibrating, profile := 2, joined := some 99, delay := 40000000
      turn := .out 700995000000000 .probe 2000000000 700995000000000 200000000, arriving := some 700995085012250
      lineActive := true } }

/-- An OFFER answered. -/
def offered : State :=
  up.setDrop 0 { up.drops[0] with
    owner := some 0, enabled := true, state := .seeking, arriving := some 700995001000000, lineActive := true
    turn := .out 700995000000000 .offer 2000000000 700995000000000 200000000 }

/-! ### Ports -/

def aReply : Reply := { tag := 7, code := 16, status := .done, body := List.replicate 100 0 }
def pushing : State := up.setPort 0 { up.ports[0] with transaction := .pushing }
def replied : State := up.setPort 0 { up.ports[0] with replies := [aReply] }
def silent : State := up.setPort 0 { up.ports[0] with online := false, silence := none }
def vacant : State := { up with holder := none }
def heldByOne : State := { up with holder := some 1 }
def sendingSegment : State :=
  up.setPort 0 { up.ports[0] with replies := [aReply], transaction := .pulling 64 64, dataOut := List.replicate 77 1 }
def pulling : State := up.setPort 0 { up.ports[0] with replies := [aReply], transaction := .pulling 64 64 }

/-- LEAP_SET of an offset of 18 s, a leap to 19 s at second 1,000, label adoption off. -/
def leapBody : List Byte := [7] ++ beInt 2 18 ++ [1] ++ beBytes 6 1000 ++ beInt 2 19 ++ [0]
/-- REF_SET of slot 0: enabled, priority 1. -/
def enableBody : List Byte := [7, 0, 0, 1, 1]
/-- LOOP_SET of a Ymax of 1,000 ppt. -/
def ymaxBody : List Byte := [4, 0, 0] ++ beInt 4 1000
/-- REF_SET of slot 1: the jump limit. -/
def jumpBody : List Byte := [1, 4, 1] ++ beBytes 4 1000000
/-- HISTORY_RESTORE of one record, and two records staged before it. -/
def restoreBody (marker : Byte) : List Byte := [marker] ++ (minute 7310 2380).bytes
def stagedRecords : List MinuteRecord := [minute 7300 2370, minute 7301 2375]
def staged : State := (inState .warmup).setHold { up.hold with staging := stagedRecords }
/-- ENTRY_DEFINE of the train above, and ENTRY_CHANGE of entry 0 to it. -/
def anchorBody : List Byte := [31, 0, 0, 0, 0] ++ beBytes 4 10000 ++ beBytes 4 2000000
def changeBody : List Byte := [63, 0, 0, 0, 0, 0] ++ beBytes 4 10000 ++ beBytes 4 2000000
/-- ENTRY_CHANGE of entry 0 to a period of 1 ms, and to a relative of entry 2. -/
def shortBody : List Byte := [63, 0, 0, 0, 0, 0] ++ beBytes 4 1000 ++ beBytes 4 0
def followBody : List Byte := [15, 7, 0, 0, 0, 1, 2] ++ beInt 4 0 ++ [1, 0]
/-- PROFILE_SET of profile 2: squelch level HOLD1. -/
def profileBody : List Byte := [3, 0, 2, 1]

def owning : State := up.setDrop 0 { up.drops[0] with owner := some 0 }
def owningOne : State := owning.setEntry 0 (some { trainAnchor with state := .idle })

/-- The emission table with the two trains is sound. -/
theorem withTrain_sound : (withTrain.setPending [.counterSecondBoundary]).tableSound := by
  intro i e h
  rw [show (withTrain.setPending [.counterSecondBoundary]).entries = ((Vector.replicate 64 none).set 0 (some trainAnchor)).set 1
    (some follower) from rfl] at h
  simp only [Fin.getElem_fin, Vector.getElem_set, Vector.getElem_replicate] at h
  split at h
  · injection h with h
    subst h
    exact ⟨by decide +kernel, trainAnchor, by decide +kernel⟩
  · split at h
    · injection h with h
      subst h
      exact ⟨by decide +kernel, trivial⟩
    · cases h
/-! ### Ill-formed commands are refused by the checks -/

theorem test_label_without_bytes_is_ill_formed : Instr.wellFormed (.taLabelComplete .none 0 []) = false := by decide +kernel
theorem test_label_of_21_bytes_is_ill_formed :
    Instr.wellFormed (.taLabelComplete .none 0 (List.replicate 21 0)) = false ∧
      Instr.wellFormed (.taLabelComplete .none 0 (List.replicate 20 0)) = true := by decide +kernel
theorem test_no_edges_is_ill_formed : Instr.wellFormed (.fqEdge .none 0 0) = false := by decide +kernel
theorem test_empty_drop_message_is_ill_formed : Instr.wellFormed (.dropMessageComplete .none 0 []) = false := by decide +kernel
theorem test_body_past_16_bits_is_ill_formed :
    Instr.wellFormed (.requestArrival .none 0 16 7 (List.replicate 65536 0)) = false := by
  show decide ((List.replicate 65536 (0 : Byte)).length ≤ 65535) = false
  rw [List.length_replicate]
  decide

/-! ### One step -/

/-- What a command leaves. -/
def after (c : Instr) (s : State) : State :=
  match exec c s with
  | .next t => t
  | .fault _ => s
  | .refused _ => s

/-- The newest reply of port 0: its status and its body. -/
def replyOf (s : State) : Option (Status × List Byte) := (s.ports[0]).replies.getLast?.map fun r => (r.status, r.body)

/-- The table gives no bits, so no word spells a command. -/
theorem test_no_word_is_a_command : decodeTableWord 8 5 = none ∧ (up.withFetchWord 8 5 = up) := by decide +kernel

/-! ### Site time (01) -/

/-- R4: in range from 999,000 to 1,001,000, inclusive. -/
theorem test_gate_range_is_inclusive :
    ([998999, 999000, 1001000, 1001001].map fun n => (after (.monitorGateEnd n) up).osc.judgement) =
      [.lost, .good, .good, .lost] := by decide +kernel

/-- R14: the tenth gate in range in a row. -/
theorem test_tenth_good_gate_ends_fault :
    let s := (after (.loInGap .none) up)
    let t := s.setOsc { s.osc with goodRun := 9, gapInGate := false }
    (s.tb.state, (after (.monitorGateEnd 1000000) t).tb.state, (after (.monitorGateEnd 1000000) t).osc.warmup) =
      (.fault, .warmup, some (100000000 + 60 * 1000000000)) := by decide +kernel

/-- R5, R8: nothing is selected at the expiry. -/
theorem test_warmup_ends_in_freerun : (after .warmupExpiry fresh).tb.state = .freerun := by decide +kernel

/-- R17: 5 ms remain before 701, so the step is due at 702; with 10 ms remaining it is due at 701. -/
theorem test_manual_step_due :
    (after (.timeStep 0) (up.asked 18 (beInt 8 (-5)))).tb.pendingStep =
        some { amount := -5, origin := .manual, due := 702 } ∧
      (after (.timeStep 0) ({ up with counter := { sec := 700, ps := 990000000000, frac := 0 } }.asked 18
        (beInt 8 (-5)))).tb.pendingStep = some { amount := -5, origin := .manual, due := 701 } := by decide +kernel

/-- R17: magnitudes up to 10^15 ps. -/
theorem test_manual_step_magnitude :
    ([10 ^ 15, -(10 ^ 15), 10 ^ 15 + 1, 0].map fun a => (replyOf (after (.timeStep 0) (up.asked 18 (beInt 8 a)))).map
      (·.1)) = [some .done, some .done, some .badValue, some .badValue] := by decide +kernel

/-- 01, worked example of an automatic step: 5,013 s + 2,750,000,000 ps, blank to the end of second 5,014. -/
theorem test_step_application :
    (after .counterSecondBoundary stepping).counter = { sec := 5013, ps := 2750000000, frac := 0 } ∧
      (after .counterSecondBoundary stepping).tb.blank =
        some { start := 5013002750000000, length := 1997250000000 } ∧
      (((after .counterSecondBoundary stepping).views[0]).notices.map fun n => (n.kind, n.subject, n.old, n.new)) =
        [(.timeStepped, 0, 5001, 5013)] := by decide +kernel

/-- R20, R21: LEAP_SET, then its effect second. -/
theorem test_leap_takes_effect :
    (after (.leapSet 0) (up.asked 19 leapBody)).tb.leap = some { effect := 1000, offset := 19 } ∧
      (after .counterSecondBoundary ((after (.leapSet 0) (up.asked 19 leapBody)).atSecond 999)).tb.utcOffset = 19 := by
  decide +kernel

/-! ### Reference inputs (02) -/

/-- R29: the label window takes in both its ends, 10 ms and 900 ms after the edge. -/
theorem test_label_window_ends :
    ([9999999999, 10000000000, 900000000000, 900000000001].map fun d =>
      ((after (.taLabelComplete .none 0 [7]) { withBytes with counter := Reading.at (700000000000000 + d) 0 }).ta[0]).stray)
      = [1, 0, 0, 1] := by decide +kernel

/-- R28, R31: widths from 1 µs to 900 ms are in range. -/
theorem test_width_range :
    ([999999, 1000000, 900000000000, 900000000001].map fun w =>
      (up.taCauses up.ta[0] { openPeriod with width := some w }).contains .width) = [true, false, false, true] := by
  decide +kernel

/-- 02, "Worked example: phase on a line clock", period 2. -/
def lineClockAt2 : State :=
  { counting with
    fq := counting.fq.set 0 { counting.fq[0] with
      params := { nominal := 2048000, accept := 4600000 }, count := 2048001, total := 4096001, periods := 1
      origin := some 698000000000000, lastEdge := some 700000000488500, prevCount := some 2048000, phis := [0, 125] } }

theorem test_line_clock_period :
    (((after .counterSecondBoundary lineClockAt2).refs[2]).latest.map fun m => (m.phi, m.freq, m.count, m.causes)) =
      some (some 219, some 109, some 2048001, []) := by decide +kernel

/-- 02, "Worked example: a controller falls silent": the second report, and a shorter interval. -/
theorem test_offset_report_judgement :
    (((after (.offsetReport 0) (steered.asked 32 (beInt 8 (-8100) ++ [0, 4, 7] ++ beBytes 4 95000))).refs[4]).latest.map
        (·.causes)) = some [.quality] ∧
      ((after (.offsetReport 0) (steered.asked 32 (beInt 8 (-7900) ++ [0, 2, 3] ++ beBytes 4 1200000))).ofs[0]).timer =
        some 6000000000 := by decide +kernel

/-- 03, "Worked example: a receiver fault, a switch and a return": second 1,003. -/
theorem test_threshold_takes_record_to_holdoff :
    let s := assisted.setRef 2 { assisted.refs[2] with score := 12, qualifiedSince := some 0 }
    let t := (s.setOsc { s.osc with now := 1003000000000 }).score { lineClock with causes := [.freqWindow] }
    ((t.refs[2]).state, (t.refs[2]).k, (t.refs[2]).holdoff) = (.holdoff, 1, some 1123000000000) := by decide +kernel

/-! ### The discipline loop and holdover (04, 05) -/

/-- 04, "Worked example: one update at class 3". -/
theorem test_update_at_class_3 :
    let t := after (.offsetReport 0) (steered.asked 32 reportAhead)
    (t.loop.integ, t.loop.y, t.tb.steer, t.loop.freqLimit) = (1278720000, 3886, 3886, false) := by decide +kernel

/-- 04, "Worked example: a saturating update and its recovery", update 1. -/
theorem test_saturating_update :
    let s := { acquiring with
      lp := { acquiring.lp with stepPolicy := .never }, loop := { acquiring.loop with integ := 1310720000 } }
    let t := after (.offsetReport 0) (s.asked 32 (beInt 8 2000000000 ++ [0, 1, 3] ++ beBytes 4 1000))
    (t.loop.integ, t.loop.y, t.loop.freqLimit, t.loop.lockRun) = (-655360000000, -10000000, true, 0) := by decide +kernel

/-- R72: a lowered Ymax with y at 3,886 ppt and I at 1,278,720,000. -/
theorem test_lowered_ymax :
    let s := steered.setLoop { steered.loop with y := 3886, integ := 1278720000 }
    let t := after (.loopSet 0) (s.asked 48 ymaxBody)
    (t.loop.y, t.loop.integ, t.loop.freqLimit) = (1000, 65536000, false) := by decide +kernel

/-- 05, "Worked example: entry from a full history". -/
theorem test_holdover_entry :
    (upWithHistory.phaseGone.hold.episode.map fun e => (e.c, e.yH, e.drift, e.sigma, e.te0)) =
      some (4, 2420, 900, 50, 20) ∧ upWithHistory.phaseGone.tb.steer = 2420 := by decide +kernel

/-- 05, "Worked example: the estimate to the HOLD1 and HOLD2 crossing", at m_h of 30. -/
theorem test_holdover_minute_30 :
    held.episodeMinute.tb.steer = 2870 ∧ (held.episodeMinute.hold.episode.map (·.hee)) = some 155 := by decide +kernel

/-- 05, "Worked example: restoring after a power cycle", with its records in one part. -/
theorem test_history_restore :
    let records := [minute 7310 2380, minute 7311 2395, { minute 7313 2470 with disturbed := true }, minute 7314 2401,
      minute 7320 2404]
    let t := after (.historyRestore 0) ((inState .warmup).asked 50 ([0] ++ records.flatMap (·.bytes)))
    (t.hold.history.map (·.index), t.tb.yFree, t.tb.steer) = ([-11, -10, -8, -7, -1], 2395, 2395) := by decide +kernel

/-! ### Emission and drops (06, 07, 10) -/

/-- R108: the follower's instances of one second start at 11.5 ms and are 33. -/
theorem test_follower_dues :
    ((withTrain.entryDues follower 0 1000000000000).length, (withTrain.entryDues follower 0 1000000000000).head?,
      (withTrain.entryDues follower 0 1000000000000).getLast?) = (33, some 11500000000, some 971500000000) := by decide +kernel

/-- R121, R123: a MARK placed by the planning that begins its predecessor, on drop 0. -/
theorem test_planning_places_mark :
    ((after .counterMillisecondBoundary { withTrain with
        counter := { sec := 700, ps := 1000000000 - 1, frac := 0 }
        sched := { withTrain.sched with dropHorizon := Vector.replicate 8 700002000000000 } }).sched.hardPlan.map
      fun h => (h.entry, h.due, h.transmit, h.window)) = [(0, 700002000000000, 700002000000000, 700002)] := by decide +kernel

/-- R123, R132: a MARK released is counted emitted, and its message is on the line: type 1, entry 0. -/
theorem test_mark_release :
    ((after (.hardInstanceRelease 0) marked).entries[0].map (·.emitted)) = some 1 ∧
      (((after (.hardInstanceRelease 0) marked).drops[0]).line.map (·.bytes.take 2)) = some [1, 0] := by decide +kernel

/-- An ECHO message. -/
def echo (turnaround : Nat) (status : Nat) : List Byte :=
  withCheck ([9] ++ beBytes 6 0 ++ beBytes 6 turnaround ++ beBytes 1 status)

/-- 07, "Worked example: calibrating a drop": PROBE 1, then PROBE 2. -/
theorem test_first_echoes :
    let t := after (.dropMessageComplete .none 0 (echo 5000000 0)) calibrating
    let u := t.setDrop 0 { t.drops[0] with turn := (calibrating.drops[0]).turn, arriving := some 700995085010500 }
    let v := after (.dropMessageComplete .none 0 (echo 5000250 0)) u
    ((t.drops[0]).ring, (t.drops[0]).delay, (v.drops[0]).ring, (v.drops[0]).delay) =
      ([80012250], 40007625, [80012250, 80010250], 40006625) := by decide +kernel

/-- 10, "Worked example: three replies to one PROBE turn". -/
def probed : State :=
  calibrating.setDrop 0 { calibrating.drops[0] with state := .serving, failRun := 1, unitStatus := some .ok }

theorem test_three_replies :
    ([echo 5000000 0, echo 5000000 7, withCheck ([9] ++ List.replicate 10 0),
        withCheck ([8] ++ beBytes 8 99 ++ [1, 0])].map fun b =>
      let r := (after (.dropMessageComplete .none 0 b) probed).drops[0]
      (r.failRun, r.failCheck, r.failWrongReply, r.unitStatus)) =
      [(0, 0, 0, some .ok), (2, 1, 0, some .ok), (2, 1, 0, some .ok), (2, 0, 1, some .ok)] := by decide +kernel

/-! ### Alarms, ports and authority (08, 09) -/

/-- 08, "Worked example: the overflow flag at a boundary". -/
theorem test_overflow_at_a_full_queue :
    let n := up.notice .refSwitched 0 0 1
    let v := { up.views[0] with notices := List.replicate 15 n }
    ((v.receive n).notices.length, (v.receive n).overflow, ((v.receive n).receive n).notices.length,
      ((v.receive n).receive n).overflow) = (16, false, 16, true) := by decide +kernel

/-- R156: a judgement of LOST raises record 0 at once, and ALM_CRIT closes. -/
theorem test_oscillator_alarm_is_immediate :
    ((after (.loInGap .none) up).alarms[0]).state = .active ∧ (after (.loInGap .none) up).almCrit = true ∧
      up.almCrit = false := by decide +kernel

/-- R174: bodies of 16, 17, 512 and 513 bytes. -/
theorem test_request_sizes :
    ([16, 17, 512, 513].map fun n =>
      let q := (after (.requestArrival .none 0 16 7 (List.replicate n 0)) pushing).ports[0]
      (q.shortQueue.length, q.longQueue.length, q.overrun)) =
      [(1, 0, false), (0, 1, false), (0, 1, false), (0, 0, true)] := by decide +kernel

/-- 09, "Worked example: queues, replies and segments on one port": a reply of 150 bytes. -/
theorem test_reply_segments :
    let s := up.setPort 0 { up.ports[0] with replies := [{ aReply with body := List.replicate 146 0 }] }
    let t := after (.segmentPulled .none 0) (after (.pull .none 0) s)
    let u := after (.segmentPulled .none 0) (after (.pull .none 0) t)
    let v := after (.segmentPulled .none 0) (after (.pull .none 0) u)
    ([s, t, u].map fun x => ((after (.pull .none 0) x).ports[0].dataOut.drop 8).take 5) =
        [[1, 0, 150, 0, 86], [2, 0, 150, 0, 22], [3, 0, 150, 0, 0]] ∧
      (v.ports[0]).replies = [] := by decide +kernel

/-- R184: CP3 at urgency 2 comes before CP2 at 1; raising to 3 moves CP2 to the head. -/
theorem test_wait_list_order :
    let ask := fun (p : Port) (n : Byte) (s : State) =>
      after (.authTake p) (s.setPort p { s.ports[p] with shortQueue := [request 112 [n]] })
    (ask 3 2 (ask 2 1 up)).waitList = [⟨3, 2⟩, ⟨2, 1⟩] ∧ (ask 2 3 (ask 3 2 (ask 2 1 up))).waitList = [⟨2, 3⟩, ⟨3, 2⟩] := by
  decide +kernel

/-- R189: a byte too many, a byte too few, and a presence bit without a part. -/
theorem test_malformed_bodies :
    ([[1], [1, 0, 0], [7, 0, 0]].map fun b => (replyOf (after (.selectSet 0) (up.asked 35 b))).map (·.1)) =
      [some .malformed, some .malformed, some .malformed] := by decide +kernel

/-- Reads that the statement of their replies is about: one request of each kind waits. -/
theorem witness_ReadsAnswerAndChangeNothing_1 : ∃ r q, (up.asked 16 []).ready 0 16 r q ∧ r.body = [] :=
  ⟨request 16 [], up.ports[0], by decide +kernel⟩
theorem witness_ReadsAnswerAndChangeNothing_2 : ∃ r q, (up.asked 17 []).ready 0 17 r q ∧ r.body = [] :=
  ⟨request 17 [], up.ports[0], by decide +kernel⟩
theorem witness_ReadsAnswerAndChangeNothing_3 :
    ∃ r q, (up.asked 34 [1, 7]).ready 0 34 r q ∧ r.body = [1, BitVec.ofNat 8 (7 : Slot).val] :=
  ⟨request 34 [1, 7], up.ports[0], by decide +kernel⟩
theorem witness_ReadsAnswerAndChangeNothing_4 :
    ∃ r q, (up.asked 49 [1, 0, 0, 0, 64]).ready 0 49 r q ∧ r.body = 1 :: beBytes 4 64 :=
  ⟨request 49 [1, 0, 0, 0, 64], up.ports[0], by decide +kernel⟩
theorem witness_ReadsAnswerAndChangeNothing_5 :
    ∃ r q, (up.asked 70 [1, 63]).ready 0 70 r q ∧ r.body = [1, BitVec.ofNat 8 (63 : EntryIx).val] :=
  ⟨request 70 [1, 63], up.ports[0], by decide +kernel⟩
theorem witness_ReadsAnswerAndChangeNothing_6 :
    ∃ r q, (up.asked 82 [1, 7]).ready 0 82 r q ∧ r.body = [1, BitVec.ofNat 8 (7 : DropIx).val] :=
  ⟨request 82 [1, 7], up.ports[0], by decide +kernel⟩
theorem witness_ReadsAnswerAndChangeNothing_7 : ∃ r q, (up.asked 97 [0]).ready 0 97 r q ∧ r.body = [0] :=
  ⟨request 97 [0], up.ports[0], by decide +kernel⟩

/-! ### For each statement with hypotheses, a state and operands that meet them together -/

theorem witness_StepRunsFrontCommand_1 : ∃ (c : Instr) (rest : List Instr) (s : State), s.pending = c :: rest :=
  ⟨.timeRead 0, [], up.setPending [.timeRead 0], by decide +kernel⟩

theorem witness_StepRunsFrontCommand_2 : ∃ s : State, s.pending = [] :=
  ⟨up, by decide +kernel⟩

theorem witness_CommandsChangeOnlyTheirParts_1 : ∃ (c : Instr) (s t : State), exec c s = .next t :=
  ⟨.pulseEnd 0, up, _, rfl⟩

theorem witness_CommandsChangeOnlyTheirParts_2 : ∃ (c : Instr) (s t : State), exec c s = .next t :=
  ⟨.timeRead 0, up, _, rfl⟩

theorem witness_SteerAndCounterStayInRange_1 : ∃ s t : State, s.steerBounded ∧ step s = .next t :=
  ⟨(fresh.setPending [.counterSecondBoundary]), _, by unfold State.steerBounded within; decide +kernel, rfl⟩

theorem witness_SteerAndCounterStayInRange_2 : ∃ s t : State, s.counterInRange ∧ step s = .next t :=
  ⟨(fresh.setPending [.counterSecondBoundary]), _, by unfold State.counterInRange; decide +kernel, rfl⟩

theorem witness_HistoryStaysOrdered : ∃ s t : State, s.historyOrdered ∧ step s = .next t :=
  ⟨(upWithHistory.setPending [.counterSecondBoundary]), _, by unfold State.historyOrdered indicesRise; decide +kernel,
    rfl⟩

theorem witness_CountsStayInRange : ∃ s t : State, s.countsInRange ∧ step s = .next t :=
  ⟨(fresh.setPending [.counterSecondBoundary]), _,
    by unfold State.countsInRange Scheduler.spentInBudget; decide +kernel, rfl⟩

theorem witness_DelaysStayFormed : ∃ s t : State, s.delaysFormed ∧ step s = .next t :=
  ⟨(fresh.setPending [.counterSecondBoundary]), _, by unfold State.delaysFormed; decide +kernel, rfl⟩

theorem witness_EmissionTableStaysSound : ∃ s t : State, s.tableSound ∧ step s = .next t :=
  ⟨(withTrain.setPending [.counterSecondBoundary]), _, withTrain_sound, rfl⟩

theorem witness_QueuesAndWaitListStaySound_1 : ∃ s t : State, s.queuesBounded ∧ step s = .next t :=
  ⟨(fresh.setPending [.counterSecondBoundary]), _,
    by unfold State.queuesBounded PortRec.queuesBounded; decide +kernel, rfl⟩

theorem witness_QueuesAndWaitListStaySound_2 : ∃ s t : State, s.queuesBounded ∧ s.waitListSound ∧ step s = .next t :=
  ⟨(waiting.setPending [.counterSecondBoundary]), _,
    by unfold State.queuesBounded PortRec.queuesBounded; decide +kernel,
    by unfold State.waitListSound; decide +kernel, rfl⟩

theorem witness_AlarmsFollowConditions : ∃ s t : State, s.alarmsFollow ∧ step s = .next t :=
  ⟨(fresh.setPending [.counterSecondBoundary]), _, by unfold State.alarmsFollow AlarmRec.agrees; decide +kernel, rfl⟩

theorem witness_CyclesGainSteeredTime_1 : ∃ (s : State) (rest : Nat), s.pending = [] ∧ s.dueCommand = none ∧ rest =
  min (Config.monitorNanos s.loCycles) 10000 - s.osc.quiet :=
  ⟨fresh, min (Config.monitorNanos 0) 10000, by decide +kernel, by decide +kernel, rfl⟩

theorem witness_CyclesGainSteeredTime_2 : ∃ s : State, s.pending = [] ∧ s.osc.gateEnd ≤ s.osc.now :=
  ⟨{ fresh with osc := { fresh.osc with now := fresh.osc.gateEnd } }, by decide +kernel⟩

theorem witness_CyclesGainSteeredTime_3 : ∃ s : State, s.tb.state ≠ .fault ∧ s.counterInRange ∧ 0 ≤ 1000000000000 +
  s.tb.steer :=
  ⟨up, by decide +kernel, by unfold State.counterInRange; decide +kernel, by decide +kernel⟩

theorem witness_SecondBoundaryReachesNextSecond_1 : ∃ (s : State) (next : Nat), next = (((s.counter.sec : Int) + 1 -
  s.secondOwed) % 2 ^ 48).toNat ∧ s.tb.state ≠ .fault ∧ ((∀ i : InputIx, (s.fq[i]).lastEdge = none)) ∧ (∀ p ∈
  s.tb.pendingStep, p.due ≠ next) ∧ s.secondOwed = 0 :=
  ⟨up, 701,
    by and_intros <;> decide +kernel⟩

theorem witness_SecondBoundaryReachesNextSecond_1_at_a_minute : ∃ (s : State) (next : Nat), next = (((s.counter.sec :
  Int) + 1 - s.secondOwed) % 2 ^ 48).toNat ∧ s.tb.state ≠ .fault ∧ ((∀ i : InputIx, (s.fq[i]).lastEdge = none)) ∧ (∀ p
  ∈ s.tb.pendingStep, p.due ≠ next) ∧ next % 60 = 0 :=
  ⟨(up.atSecond 719), 720,
    by and_intros <;> decide +kernel⟩

theorem witness_SecondBoundaryReachesNextSecond_1_owed : ∃ (s : State) (next : Nat), next = (((s.counter.sec : Int) +
  1 - s.secondOwed) % 2 ^ 48).toNat ∧ s.tb.state ≠ .fault ∧ ((∀ i : InputIx, (s.fq[i]).lastEdge = none)) ∧ (∀ p ∈
  s.tb.pendingStep, p.due ≠ next) ∧ s.secondOwed = 2 :=
  ⟨{ up with secondOwed := 2 }, 699,
    by and_intros <;> decide +kernel⟩

theorem witness_SecondBoundaryReachesNextSecond_2 : ∃ (s : State) (next period offset : Nat) (start stop : Option Nat)
  (a : EntryIx) (e : Entry), next = (((s.counter.sec : Int) + 1 - s.secondOwed) % 2 ^ 48).toNat ∧ s.tb.state ≠ .fault
  ∧ ((∀ i : InputIx, (s.fq[i]).lastEdge = none)) ∧ (∀ p ∈ s.tb.pendingStep, p.due ≠ next) ∧ s.entries[a] = some e ∧
  e.fields.link = .anchor period offset start stop ∧ (e.state = .waiting ∨ e.state = .running) ∧ (∀ b : EntryIx, b ≠ a
  → ∀ x, s.entries[b] = some x → x.liveAnchor.isNone = true) :=
  ⟨endingTrain, 701, 10000, 2000000, none, some 701, 0, endingAnchor,
    by and_intros <;> decide +kernel⟩

theorem witness_MinuteBoundaryMakesRecord : ∃ (s : State) (next : Nat), next = (((s.counter.sec : Int) + 1 -
  s.secondOwed) % 2 ^ 48).toNat ∧ next % 60 = 0 ∧ s.tb.state ≠ .fault ∧ ((∀ i : InputIx, (s.fq[i]).lastEdge = none)) ∧
  (∀ p ∈ s.tb.pendingStep, p.due ≠ next) :=
  ⟨(up.atSecond 719), 720,
    by and_intros <;> decide +kernel⟩

theorem witness_StepIsAppliedAtItsSecond : ∃ (s : State) (next land : Nat) (p : PendingStep), next = (((s.counter.sec
  : Int) + 1 - s.secondOwed) % 2 ^ 48).toNat ∧ land = (((next * 1000000000000 : Nat) + p.amount) % ((2 ^ 48 *
  1000000000000 : Nat) : Int)).toNat ∧ next % 60 ≠ 0 ∧ s.tb.state ≠ .fault ∧ ((∀ i : InputIx, (s.fq[i]).lastEdge =
  none)) ∧ s.tb.pendingStep = some p ∧ p.due = next :=
  ⟨stepping, 5001, 5013002750000000, foldedStep, by decide +kernel⟩

theorem witness_StepIsAppliedAtItsSecond_owed : ∃ (s : State) (next land : Nat) (p : PendingStep), next =
  (((s.counter.sec : Int) + 1 - s.secondOwed) % 2 ^ 48).toNat ∧ land = (((next * 1000000000000 : Nat) + p.amount) %
  ((2 ^ 48 * 1000000000000 : Nat) : Int)).toNat ∧ next % 60 ≠ 0 ∧ s.tb.state ≠ .fault ∧ ((∀ i : InputIx,
  (s.fq[i]).lastEdge = none)) ∧ s.tb.pendingStep = some p ∧ p.due = next ∧ s.secondOwed = 2 :=
  ⟨{ stepping with counter := { sec := 5002, ps := 5, frac := 0 }, secondOwed := 2 }, 5001, 5013002750000000,
    foldedStep, by decide +kernel⟩

theorem witness_MillisecondBoundaryPlansWindow : ∃ (s : State) (b : Nat), s.tb.state ≠ .fault ∧ s.counterInRange ∧ b =
  (((s.counter.instant / 1000000000 : Nat) + 1 - s.msOwed.boundaries : Int) * 1000000000 % (2 ^ 48 *
  1000000000000)).toNat :=
  ⟨up, 700996000000000, by decide +kernel, by unfold State.counterInRange; decide +kernel, by decide +kernel⟩

theorem witness_MillisecondBoundaryPlansWindow_owed : ∃ (s : State) (b : Nat), s.tb.state ≠ .fault ∧ s.counterInRange
  ∧ b = (((s.counter.instant / 1000000000 : Nat) + 1 - s.msOwed.boundaries : Int) * 1000000000 % (2 ^ 48 *
  1000000000000)).toNat ∧ 0 < s.msOwed.planned :=
  ⟨{ up with msOwed := { boundaries := 3, planned := 1 } }, 700993000000000, by decide +kernel,
    by unfold State.counterInRange; decide +kernel, by decide +kernel⟩

theorem witness_WindowBudgetHolds_1 : ∃ (s : State) (ahead : Nat) (spent : Budget), spent.units ≤ 24 ∧ (∀ d : DropIx,
  spent.items[d] ≤ 4) :=
  ⟨withTrain, 1, { units := 3, items := Vector.replicate 8 1 }, by decide +kernel⟩

theorem witness_WindowBudgetHolds_2_placed : ∃ (p : Planning) (g : Gathered) (level : Grade), level = (match g.fields.squelch, g.fields.target with
    | some x, _ => x
    | none, .drop d => (p.s.profiles[(p.s.drops[d]).profile]).squelch
    | none, .px _ => .hold4) ∧ p.s.suppressed p.start g = false ∧
  p.budget.units < 24 :=
  ⟨aPlanning, aGathered, .hold3, by decide +kernel⟩

theorem witness_WindowBudgetHolds_2_skipped : ∃ (p : Planning) (g : Gathered) (level : Grade), level = (match g.fields.squelch, g.fields.target with
    | some x, _ => x
    | none, .drop d => (p.s.profiles[(p.s.drops[d]).profile]).squelch
    | none, .px _ => .hold4) ∧ p.s.suppressed p.start g = false ∧ 24 ≤
  p.budget.units :=
  ⟨{ aPlanning with budget := { units := 24, items := Vector.replicate 8 0 } }, aGathered, .hold3, by decide +kernel⟩

theorem witness_WindowBudgetHolds_2_suppressed : ∃ (p : Planning) (g : Gathered) (level : Grade), level = (match g.fields.squelch, g.fields.target with
    | some x, _ => x
    | none, .drop d => (p.s.profiles[(p.s.drops[d]).profile]).squelch
    | none, .px _ => .hold4) ∧ p.s.suppressed p.start g = true :=
  ⟨{ aPlanning with s := aPlanning.s.setTb { aPlanning.s.tb with state := .warmup } }, aGathered, .hold3,
    by decide +kernel⟩

theorem witness_GapTakesPartToFault_1 : ∃ (e : Elapsed) (s : State), s.osc.judgement = .good ∧ s.tb.state ≠ .fault :=
  ⟨Elapsed.none, up, by decide +kernel⟩

theorem witness_GapTakesPartToFault_2 : ∃ (e : Elapsed) (s : State), s.osc.judgement = .lost :=
  ⟨Elapsed.none, up.setOsc { up.osc with judgement := .lost }, by decide +kernel⟩

theorem witness_WarmupExpiryFollowsSelection : ∃ (s : State) (d : Nat), s.tb.state = .warmup ∧ s.osc.warmup = some d
  :=
  ⟨State.reset, 60000000000, by decide +kernel⟩

theorem witness_ReportSteersLockedLoop : ∃ (p : Port) (s : State) (r : Request) (q : PortRec) (v : OffsetReportParts)
  (u integ raw y : Int), s.ready p 32 r q ∧ parseOffsetReport r.body = some v ∧ v.bad = false ∧ v.noise ≤
  (s.ofs[p]).params.noiseLimit ∧ v.quality ≤ (s.ofs[p]).params.minQuality ∧ (s.refs[Slot.ofPort p]).enabled = true ∧
  (s.refs[Slot.ofPort p]).state = .qualified ∧ s.sel.force = some (Slot.ofPort p) ∧ s.sel.phase = some (Slot.ofPort p)
  ∧ s.tb.state = .locked ∧ s.tb.force = false ∧ s.tb.pendingStep = none ∧ s.loop.cls ≤ 6 ∧ u = -v.e ∧ integ = max
  (-(s.lp.yMax * 65536)) (min (s.lp.yMax * 65536) (s.loop.integ + u * [8192, 2048, 512, 128, 32, 8, 2].getD s.loop.cls
  0)) ∧ raw = integ / 65536 + u * [32768, 16384, 8192, 4096, 2048, 1024, 512].getD s.loop.cls 0 / 65536 ∧ y = max
  (-s.lp.yMax) (min s.lp.yMax raw) :=
  ⟨0, (steered.asked 32 reportAhead), (request 32 reportAhead), steered.ports[0], partsAhead, -250000, 1278720000,
    3886, 3886, by decide +kernel⟩

theorem witness_ReportAcquiresWithLoop_asking : ∃ (p : Port) (s : State) (r : Request) (q : PortRec) (v :
  OffsetReportParts) (u integ raw y : Int) (asked : Prop), s.counterInRange ∧ s.ready p 32 r q ∧ parseOffsetReport
  r.body = some v ∧ v.bad = false ∧ v.whole = 0 ∧ v.noise ≤ (s.ofs[p]).params.noiseLimit ∧ v.quality ≤
  (s.ofs[p]).params.minQuality ∧ (s.refs[Slot.ofPort p]).enabled = true ∧ (s.refs[Slot.ofPort p]).state = .qualified ∧
  s.sel.force = some (Slot.ofPort p) ∧ s.sel.phase = some (Slot.ofPort p) ∧ s.tb.state = .acquiring ∧ s.tb.force =
  false ∧ s.tb.pendingStep = none ∧ s.loop.cls ≤ 6 ∧ u = -v.e ∧ integ = max (-(s.lp.yMax * 65536)) (min (s.lp.yMax *
  65536) (s.loop.integ + u * [8192, 2048, 512, 128, 32, 8, 2].getD s.loop.cls 0)) ∧ raw = integ / 65536 + u * [32768,
  16384, 8192, 4096, 2048, 1024, 512].getD s.loop.cls 0 / 65536 ∧ y = max (-s.lp.yMax) (min s.lp.yMax raw) ∧ ((asked ↔
  s.lp.stepThreshold < u.natAbs ∧ (s.lp.stepPolicy = .always ∨ s.lp.stepPolicy = .firstOnly ∧ s.loop.firstAcq =
  true))) :=
  ⟨0, (acquiring.asked 32 reportBehind), (request 32 reportBehind), acquiring.ports[0], partsBehind, 2750000000,
    655360000000, 1385000000, 10000000, True, by unfold State.counterInRange; decide +kernel⟩

theorem witness_ReportAcquiresWithLoop_updating : ∃ (p : Port) (s : State) (r : Request) (q : PortRec) (v :
  OffsetReportParts) (u integ raw y : Int) (asked : Prop), s.counterInRange ∧ s.ready p 32 r q ∧ parseOffsetReport
  r.body = some v ∧ v.bad = false ∧ v.whole = 0 ∧ v.noise ≤ (s.ofs[p]).params.noiseLimit ∧ v.quality ≤
  (s.ofs[p]).params.minQuality ∧ (s.refs[Slot.ofPort p]).enabled = true ∧ (s.refs[Slot.ofPort p]).state = .qualified ∧
  s.sel.force = some (Slot.ofPort p) ∧ s.sel.phase = some (Slot.ofPort p) ∧ s.tb.state = .acquiring ∧ s.tb.force =
  false ∧ s.tb.pendingStep = none ∧ s.loop.cls ≤ 6 ∧ u = -v.e ∧ integ = max (-(s.lp.yMax * 65536)) (min (s.lp.yMax *
  65536) (s.loop.integ + u * [8192, 2048, 512, 128, 32, 8, 2].getD s.loop.cls 0)) ∧ raw = integ / 65536 + u * [32768,
  16384, 8192, 4096, 2048, 1024, 512].getD s.loop.cls 0 / 65536 ∧ y = max (-s.lp.yMax) (min s.lp.yMax raw) ∧ ((asked ↔
  s.lp.stepThreshold < u.natAbs ∧ (s.lp.stepPolicy = .always ∨ s.lp.stepPolicy = .firstOnly ∧ s.loop.firstAcq =
  true))) :=
  ⟨0, (acquiring.asked 32 reportAhead), (request 32 reportAhead), acquiring.ports[0], partsAhead, -250000,
    -2048000000, -156250, -156250, False, by unfold State.counterInRange; decide +kernel⟩

theorem witness_FrequencyInputIsMeasuredAndSteers_1 : ∃ (s : State) (m : Measurement) (phi : Int), s.sel.phase ≠ some
  m.slot ∧ s.sel.assist = some m.slot ∧ m.phi = some phi :=
  ⟨assisted, lineClock, 5, by decide +kernel⟩

theorem witness_FrequencyInputIsMeasuredAndSteers_2 : ∃ (i j : InputIx) (s : State) (x : FqInput) (last next : Nat), i
  ≠ j ∧ x = s.fq[i] ∧ x.lastEdge = some last ∧ (s.fq[j]).lastEdge = none ∧ (s.refs[Slot.ofFq i]).enabled = true ∧
  s.tb.state ≠ .fault ∧ next = (((s.counter.sec : Int) + 1 - s.secondOwed) % 2 ^ 48).toNat ∧ next % 60 ≠ 0 ∧ (∀ p ∈
  s.tb.pendingStep, p.due ≠ next) :=
  ⟨0, 1, counting, counting.fq[0], 700900000000000, 701,
    by and_intros <;> decide +kernel⟩

theorem witness_OffsetReportIsMeasured : ∃ (p : Port) (s : State) (r : Request) (q : PortRec) (v : OffsetReportParts)
  (c : List Cause), s.ready p 32 r q ∧ parseOffsetReport r.body = some v ∧ v.bad = false ∧ (s.refs[Slot.ofPort
  p]).enabled = true ∧ (s.refs[Slot.ofPort p]).state ≠ .disabled ∧ ((s.ofs[p]).active = false ∨ (s.refs[Slot.ofPort
  p]).state ≠ .absent) ∧ c = (if (s.ofs[p]).params.noiseLimit < v.noise then [Cause.noise] else []) ++ (if
  (s.ofs[p]).params.minQuality < v.quality then [Cause.quality] else []) :=
  ⟨0, (steered.asked 32 reportAhead), (request 32 reportAhead), steered.ports[0], partsAhead, [], by decide +kernel⟩

theorem witness_OffsetReportIsMeasured_noisy : ∃ (p : Port) (s : State) (r : Request) (q : PortRec) (v :
  OffsetReportParts) (c : List Cause), s.ready p 32 r q ∧ parseOffsetReport r.body = some v ∧ v.bad = false ∧
  (s.refs[Slot.ofPort p]).enabled = true ∧ (s.refs[Slot.ofPort p]).state ≠ .disabled ∧ ((s.ofs[p]).active = false ∨
  (s.refs[Slot.ofPort p]).state ≠ .absent) ∧ c = (if (s.ofs[p]).params.noiseLimit < v.noise then [Cause.noise] else
  []) ++ (if (s.ofs[p]).params.minQuality < v.quality then [Cause.quality] else []) :=
  ⟨0, (steered.asked 32 reportNoisy), (request 32 reportNoisy), steered.ports[0], partsNoisy, [.noise, .quality],
    by decide +kernel⟩

theorem witness_TaEdgesGivePeriodAndWidth_1 : ∃ (e : Elapsed) (i : InputIx) (s u : State), u = s.pass e :=
  ⟨Elapsed.none, 0, withPeriod, withPeriod.pass Elapsed.none, rfl⟩

theorem witness_TaEdgesGivePeriodAndWidth_2 : ∃ (e : Elapsed) (i : InputIx) (s u : State), u = s.pass e :=
  ⟨Elapsed.none, 0, withPeriod, withPeriod.pass Elapsed.none, rfl⟩

theorem witness_LabelsAreReceived_1 : ∃ (e : Elapsed) (i : InputIx) (s : State), (s.refs[Slot.ofTa i]).enabled = true
  ∧ (s.ta[i]).rx = none ∧ (s.ta[i]).rxDeadline = none :=
  ⟨Elapsed.none, 0, withPeriod, by decide +kernel⟩

theorem witness_LabelsAreReceived_2 : ∃ (e : Elapsed) (i : InputIx) (s u : State) (held : List Byte) (b : Byte) (d :
  Nat), u = s.pass e ∧ (s.refs[Slot.ofTa i]).enabled = true ∧ (s.ta[i]).rx = some held ∧ held.length = 18 ∧
  (s.ta[i]).rxDeadline = some d ∧ u.osc.now ≤ d :=
  ⟨Elapsed.none, 0, withBytes, withBytes.pass Elapsed.none, List.replicate 18 0, 7, 2000000, by decide +kernel⟩

theorem witness_LabelsAreReceived_4 : ∃ (i : InputIx) (s : State) (d : Nat), (s.ta[i]).rxDeadline = some d :=
  ⟨0, withBytes, 2000000, by decide +kernel⟩

theorem witness_LabelsAreReceived_5 : ∃ l : TaLabel, l.sec < 2 ^ 48 ∧ l.quality ≤ 15 ∧ -32768 ≤ l.utc ∧ l.utc ≤ 32767
  ∧ l.leapSec < 2 ^ 48 :=
  ⟨{ sec := 2 ^ 48 - 1, status := .tracking, quality := 15, utc := -32768, leap := .none, leapSec := 0 },
    by decide +kernel⟩

theorem witness_TaPeriodIsJudgedAtItsWindow_4 : ∃ (i : InputIx) (s : State) (x : TaPeriod), (s.ta[i]).period = some x
  ∧ x.judged = false ∧ (s.refs[Slot.ofTa i]).enabled = true :=
  ⟨0, withPeriod, openPeriod, by decide +kernel⟩

theorem witness_TaPeriodIsJudgedAtItsWindow_5 : ∃ (i : InputIx) (s : State) (x : TaPeriod), (s.ta[i]).period = some x
  ∧ x.judged = true :=
  ⟨0, withPeriod.setTa 0 { withPeriod.ta[0] with period := some { openPeriod with judged := true } },
    { openPeriod with judged := true }, by decide +kernel⟩

theorem witness_ActivityTimeoutTakesRecordToAbsent_ta : ∃ (s : State) (d : Nat) (c : Instr) (slot : Slot), (((∃ i, c =
  .taActivityTimeout i ∧ slot = Slot.ofTa i ∧ (s.ta[i]).timer = some d ∧ (s.ta[i]).active = true) ∨ (∃ i, c =
  .fqActivityTimeout i ∧ slot = Slot.ofFq i ∧ (s.fq[i]).timer = some d ∧ (s.fq[i]).active = true) ∨ ∃ p, c =
  .ofActivityTimeout p ∧ slot = Slot.ofPort p ∧ (s.ofs[p]).timer = some d ∧ (s.ofs[p]).active = true)) :=
  ⟨withPeriod, 3000000000, .taActivityTimeout 0, 0, Or.inl ⟨0, by decide +kernel⟩⟩

theorem witness_ActivityTimeoutTakesRecordToAbsent_fq : ∃ (s : State) (d : Nat) (c : Instr) (slot : Slot), (((∃ i, c =
  .taActivityTimeout i ∧ slot = Slot.ofTa i ∧ (s.ta[i]).timer = some d ∧ (s.ta[i]).active = true) ∨ (∃ i, c =
  .fqActivityTimeout i ∧ slot = Slot.ofFq i ∧ (s.fq[i]).timer = some d ∧ (s.fq[i]).active = true) ∨ ∃ p, c =
  .ofActivityTimeout p ∧ slot = Slot.ofPort p ∧ (s.ofs[p]).timer = some d ∧ (s.ofs[p]).active = true)) :=
  ⟨counting, 1000000000, .fqActivityTimeout 0, 2, Or.inr (Or.inl ⟨0, by decide +kernel⟩)⟩

theorem witness_ActivityTimeoutTakesRecordToAbsent_of : ∃ (s : State) (d : Nat) (c : Instr) (slot : Slot), (((∃ i, c =
  .taActivityTimeout i ∧ slot = Slot.ofTa i ∧ (s.ta[i]).timer = some d ∧ (s.ta[i]).active = true) ∨ (∃ i, c =
  .fqActivityTimeout i ∧ slot = Slot.ofFq i ∧ (s.fq[i]).timer = some d ∧ (s.fq[i]).active = true) ∨ ∃ p, c =
  .ofActivityTimeout p ∧ slot = Slot.ofPort p ∧ (s.ofs[p]).timer = some d ∧ (s.ofs[p]).active = true)) :=
  ⟨steered, 9000000000, .ofActivityTimeout 0, 4, Or.inr (Or.inr ⟨0, by decide +kernel⟩)⟩

theorem witness_FqEdgesAreCounted : ∃ (e : Elapsed) (i : InputIx) (n : Nat) (s u : State), u = s.pass e ∧ 0 < n :=
  ⟨Elapsed.none, 0, 1, counting, counting.pass Elapsed.none, rfl, by decide +kernel⟩

theorem witness_MeasurementMovesScore : ∃ (s : State) (m : Measurement) (r : RefRecord), r = s.refs[m.slot] ∧ r.score
  ≤ 32 :=
  ⟨assisted, lineClock, assisted.refs[2], by decide +kernel⟩

theorem witness_RecordTimersRunOut_1 : ∃ (i : Slot) (s : State) (d : Nat), (s.refs[i]).state = .holdoff ∧
  (s.refs[i]).holdoff = some d :=
  ⟨0, (up.setRef 0 { up.refs[0] with state := .holdoff, holdoff := some 5 }), 5, by decide +kernel⟩

theorem witness_RecordTimersRunOut_2 : ∃ (i : Slot) (s : State) (d : Nat), (s.refs[i]).qualifiedSince = some d :=
  ⟨0, (up.setRef 0 { up.refs[0] with state := .qualified, qualifiedSince := some 5 }), 5, by decide +kernel⟩

theorem witness_RecordTimersRunOut_3 : ∃ (i p : Slot) (s : State) (d : Nat), s.sel.mode = .revertive ∧ s.sel.force =
  none ∧ s.sel.phase = some p ∧ s.phaseCandidate p = true ∧ s.phaseCandidate i = true ∧ (s.refs[i]).candidateSince =
  some d ∧ i ≠ p ∧ (∀ j : Slot, s.phaseCandidate j = true → j ≠ i → s.ranksBefore i j = true) :=
  ⟨1, 0, twoCandidates, 5, by decide +kernel⟩

theorem witness_TrainDuesFollowPeriodAndDivider_1 : ∃ (period offset : Nat) (start stop : Option Nat) (lo hi : Int) (d
  : Due), 0 < period ∧ period < 1000000 ∧ 1000000 % period = 0 ∧ offset < period * 1000 :=
  ⟨10000, 2000000, none, some 2, 0, 1000000000000, { at_ := 12000000000, number := 1 }, by decide +kernel⟩

theorem witness_TrainDuesFollowPeriodAndDivider_2 : ∃ (m offset : Nat) (start stop : Option Nat) (lo hi : Int) (d :
  Due), 1 ≤ m ∧ m ≤ 16 :=
  ⟨16, 0, some 1, none, 0, 1000000000000, { at_ := 0, number := 0 }, by decide +kernel⟩

theorem witness_TrainDuesFollowPeriodAndDivider_3 : ∃ (s : State) (e anchor : Entry) (a : EntryIx) (rel lo hi at_ :
  Int) (divider phase period offset : Nat) (start stop : Option Nat), e.fields.link = .relative a rel divider phase ∧
  s.entries[a] = some anchor ∧ anchor.fields.link = .anchor period offset start stop :=
  ⟨withTrain, follower, trainAnchor, 0, -500000, 0, 1000000000000, 11500000000, 3, 1, 10000, 2000000, none, none,
    by decide +kernel⟩

theorem witness_HardItemsAndPulsesAreReleased_1_emitting : ∃ (n : EntryIx) (s v : State) (x : Entry) (before after :
  List HardItem) (h : HardItem), s.sched.hardPlan = before ++ h :: after ∧ h.entry = n ∧ (∀ y ∈ before, y.entry ≠ n) ∧
  s.entries[n] = some x ∧ v = ((s.setSched { s.sched with hardPlan := before ++ after }).reachInstant
  h.transmit).settleTarget h.target ∧ s.tb.state = .locked ∧ v.drops[0].turn = .isIn ∧ v.drops[0].lineActive = false
  :=
  ⟨0, marked, (((marked.setSched { marked.sched with hardPlan := [] }).reachInstant aMark.transmit).settleTarget
    aMark.target), trainAnchor, [], [], aMark,
    by and_intros <;> first | rfl | decide +kernel⟩

theorem witness_HardItemsAndPulsesAreReleased_1_turn_out : ∃ (n : EntryIx) (s v : State) (x : Entry) (before after :
  List HardItem) (h : HardItem), s.sched.hardPlan = before ++ h :: after ∧ h.entry = n ∧ (∀ y ∈ before, y.entry ≠ n) ∧
  s.entries[n] = some x ∧ v = ((s.setSched { s.sched with hardPlan := before ++ after }).reachInstant
  h.transmit).settleTarget h.target ∧ h.target = .drop 0 ∧ v.drops[0].turn ≠ .isIn :=
  ⟨0, turnedOut, (((turnedOut.setSched { turnedOut.sched with hardPlan := [] }).reachInstant
    aMark.transmit).settleTarget aMark.target), trainAnchor, [], [], aMark,
    by and_intros <;> first | rfl | decide +kernel⟩

theorem witness_HardItemsAndPulsesAreReleased_1_pulse : ∃ (n : EntryIx) (s v : State) (x : Entry) (before after : List
  HardItem) (h : HardItem), s.sched.hardPlan = before ++ h :: after ∧ h.entry = n ∧ (∀ y ∈ before, y.entry ≠ n) ∧
  s.entries[n] = some x ∧ v = ((s.setSched { s.sched with hardPlan := before ++ after }).reachInstant
  h.transmit).settleTarget h.target ∧ h.target = .px 2 :=
  ⟨0, pulsing, (((pulsing.setSched { pulsing.sched with hardPlan := [] }).reachInstant aPulse.transmit).settleTarget
    aPulse.target), trainAnchor, [], [], aPulse,
    by and_intros <;> first | rfl | decide +kernel⟩

theorem witness_HardItemsAndPulsesAreReleased_2 : ∃ (x : Px) (s : State) (u : Nat), (s.px[x]).until_ = some u :=
  ⟨0, (up.setPx 0 { up.px[0] with until_ := some 5 }), 5, by decide +kernel⟩

theorem witness_HardItemsAndPulsesAreReleased_3 : ∃ (s : State) (d : Nat), s.sched.overrunHold = some d :=
  ⟨(up.setSched { up.sched with overrunHold := some 5 }), 5, by decide +kernel⟩

theorem witness_SoftItemIsReleased_1 : ∃ (d : DropIx) (s : State) (x : SoftItem) (before after : List SoftItem) (r :
  DropRec) (p : Profile), s.sched.softPlan = before ++ x :: after ∧ x.drop = d ∧ (∀ y ∈ before, y.drop ≠ d) ∧ r =
  s.drops[d] ∧ p = s.profiles[r.profile] ∧ r.line = none ∧ r.turn = .isIn ∧ r.lineActive = false :=
  ⟨0, probing, aProbe, [], [], probing.drops[0], probing.profiles[0], by decide +kernel⟩

theorem witness_SoftItemIsReleased_2_line_active : ∃ (d : DropIx) (s : State) (x : SoftItem) (before after : List
  SoftItem) (r : DropRec), s.sched.softPlan = before ++ x :: after ∧ x.drop = d ∧ (∀ y ∈ before, y.drop ≠ d) ∧ r =
  s.drops[d] ∧ r.line = none ∧ ((r.turn = .isIn ∧ r.lineActive = true ∨ ∃ start w limit t1 maxRtt, r.turn = .out start
  w limit t1 maxRtt ∧ elapsed start (s.reachInstant x.transmit).counter.instant ≤ limit)) :=
  ⟨0, (probing.setDrop 0 { probing.drops[0] with lineActive := true }), aProbe, [], [], (probing.setDrop 0
    { probing.drops[0] with lineActive := true }).drops[0],
    by and_intros <;> first | decide +kernel | exact Or.inl (by decide +kernel)⟩

theorem witness_SoftItemIsReleased_2_turn_out : ∃ (d : DropIx) (s : State) (x : SoftItem) (before after : List
  SoftItem) (r : DropRec), s.sched.softPlan = before ++ x :: after ∧ x.drop = d ∧ (∀ y ∈ before, y.drop ≠ d) ∧ r =
  s.drops[d] ∧ r.line = none ∧ ((r.turn = .isIn ∧ r.lineActive = true ∨ ∃ start w limit t1 maxRtt, r.turn = .out start
  w limit t1 maxRtt ∧ elapsed start (s.reachInstant x.transmit).counter.instant ≤ limit)) :=
  ⟨0, probingOut, aProbe, [], [], probingOut.drops[0],
    by and_intros <;> first | decide +kernel | exact Or.inr ⟨700995900000000, .probe, 2000000000, 700995900000000, 200000000, by decide +kernel⟩⟩

theorem witness_TurnGoesOutAndComesBack_1 : ∃ (d : DropIx) (s : State) (m : LineMessage) (a b : Option Nat) (c :
  Option Reading) (n : Nat) (w : TurnMessage), (s.drops[d]).line = some m ∧ ((m.kind = .probe c a n ∧ w = .probe) ∨
  (m.kind = .offer b n ∧ w = .offer)) :=
  ⟨0, sending, aLine, none, none, none, 0, .probe, by decide +kernel⟩

theorem witness_TurnGoesOutAndComesBack_1_offer : ∃ (d : DropIx) (s : State) (m : LineMessage) (a b : Option Nat) (c :
  Option Reading) (n : Nat) (w : TurnMessage), (s.drops[d]).line = some m ∧ ((m.kind = .probe c a n ∧ w = .probe) ∨
  (m.kind = .offer b n ∧ w = .offer)) :=
  ⟨0, (onLine (.offer none 0)), { aLine with kind := .offer none 0, start := 700994999990000 }, none, none, none, 0,
    .offer, by decide +kernel⟩

theorem witness_TurnGoesOutAndComesBack_2 : ∃ (d : DropIx) (s : State) (start limit t1 : Nat) (w : TurnMessage)
  (maxRtt : Int) (r : DropRec), r = s.drops[d] ∧ r.turn = .out start w limit t1 maxRtt ∧ r.line = none :=
  ⟨0, calibrating, 700995000000000, 2000000000, 700995000000000, .probe, 200000000, calibrating.drops[0],
    by decide +kernel⟩

theorem witness_UnitActivityIsTakenByTurn_1 : ∃ (e : Elapsed) (d : DropIx) (s : State) (r : DropRec) (c : Instr), r =
  s.drops[d] ∧ (c = .dropContention e d ∨ c = .unitMessageFirstByte e d) ∧ r.line = none ∧ r.turn = .isIn :=
  ⟨Elapsed.none, 0, serving, serving.drops[0], .dropContention Elapsed.none 0, by decide +kernel⟩

theorem witness_UnitActivityIsTakenByTurn_2_mark : ∃ (e : Elapsed) (d : DropIx) (s u : State) (r : DropRec) (m :
  LineMessage) (c : Instr), u = s.pass e ∧ r = s.drops[d] ∧ (c = .dropContention e d ∨ c = .unitMessageFirstByte e d)
  ∧ r.line = some m ∧ elapsed m.start u.counter.instant < m.length ∧ r.turn = .isIn ∧ r.lineActive = false :=
  ⟨Elapsed.none, 0, (onLine (.mark)), ((onLine (.mark)).pass Elapsed.none), (onLine (.mark)).drops[0],
    { aLine with kind := .mark, start := 700994999990000 }, .dropContention Elapsed.none 0, rfl, by decide +kernel⟩

theorem witness_UnitActivityIsTakenByTurn_2_announcement : ∃ (e : Elapsed) (d : DropIx) (s u : State) (r : DropRec) (m
  : LineMessage) (c : Instr), u = s.pass e ∧ r = s.drops[d] ∧ (c = .dropContention e d ∨ c = .unitMessageFirstByte e
  d) ∧ r.line = some m ∧ elapsed m.start u.counter.instant < m.length ∧ r.turn = .isIn ∧ r.lineActive = false :=
  ⟨Elapsed.none, 0, (onLine (.announce anAnnouncement 0)), ((onLine (.announce anAnnouncement 0)).pass Elapsed.none),
    (onLine (.announce anAnnouncement 0)).drops[0],
    { aLine with kind := .announce anAnnouncement 0, start := 700994999990000 }, .dropContention Elapsed.none 0, rfl,
    by decide +kernel⟩

theorem witness_UnitActivityIsTakenByTurn_2_probe : ∃ (e : Elapsed) (d : DropIx) (s u : State) (r : DropRec) (m :
  LineMessage) (c : Instr), u = s.pass e ∧ r = s.drops[d] ∧ (c = .dropContention e d ∨ c = .unitMessageFirstByte e d)
  ∧ r.line = some m ∧ elapsed m.start u.counter.instant < m.length ∧ r.turn = .isIn ∧ r.lineActive = false :=
  ⟨Elapsed.none, 0, (onLine (.probe none none 0)), ((onLine (.probe none none 0)).pass Elapsed.none), (onLine (.probe
    none none 0)).drops[0], { aLine with kind := .probe none none 0, start := 700994999990000 }, .dropContention
    Elapsed.none 0, rfl, by decide +kernel⟩

theorem witness_UnitActivityIsTakenByTurn_2_offer : ∃ (e : Elapsed) (d : DropIx) (s u : State) (r : DropRec) (m :
  LineMessage) (c : Instr), u = s.pass e ∧ r = s.drops[d] ∧ (c = .dropContention e d ∨ c = .unitMessageFirstByte e d)
  ∧ r.line = some m ∧ elapsed m.start u.counter.instant < m.length ∧ r.turn = .isIn ∧ r.lineActive = false :=
  ⟨Elapsed.none, 0, (onLine (.offer none 0)), ((onLine (.offer none 0)).pass Elapsed.none), (onLine (.offer none
    0)).drops[0], { aLine with kind := .offer none 0, start := 700994999990000 }, .dropContention Elapsed.none 0, rfl,
    by decide +kernel⟩

theorem witness_UnitActivityIsTakenByTurn_3 : ∃ (e : Elapsed) (d : DropIx) (s u : State) (start limit t1 : Nat) (w :
  TurnMessage) (maxRtt : Int), u = s.pass e ∧ (s.drops[d]).turn = .out start w limit t1 maxRtt ∧ (s.drops[d]).line =
  none ∧ (s.drops[d]).lineActive = false ∧ elapsed start u.counter.instant ≤ limit :=
  ⟨Elapsed.none, 0, (calibrating.setDrop 0 { calibrating.drops[0] with lineActive := false, arriving := none }),
    (calibrating.setDrop 0 { calibrating.drops[0] with lineActive := false, arriving := none }).pass Elapsed.none,
    700995000000000, 2000000000, 700995000000000, .probe, 200000000, by decide +kernel⟩

theorem witness_UnitActivityIsTakenByTurn_4 : ∃ (e : Elapsed) (d : DropIx) (s : State), (s.drops[d]).turn = .isIn ∧
  (s.drops[d]).line = none :=
  ⟨Elapsed.none, 0, serving, by decide +kernel⟩

theorem witness_JoinTakesDropToCalibrating : ∃ (e : Elapsed) (d : DropIx) (s u : State) (r : DropRec) (start limit t1
  t4 identity : Nat) (maxRtt : Int) (compact : Bool) (st : UnitStatus), u = s.pass e ∧ r = s.drops[d] ∧ r.state =
  .seeking ∧ r.line = none ∧ r.turn = .out start .offer limit t1 maxRtt ∧ r.arriving = some t4 ∧ elapsed start
  u.counter.instant ≤ limit ∧ identity < 2 ^ 64 :=
  ⟨Elapsed.none, 0, offered, offered.pass Elapsed.none, offered.drops[0], 700995000000000, 2000000000,
    700995000000000, 700995001000000, 99, 200000000, true, .ok, by decide +kernel⟩

theorem witness_EchoMeasuresDelay : ∃ (e : Elapsed) (d : DropIx) (s u : State) (r : DropRec) (p : Profile) (start
  limit t1 t2 t3 t4 : Nat) (maxRtt rtt : Int) (ring : List Int) (st : UnitStatus), u = s.pass e ∧ r = s.drops[d] ∧ p =
  s.profiles[r.profile] ∧ (r.state = .calibrating ∨ r.state = .serving) ∧ r.line = none ∧ r.turn = .out start .probe
  limit t1 maxRtt ∧ r.arriving = some t4 ∧ elapsed start u.counter.instant ≤ limit ∧ t2 < 2 ^ 48 ∧ t3 < 2 ^ 48 ∧ rtt =
  signedElapsed t1 t4 - ((t3 : Int) - t2) % 2 ^ 48 ∧ ring = (r.ring ++ [rtt]).drop (r.ring.length + 1 - 8) :=
  ⟨Elapsed.none, 0, calibrating, calibrating.pass Elapsed.none, calibrating.drops[0], calibrating.profiles[2],
    700995000000000, 2000000000, 700995000000000, 0, 5000000, 700995085012250, 200000000, 80012250, [80012250], .ok,
    by decide +kernel⟩

theorem witness_DropTimersRunOut : ∃ (d : DropIx) (s : State) (r : DropRec), r = s.drops[d] :=
  ⟨0, serving, serving.drops[0], by decide +kernel⟩

theorem witness_AlarmsAreRaisedClearedAndShown_1 : ∃ (a : AlarmIx) (s : State) (d : Nat) (raises : Bool) (n : Notice),
  (s.alarms[a]).timer = some d ∧ (s.alarms[a]).state = (if raises then .raising else .clearing) ∧ (n =
  { kind := if raises then .alarmRaised else .alarmCleared, sec := s.counter.sec, ns := s.counter.ps / 1000, subject := a.val, old := if raises then 1 else 3, new := if raises then 2 else 0 })
  :=
  ⟨3, (up.setAlarm 3 { up.alarms[3] with state := .raising, condition := true, timer := some 5 }), 5, true,
    { kind := .alarmRaised, sec := 700, ns := 995000000, subject := 3, old := 1, new := 2 }, by decide +kernel⟩

theorem witness_PeekShowsPortAndClearsOverrunAlone_1 : ∃ (e : Elapsed) (p : Port) (s : State) (c : Instr), (c = .peek
  e p ∨ c = .unknownTransactionType e p) :=
  ⟨Elapsed.none, 0, up, .peek Elapsed.none 0, by decide +kernel⟩

theorem witness_PeekShowsPortAndClearsOverrunAlone_2 : ∃ (p : Port) (s : State) (q : PortRec) (v : View), q =
  s.ports[p] ∧ v = s.views[p] :=
  ⟨0, up, up.ports[0], up.views[0], by decide +kernel⟩

theorem witness_PushBringsRequest_1 : ∃ (e : Elapsed) (p : Port) (s u : State), u = s.pass e ∧ (s.ports[p]).online =
  true :=
  ⟨Elapsed.none, 0, up, up.pass Elapsed.none, rfl, by decide +kernel⟩

theorem witness_PushBringsRequest_1_offline : ∃ (e : Elapsed) (p : Port) (s u : State), u = s.pass e ∧
  (s.ports[p]).online = false :=
  ⟨Elapsed.none, 0, silent, silent.pass Elapsed.none, rfl, by decide +kernel⟩

theorem witness_PushBringsRequest_2 : ∃ (e : Elapsed) (p : Port) (s : State) (q : PortRec) (code : Byte) (tag : BitVec
  16) (body : List Byte) (r : Request), q = s.ports[p] ∧ q.transaction = .pushing ∧ q.online = true ∧ r =
  { code := code, tag := tag, body := body, order := q.nextOrder } :=
  ⟨Elapsed.none, 0, pushing, pushing.ports[0], 16, 7, [], { code := 16, tag := 7, body := [], order := 0 },
    by decide +kernel⟩

theorem witness_PushBringsRequest_3 : ∃ (e : Elapsed) (p : Port) (s : State) (code : Byte) (tag : BitVec 16) (body :
  List Byte), (s.ports[p]).transaction = .pushing ∧ (s.ports[p]).online = false :=
  ⟨Elapsed.none, 0, (silent.setPort 0 { silent.ports[0] with transaction := .pushing }), 16, 7, [1, 2],
    by decide +kernel⟩

theorem witness_PushBringsRequest_4 : ∃ (e : Elapsed) (p : Port) (s : State), (s.ports[p]).transaction = .pushing :=
  ⟨Elapsed.none, 0, pushing, by decide +kernel⟩

theorem witness_PullSendsSegment_1 : ∃ (e : Elapsed) (p : Port) (s u : State), u = s.pass e ∧ (s.ports[p]).replies =
  [] :=
  ⟨Elapsed.none, 0, up, up.pass Elapsed.none, rfl, by decide +kernel⟩

theorem witness_PullSendsSegment_2 : ∃ (e : Elapsed) (p : Port) (s u : State) (r : Reply) (rest : List Reply) (segment
  pulled length total mark : Nat), u = s.pass e ∧ (s.ports[p]).replies = r :: rest ∧ (((s.ports[p]).progress = none ∧
  segment = (s.ports[p]).maxSegment ∧ pulled = 0) ∨ (s.ports[p]).progress = some
  { segment := segment, pulled := pulled }) ∧ total = 4 + r.body.length ∧ length = min segment (total - pulled) ∧
  pulled < total ∧ (mark = (if pulled = 0 then (if length = total then 0 else 1) else if pulled + length = total then
  3 else 2)) :=
  ⟨Elapsed.none, 0, replied, replied.pass Elapsed.none, aReply, [], 64, 0, 64, 104, 1, rfl, by decide +kernel⟩

theorem witness_PullSendsSegment_3 : ∃ (e : Elapsed) (p : Port) (s : State) (r : Reply) (rest : List Reply) (segment
  pulled length total : Nat), (s.ports[p]).transaction = .pulling segment length ∧ (s.ports[p]).replies = r :: rest ∧
  (((s.ports[p]).progress = none ∧ pulled = 0) ∨ (∃ g, (s.ports[p]).progress = some g ∧ pulled = g.pulled)) ∧ total =
  4 + r.body.length :=
  ⟨Elapsed.none, 0, pulling, aReply, [], 64, 0, 64, 104, by decide +kernel⟩

theorem witness_PortIsCleared_by_silence : ∃ (p : Port) (s : State) (c : Instr) (q : PortRec) (d : Nat) (r : Request)
  (later : PortRec), q = s.ports[p] ∧ ((c = .silenceTimerExpiry p ∧ q.online = true ∧ q.silence = some d) ∨ (c =
  .portReset p ∧ q.oldest = some (r, later) ∧ r.code = 115)) :=
  ⟨0, up, .silenceTimerExpiry 0, up.ports[0], 5000000000, request 115 [], up.ports[0], by decide +kernel⟩

theorem witness_PortIsCleared_while_pulling : ∃ (p : Port) (s : State) (c : Instr) (q : PortRec) (d : Nat) (r :
  Request) (later : PortRec), q = s.ports[p] ∧ ((c = .silenceTimerExpiry p ∧ q.online = true ∧ q.silence = some d) ∨
  (c = .portReset p ∧ q.oldest = some (r, later) ∧ r.code = 115)) ∧ q.transaction = .pulling 64 64 ∧ 8 <
  q.dataOut.length :=
  ⟨0, sendingSegment, .silenceTimerExpiry 0, sendingSegment.ports[0], 5000000000, request 115 [], up.ports[0],
    by decide +kernel⟩

theorem witness_PortIsCleared_by_request : ∃ (p : Port) (s : State) (c : Instr) (q : PortRec) (d : Nat) (r : Request)
  (later : PortRec), q = s.ports[p] ∧ ((c = .silenceTimerExpiry p ∧ q.online = true ∧ q.silence = some d) ∨ (c =
  .portReset p ∧ q.oldest = some (r, later) ∧ r.code = 115)) :=
  ⟨0, (up.asked 115 []), .portReset 0, (up.asked 115 []).ports[0], 0, request 115 [], up.ports[0], by decide +kernel⟩

theorem witness_ReadsAnswerAndChangeNothing_1_time : ∃ (p : Port) (s u : State) (r : Request) (q : PortRec), u =
  s.setPort p q ∧ s.ready p 16 r q ∧ r.body = [] :=
  ⟨0, (up.asked 16 []), ((up.asked 16 []).setPort 0 up.ports[0]), (request 16 []), up.ports[0], rfl,
    by decide +kernel⟩

theorem witness_ReadsAnswerAndChangeNothing_1_state : ∃ (p : Port) (s u : State) (r : Request) (q : PortRec), u =
  s.setPort p q ∧ s.ready p 17 r q ∧ r.body = [] :=
  ⟨0, (up.asked 17 []), ((up.asked 17 []).setPort 0 up.ports[0]), (request 17 []), up.ports[0], rfl,
    by decide +kernel⟩

theorem witness_ReadsAnswerAndChangeNothing_1_one_reference : ∃ (p : Port) (s u : State) (r : Request) (q : PortRec),
  u = s.setPort p q ∧ s.ready p 34 r q ∧ r.body = [1, 7] :=
  ⟨0, (up.asked 34 [1, 7]), ((up.asked 34 [1, 7]).setPort 0 up.ports[0]), (request 34 [1, 7]), up.ports[0], rfl,
    by decide +kernel⟩

theorem witness_ReadsAnswerAndChangeNothing_1_references : ∃ (p : Port) (s u : State) (r : Request) (q : PortRec), u =
  s.setPort p q ∧ s.ready p 34 r q ∧ r.body = [0] :=
  ⟨0, (up.asked 34 [0]), ((up.asked 34 [0]).setPort 0 up.ports[0]), (request 34 [0]), up.ports[0], rfl,
    by decide +kernel⟩

theorem witness_ReadsAnswerAndChangeNothing_1_history : ∃ (p : Port) (s u : State) (r : Request) (q : PortRec), u =
  s.setPort p q ∧ s.ready p 49 r q ∧ r.body = [0] :=
  ⟨0, (up.asked 49 [0]), ((up.asked 49 [0]).setPort 0 up.ports[0]), (request 49 [0]), up.ports[0], rfl,
    by decide +kernel⟩

theorem witness_ReadsAnswerAndChangeNothing_1_part_of_history : ∃ (p : Port) (s u : State) (r : Request) (q :
  PortRec), u = s.setPort p q ∧ s.ready p 49 r q ∧ r.body = 1 :: beBytes 4 64 :=
  ⟨0, (up.asked 49 [1, 0, 0, 0, 64]), ((up.asked 49 [1, 0, 0, 0, 64]).setPort 0 up.ports[0]), (request 49 [1, 0, 0, 0,
    64]), up.ports[0], rfl, by decide +kernel⟩

theorem witness_ReadsAnswerAndChangeNothing_1_one_entry : ∃ (p : Port) (s u : State) (r : Request) (q : PortRec), u =
  s.setPort p q ∧ s.ready p 70 r q ∧ r.body = [1, 63] :=
  ⟨0, (up.asked 70 [1, 63]), ((up.asked 70 [1, 63]).setPort 0 up.ports[0]), (request 70 [1, 63]), up.ports[0], rfl,
    by decide +kernel⟩

theorem witness_ReadsAnswerAndChangeNothing_1_entries : ∃ (p : Port) (s u : State) (r : Request) (q : PortRec), u =
  s.setPort p q ∧ s.ready p 70 r q ∧ r.body = [0] :=
  ⟨0, (up.asked 70 [0]), ((up.asked 70 [0]).setPort 0 up.ports[0]), (request 70 [0]), up.ports[0], rfl,
    by decide +kernel⟩

theorem witness_ReadsAnswerAndChangeNothing_1_one_drop : ∃ (p : Port) (s u : State) (r : Request) (q : PortRec), u =
  s.setPort p q ∧ s.ready p 82 r q ∧ r.body = [1, 7] :=
  ⟨0, (up.asked 82 [1, 7]), ((up.asked 82 [1, 7]).setPort 0 up.ports[0]), (request 82 [1, 7]), up.ports[0], rfl,
    by decide +kernel⟩

theorem witness_ReadsAnswerAndChangeNothing_1_drops : ∃ (p : Port) (s u : State) (r : Request) (q : PortRec), u =
  s.setPort p q ∧ s.ready p 82 r q ∧ r.body = [0] :=
  ⟨0, (up.asked 82 [0]), ((up.asked 82 [0]).setPort 0 up.ports[0]), (request 82 [0]), up.ports[0], rfl,
    by decide +kernel⟩

theorem witness_ReadsAnswerAndChangeNothing_1_alarms : ∃ (p : Port) (s u : State) (r : Request) (q : PortRec), u =
  s.setPort p q ∧ s.ready p 97 r q ∧ r.body = [0] :=
  ⟨0, (up.asked 97 [0]), ((up.asked 97 [0]).setPort 0 up.ports[0]), (request 97 [0]), up.ports[0], rfl,
    by decide +kernel⟩

theorem witness_ReadsAnswerAndChangeNothing_1_some_alarms : ∃ (p : Port) (s u : State) (r : Request) (q : PortRec), u
  = s.setPort p q ∧ s.ready p 97 r q ∧ r.body = 3 :: beBytes 1 31 ++ beBytes 4 32 :=
  ⟨0, (up.asked 97 [3, 31, 0, 0, 0, 32]), ((up.asked 97 [3, 31, 0, 0, 0, 32]).setPort 0 up.ports[0]), (request 97 [3,
    31, 0, 0, 0, 32]), up.ports[0], rfl, by decide +kernel⟩

theorem witness_TimeRequestsTakeEffect_1 : ∃ (p : Port) (s : State) (r : Request) (q : PortRec) (a : Int), s.ready p
  18 r q ∧ r.body = beInt 8 a ∧ -(2 ^ 63) ≤ a ∧ a < 2 ^ 63 :=
  ⟨0, (up.asked 18 (beInt 8 1000000000000000)), (request 18 (beInt 8 1000000000000000)), up.ports[0],
    1000000000000000, by decide +kernel⟩

theorem witness_TimeRequestsTakeEffect_2 : ∃ (p : Port) (s : State) (r : Request) (q : PortRec) (v : LeapSetParts),
  s.ready p 19 r q ∧ parseLeapSet r.body = some v ∧ s.holder = some p :=
  ⟨0, (up.asked 19 leapBody), (request 19 leapBody), up.ports[0], ((parseLeapSet leapBody).get (by decide +kernel)),
    by decide +kernel⟩

theorem witness_ReferenceRequestsTakeEffect_1 : ∃ (p : Port) (s : State) (r : Request) (q : PortRec) (v : RefSetParts)
  (i : Slot), s.ready p 33 r q ∧ parseRefSet r.body = some v ∧ s.holder = some p ∧ v.slot = i.val ∧ v.badRecord =
  false ∧ badPartner i v.partner = false ∧ v.badParams i = false :=
  ⟨0, (up.asked 33 enableBody), (request 33 enableBody), up.ports[0], ((parseRefSet enableBody).get
    (by decide +kernel)), 0, by decide +kernel⟩

theorem witness_ReferenceRequestsTakeEffect_1_measuring : ∃ (p : Port) (s : State) (r : Request) (q : PortRec) (v :
  RefSetParts) (i : Slot), s.ready p 33 r q ∧ parseRefSet r.body = some v ∧ s.holder = some p ∧ v.slot = i.val ∧
  v.badRecord = false ∧ badPartner i v.partner = false ∧ v.badParams i = false ∧ v.jumpLimit = some 1000000 :=
  ⟨0, (up.asked 33 jumpBody), (request 33 jumpBody), up.ports[0], ((parseRefSet jumpBody).get (by decide +kernel)), 1,
    by decide +kernel⟩

theorem witness_ReferenceRequestsTakeEffect_2_both : ∃ (p : Port) (s : State) (r : Request) (q : PortRec) (mode wtr :
  Nat), s.ready p 35 r q ∧ s.holder = some p ∧ ((r.body = 3 :: beBytes 1 mode ++ beBytes 4 wtr ∧ mode ≤ 1 ∧ wtr ≤
  3600) ∨ (r.body = 1 :: beBytes 1 mode ∧ mode ≤ 1 ∧ wtr = s.sel.wtr) ∨ (r.body = 2 :: beBytes 4 wtr ∧ wtr ≤ 3600 ∧
  mode = s.sel.mode.code) ∨ (r.body = [0] ∧ mode = s.sel.mode.code ∧ wtr = s.sel.wtr)) :=
  ⟨0, (up.asked 35 [3, 1, 0, 0, 14, 16]), (request 35 [3, 1, 0, 0, 14, 16]), up.ports[0], 1, 3600, by decide +kernel⟩

theorem witness_ReferenceRequestsTakeEffect_2_mode : ∃ (p : Port) (s : State) (r : Request) (q : PortRec) (mode wtr :
  Nat), s.ready p 35 r q ∧ s.holder = some p ∧ ((r.body = 3 :: beBytes 1 mode ++ beBytes 4 wtr ∧ mode ≤ 1 ∧ wtr ≤
  3600) ∨ (r.body = 1 :: beBytes 1 mode ∧ mode ≤ 1 ∧ wtr = s.sel.wtr) ∨ (r.body = 2 :: beBytes 4 wtr ∧ wtr ≤ 3600 ∧
  mode = s.sel.mode.code) ∨ (r.body = [0] ∧ mode = s.sel.mode.code ∧ wtr = s.sel.wtr)) :=
  ⟨0, (up.asked 35 [1, 1]), (request 35 [1, 1]), up.ports[0], 1, 300, by decide +kernel⟩

theorem witness_ReferenceRequestsTakeEffect_2_wait : ∃ (p : Port) (s : State) (r : Request) (q : PortRec) (mode wtr :
  Nat), s.ready p 35 r q ∧ s.holder = some p ∧ ((r.body = 3 :: beBytes 1 mode ++ beBytes 4 wtr ∧ mode ≤ 1 ∧ wtr ≤
  3600) ∨ (r.body = 1 :: beBytes 1 mode ∧ mode ≤ 1 ∧ wtr = s.sel.wtr) ∨ (r.body = 2 :: beBytes 4 wtr ∧ wtr ≤ 3600 ∧
  mode = s.sel.mode.code) ∨ (r.body = [0] ∧ mode = s.sel.mode.code ∧ wtr = s.sel.wtr)) :=
  ⟨0, (up.asked 35 [2, 0, 0, 14, 16]), (request 35 [2, 0, 0, 14, 16]), up.ports[0], 0, 3600, by decide +kernel⟩

theorem witness_ReferenceRequestsTakeEffect_2_neither : ∃ (p : Port) (s : State) (r : Request) (q : PortRec) (mode wtr
  : Nat), s.ready p 35 r q ∧ s.holder = some p ∧ ((r.body = 3 :: beBytes 1 mode ++ beBytes 4 wtr ∧ mode ≤ 1 ∧ wtr ≤
  3600) ∨ (r.body = 1 :: beBytes 1 mode ∧ mode ≤ 1 ∧ wtr = s.sel.wtr) ∨ (r.body = 2 :: beBytes 4 wtr ∧ wtr ≤ 3600 ∧
  mode = s.sel.mode.code) ∨ (r.body = [0] ∧ mode = s.sel.mode.code ∧ wtr = s.sel.wtr)) :=
  ⟨0, (up.asked 35 [0]), (request 35 [0]), up.ports[0], 0, 300, by decide +kernel⟩

theorem witness_ReferenceRequestsTakeEffect_3 : ∃ (p : Port) (s : State) (r : Request) (q : PortRec), s.ready p 36 r q
  ∧ r.body = [0] ∧ s.holder = some p :=
  ⟨0, (steered.asked 36 [0]), (request 36 [0]), steered.ports[0], by decide +kernel⟩

theorem witness_ReferenceRequestsTakeEffect_4 : ∃ (p : Port) (s : State) (r : Request) (q : PortRec) (i : Slot),
  s.ready p 36 r q ∧ r.body = [1, BitVec.ofNat 8 i.val] ∧ s.holder = some p ∧ (i.val < 2 ∨ 4 ≤ i.val) :=
  ⟨0, (up.asked 36 [1, 4]), (request 36 [1, 4]), up.ports[0], 4, by decide +kernel⟩

theorem witness_LoopSetTakesHold : ∃ (p : Port) (s : State) (r : Request) (q : PortRec) (v : LoopSetParts) (lp :
  LoopParams) (hp : HoldParams), s.ready p 48 r q ∧ parseLoopSet r.body = some v ∧ s.holder = some p ∧ v.bad = false ∧
  lp = v.loopParams s.lp ∧ hp = v.holdParams s.hp ∧ lp.lockThreshold < lp.lossThreshold ∧ hp.t1 < hp.t2 ∧ hp.t2 <
  hp.t3 ∧ s.steerBounded :=
  ⟨0, (steered.asked 48 ymaxBody), (request 48 ymaxBody), steered.ports[0], ((parseLoopSet ymaxBody).get
    (by decide +kernel)), (((parseLoopSet ymaxBody).get (by decide +kernel))).loopParams steered.lp, (((parseLoopSet
    ymaxBody).get (by decide +kernel))).holdParams steered.hp,
    by and_intros <;> decide +kernel⟩

theorem witness_HoldoverIsForcedAndHeld_1 : ∃ (p : Port) (s : State) (r : Request) (q : PortRec), s.ready p 51 r q ∧
  r.body = [1] ∧ s.holder = some p ∧ s.tb.force = false :=
  ⟨0, (up.asked 51 [1]), (request 51 [1]), up.ports[0], by decide +kernel⟩

theorem witness_HoldoverIsForcedAndHeld_2 : ∃ (p : Port) (s : State) (r : Request) (q : PortRec), s.ready p 51 r q ∧
  r.body = [0] ∧ s.holder = some p ∧ s.tb.force = true :=
  ⟨0, ((up.setTb { up.tb with force := true }).asked 51 [0]), (request 51 [0]), (up.setTb
    { up.tb with force := true }).ports[0], by decide +kernel⟩

theorem witness_HoldoverIsForcedAndHeld_3 : ∃ (s : State) (taken : List MinuteRecord), (s.tb.state = .locked ∨
  s.tb.state = .acquiring) ∧ s.sel.assist = none ∧ s.tb.traced = true ∧ s.tb.episode = none ∧ taken = newestClean
  s.hp.recordCount (s.hold.history.take (s.hold.history.length - s.hp.guardRecords)) :=
  ⟨upWithHistory, [minute 100 2400, minute 101 2410, minute 102 2430, minute 103 2440], by decide +kernel⟩

theorem witness_HoldoverIsForcedAndHeld_4 : ∃ (s : State) (e : EpisodeRecord), s.tb.state = .holdover ∧ s.tb.episode =
  some .traced ∧ s.hold.episode = some e :=
  ⟨held, heldEpisode, by decide +kernel⟩

theorem witness_HistoryRestorePlacesRecords_only : ∃ (p : Port) (s : State) (r : Request) (q : PortRec) (v :
  RestoreParts) (joined : Bool) (l : List MinuteRecord), s.ready p 50 r q ∧ parseRestore r.body = some v ∧ s.holder =
  some p ∧ (s.tb.state = .warmup ∨ s.tb.state = .freerun) ∧ 0 ≤ v.marker ∧ v.marker ≤ 3 ∧ (joined = decide (v.marker =
  2 ∨ v.marker = 3)) ∧ l = (if joined then s.hold.staging ++ v.records else v.records) ∧ l.length ≤ 64 ∧ (∀ x ∈
  v.records, -50000000 ≤ x.mean ∧ x.mean ≤ 50000000 ∧ x.slot ≤ 7 ∧ x.cls ≤ 6) ∧ indicesRise l ∧ indexSpan l ≤
  2147483647 ∧ v.marker = 0 :=
  ⟨0, ((inState .warmup).asked 50 (restoreBody 0)), (request 50 (restoreBody 0)), (inState .warmup).ports[0],
    ((parseRestore (restoreBody 0)).get (by decide +kernel)), false, ([minute 7310 2380]),
    by and_intros <;> first | decide +kernel | (unfold indicesRise; decide +kernel)⟩

theorem witness_HistoryRestorePlacesRecords_first : ∃ (p : Port) (s : State) (r : Request) (q : PortRec) (v :
  RestoreParts) (joined : Bool) (l : List MinuteRecord), s.ready p 50 r q ∧ parseRestore r.body = some v ∧ s.holder =
  some p ∧ (s.tb.state = .warmup ∨ s.tb.state = .freerun) ∧ 0 ≤ v.marker ∧ v.marker ≤ 3 ∧ (joined = decide (v.marker =
  2 ∨ v.marker = 3)) ∧ l = (if joined then s.hold.staging ++ v.records else v.records) ∧ l.length ≤ 64 ∧ (∀ x ∈
  v.records, -50000000 ≤ x.mean ∧ x.mean ≤ 50000000 ∧ x.slot ≤ 7 ∧ x.cls ≤ 6) ∧ indicesRise l ∧ indexSpan l ≤
  2147483647 ∧ v.marker = 1 :=
  ⟨0, ((inState .freerun).asked 50 (restoreBody 1)), (request 50 (restoreBody 1)), (inState .freerun).ports[0],
    ((parseRestore (restoreBody 1)).get (by decide +kernel)), false, ([minute 7310 2380]),
    by and_intros <;> first | decide +kernel | (unfold indicesRise; decide +kernel)⟩

theorem witness_HistoryRestorePlacesRecords_next : ∃ (p : Port) (s : State) (r : Request) (q : PortRec) (v :
  RestoreParts) (joined : Bool) (l : List MinuteRecord), s.ready p 50 r q ∧ parseRestore r.body = some v ∧ s.holder =
  some p ∧ (s.tb.state = .warmup ∨ s.tb.state = .freerun) ∧ 0 ≤ v.marker ∧ v.marker ≤ 3 ∧ (joined = decide (v.marker =
  2 ∨ v.marker = 3)) ∧ l = (if joined then s.hold.staging ++ v.records else v.records) ∧ l.length ≤ 64 ∧ (∀ x ∈
  v.records, -50000000 ≤ x.mean ∧ x.mean ≤ 50000000 ∧ x.slot ≤ 7 ∧ x.cls ≤ 6) ∧ indicesRise l ∧ indexSpan l ≤
  2147483647 ∧ v.marker = 2 :=
  ⟨0, (staged.asked 50 (restoreBody 2)), (request 50 (restoreBody 2)), staged.ports[0], ((parseRestore (restoreBody
    2)).get (by decide +kernel)), true, (stagedRecords ++ [minute 7310 2380]),
    by and_intros <;> first | decide +kernel | (unfold indicesRise; decide +kernel)⟩

theorem witness_HistoryRestorePlacesRecords_last : ∃ (p : Port) (s : State) (r : Request) (q : PortRec) (v :
  RestoreParts) (joined : Bool) (l : List MinuteRecord), s.ready p 50 r q ∧ parseRestore r.body = some v ∧ s.holder =
  some p ∧ (s.tb.state = .warmup ∨ s.tb.state = .freerun) ∧ 0 ≤ v.marker ∧ v.marker ≤ 3 ∧ (joined = decide (v.marker =
  2 ∨ v.marker = 3)) ∧ l = (if joined then s.hold.staging ++ v.records else v.records) ∧ l.length ≤ 64 ∧ (∀ x ∈
  v.records, -50000000 ≤ x.mean ∧ x.mean ≤ 50000000 ∧ x.slot ≤ 7 ∧ x.cls ≤ 6) ∧ indicesRise l ∧ indexSpan l ≤
  2147483647 ∧ v.marker = 3 :=
  ⟨0, (staged.asked 50 (restoreBody 3)), (request 50 (restoreBody 3)), staged.ports[0], ((parseRestore (restoreBody
    3)).get (by decide +kernel)), true, (stagedRecords ++ [minute 7310 2380]),
    by and_intros <;> first | decide +kernel | (unfold indicesRise; decide +kernel)⟩

theorem witness_HistoryRestorePlacesRecords_last_alone : ∃ (p : Port) (s : State) (r : Request) (q : PortRec) (v :
  RestoreParts) (joined : Bool) (l : List MinuteRecord), s.ready p 50 r q ∧ parseRestore r.body = some v ∧ s.holder =
  some p ∧ (s.tb.state = .warmup ∨ s.tb.state = .freerun) ∧ 0 ≤ v.marker ∧ v.marker ≤ 3 ∧ (joined = decide (v.marker =
  2 ∨ v.marker = 3)) ∧ l = (if joined then s.hold.staging ++ v.records else v.records) ∧ l.length ≤ 64 ∧ (∀ x ∈
  v.records, -50000000 ≤ x.mean ∧ x.mean ≤ 50000000 ∧ x.slot ≤ 7 ∧ x.cls ≤ 6) ∧ indicesRise l ∧ indexSpan l ≤
  2147483647 ∧ v.marker = 3 :=
  ⟨0, ((inState .warmup).asked 50 (restoreBody 3)), (request 50 (restoreBody 3)), (inState .warmup).ports[0],
    ((parseRestore (restoreBody 3)).get (by decide +kernel)), true, ([minute 7310 2380]),
    by and_intros <;> first | decide +kernel | (unfold indicesRise; decide +kernel)⟩

theorem witness_EntryRequestsTakeEffect_1 : ∃ (p : Port) (s : State) (r : Request) (q : PortRec) (v : EntryParts)
  (kind : EntryKind) (o : Output) (f : EntryFields), s.ready p 65 r q ∧ parseEntryDefine r.body = some v ∧
  matchingTarget v.kind v.target = some (kind, o) ∧ s.outputOwner o = some p ∧ s.anchorNotOwned p v.anchor = false ∧
  s.fieldsOf v kind o none = some f :=
  ⟨0, (owning.asked 65 anchorBody), (request 65 anchorBody), owning.ports[0], ((parseEntryDefine anchorBody).get
    (by decide +kernel)), .mark, .drop 0, trainFields, by decide +kernel⟩

theorem witness_EntryRequestsTakeEffect_2 : ∃ (p : Port) (s : State) (r : Request) (q : PortRec) (v : EntryParts) (i :
  EntryIx) (e : Entry) (kind : EntryKind) (o : Output) (f : EntryFields), s.ready p 66 r q ∧ parseEntryChange r.body =
  some ((i.val : Int), v) ∧ s.entries[i] = some e ∧ e.owner = p ∧ (e.state = .idle ∨ e.state = .ended) ∧
  matchingTarget v.kind v.target = some (kind, o) ∧ s.outputOwner o = some p ∧ s.anchorNotOwned p v.anchor = false ∧
  s.fieldsOf v kind o (some i) = some f ∧ s.hasRelative i = false :=
  ⟨0, (owningOne.asked 66 changeBody), (request 66 changeBody), owningOne.ports[0], (((parseEntryChange
    changeBody).get (by decide +kernel)).2), 0, { trainAnchor with state := .idle }, .mark, .drop 0, trainFields,
    by decide +kernel⟩

theorem witness_EntryRequestsTakeEffect_2_that_holds : ∃ (p : Port) (s : State) (r : Request) (q : PortRec) (v :
  EntryParts) (i : EntryIx) (e : Entry) (kind : EntryKind) (o : Output) (f : EntryFields), s.ready p 66 r q ∧
  parseEntryChange r.body = some ((i.val : Int), v) ∧ s.entries[i] = some e ∧ e.owner = p ∧ (e.state = .idle ∨ e.state
  = .ended) ∧ matchingTarget v.kind v.target = some (kind, o) ∧ s.outputOwner o = some p ∧ s.anchorNotOwned p v.anchor
  = false ∧ s.fieldsOf v kind o (some i) = some f ∧ s.hasRelative i = true :=
  ⟨0, (idleTrain.asked 66 shortBody), (request 66 shortBody), idleTrain.ports[0], (((parseEntryChange shortBody).get
    (by decide +kernel)).2), 0, { trainAnchor with state := .idle }, .mark, .drop 0,
    { trainFields with link := .anchor 1000 0 none none }, by decide +kernel⟩

theorem witness_EntryRequestsTakeEffect_2_that_breaks : ∃ (p : Port) (s : State) (r : Request) (q : PortRec) (v :
  EntryParts) (i : EntryIx) (e : Entry) (kind : EntryKind) (o : Output) (f : EntryFields), s.ready p 66 r q ∧
  parseEntryChange r.body = some ((i.val : Int), v) ∧ s.entries[i] = some e ∧ e.owner = p ∧ (e.state = .idle ∨ e.state
  = .ended) ∧ matchingTarget v.kind v.target = some (kind, o) ∧ s.outputOwner o = some p ∧ s.anchorNotOwned p v.anchor
  = false ∧ s.fieldsOf v kind o (some i) = some f ∧ s.relativeBreaks i 1000 = true :=
  ⟨0, (idleFarTrain.asked 66 shortBody), (request 66 shortBody), idleFarTrain.ports[0], (((parseEntryChange
    shortBody).get (by decide +kernel)).2), 0, { trainAnchor with state := .idle }, .mark, .drop 0,
    { trainFields with link := .anchor 1000 0 none none }, by decide +kernel⟩

theorem witness_EntryRequestsTakeEffect_2_to_a_relative : ∃ (p : Port) (s : State) (r : Request) (q : PortRec) (v :
  EntryParts) (i : EntryIx) (e : Entry) (kind : EntryKind) (o : Output) (f : EntryFields), s.ready p 66 r q ∧
  parseEntryChange r.body = some ((i.val : Int), v) ∧ s.entries[i] = some e ∧ e.owner = p ∧ (e.state = .idle ∨ e.state
  = .ended) ∧ matchingTarget v.kind v.target = some (kind, o) ∧ s.outputOwner o = some p ∧ s.anchorNotOwned p v.anchor
  = false ∧ s.fieldsOf v kind o (some i) = some f ∧ s.hasRelative i = true :=
  ⟨0, (idleTrain.asked 66 followBody), (request 66 followBody), idleTrain.ports[0], (((parseEntryChange
    followBody).get (by decide +kernel)).2), 0, { trainAnchor with state := .idle }, .mark, .drop 0,
    { trainFields with link := .relative 2 0 1 0 }, by decide +kernel⟩

theorem witness_EntryRequestsTakeEffect_3 : ∃ (p : Port) (s : State) (r : Request) (q : PortRec) (i : EntryIx) (e :
  Entry) (period offset : Nat) (start stop : Option Nat), s.ready p 67 r q ∧ r.body = [BitVec.ofNat 8 i.val] ∧
  s.entries[i] = some e ∧ e.owner = p ∧ e.state = .idle ∧ e.fields.link = .anchor period offset start stop ∧ (∀ x,
  stop = some x → s.counter.sec < x) :=
  ⟨0, (owningOne.asked 67 [0]), (request 67 [0]), owningOne.ports[0], 0, { trainAnchor with state := .idle }, 10000,
    2000000, none, none,
    by and_intros <;> decide +kernel⟩

theorem witness_EntryRequestsTakeEffect_4 : ∃ (p : Port) (s : State) (r : Request) (q : PortRec) (i a : EntryIx) (e
  anchor : Entry) (rel : Int) (divider phase : Nat), s.ready p 67 r q ∧ r.body = [BitVec.ofNat 8 i.val] ∧ s.entries[i]
  = some e ∧ e.owner = p ∧ e.state = .idle ∧ e.fields.link = .relative a rel divider phase ∧ s.entries[a] = some
  anchor ∧ anchor.state = .running :=
  ⟨0, (withTrainHalf.asked 67 [1]), (request 67 [1]), withTrainHalf.ports[0], 1, 0, { follower with state := .idle },
    trainAnchor, -500000, 3, 1, by decide +kernel⟩

theorem witness_EntryRequestsTakeEffect_4_of_an_idle_anchor : ∃ (p : Port) (s : State) (r : Request) (q : PortRec) (i
  a : EntryIx) (e anchor : Entry) (rel : Int) (divider phase : Nat), s.ready p 67 r q ∧ r.body = [BitVec.ofNat 8
  i.val] ∧ s.entries[i] = some e ∧ e.owner = p ∧ e.state = .idle ∧ e.fields.link = .relative a rel divider phase ∧
  s.entries[a] = some anchor ∧ anchor.state = .idle :=
  ⟨0, (idleTrain.asked 67 [1]), (request 67 [1]), idleTrain.ports[0], 1, 0, { follower with state := .idle },
    { trainAnchor with state := .idle }, -500000, 3, 1, by decide +kernel⟩

theorem witness_EntryRequestsTakeEffect_5 : ∃ (p : Port) (s : State) (r : Request) (q : PortRec) (i : EntryIx) (e :
  Entry), s.ready p 68 r q ∧ r.body = [BitVec.ofNat 8 i.val] ∧ s.entries[i] = some e ∧ e.owner = p :=
  ⟨0, (withTrain.asked 68 [0]), (request 68 [0]), withTrain.ports[0], 0, trainAnchor, by decide +kernel⟩

theorem witness_EntryRequestsTakeEffect_6 : ∃ (p : Port) (s : State) (r : Request) (q : PortRec) (i : EntryIx) (e :
  Entry), s.ready p 69 r q ∧ r.body = [BitVec.ofNat 8 i.val] ∧ s.entries[i] = some e ∧ e.owner = p ∧ (e.state = .idle
  ∨ e.state = .ended) :=
  ⟨0, (owningOne.asked 69 [0]), (request 69 [0]), owningOne.ports[0], 0, { trainAnchor with state := .idle },
    by decide +kernel⟩

theorem witness_OutputAssignSetsOwner : ∃ (p : Port) (s : State) (r : Request) (q : PortRec) (v : AssignParts) (o :
  Output) (owner : Option Port) (reclaim : Bool), s.ready p 64 r q ∧ parseOutputAssign r.body = some v ∧ s.holder =
  some p ∧ v.output = o.code ∧ v.owner = (match owner with | some x => (x.val : Int) | none => 4) ∧ v.reclaim = (if
  reclaim then 1 else 0) ∧ badCable o v.compensation = false :=
  ⟨0, (up.asked 64 [7, 0, 1, 0]), (request 64 [7, 0, 1, 0]), up.ports[0], ((parseOutputAssign [7, 0, 1, 0]).get
    (by decide +kernel)), .drop 0, some 1, false, by decide +kernel⟩

theorem witness_ProfileAndDropSettingsTakeEffect_1 : ∃ (p : Port) (s : State) (r : Request) (q : PortRec) (v :
  ProfileSetParts) (i : ProfileIx), s.ready p 80 r q ∧ parseProfileSet r.body = some v ∧ s.holder = some p ∧ v.profile
  = i.val ∧ v.bad = false ∧ s.delaysFormed :=
  ⟨0, (up.asked 80 profileBody), (request 80 profileBody), up.ports[0], ((parseProfileSet profileBody).get
    (by decide +kernel)), 2,
    by and_intros <;> first | decide +kernel | (unfold State.delaysFormed; decide +kernel)⟩

theorem witness_ProfileAndDropSettingsTakeEffect_2_enabling : ∃ (p : Port) (s : State) (r : Request) (q : PortRec) (v
  : DropSetParts) (d : DropIx), s.ready p 81 r q ∧ parseDropSet r.body = some v ∧ v.drop = d.val ∧ (s.drops[d]).owner
  = some p ∧ (∀ x, v.profile = some x → 0 ≤ x ∧ x ≤ 7) ∧ (∀ x, v.enable = some x → x = 0 ∨ x = 1) ∧ v.enable = some 1
  ∧ (s.drops[d]).enabled = false :=
  ⟨0, (owning.asked 81 [3, 0, 1]), (request 81 [3, 0, 1]), owning.ports[0], ((parseDropSet [3, 0, 1]).get
    (by decide +kernel)), 0,
    by and_intros <;> decide +kernel⟩

theorem witness_ProfileAndDropSettingsTakeEffect_2_disabling : ∃ (p : Port) (s : State) (r : Request) (q : PortRec) (v
  : DropSetParts) (d : DropIx), s.ready p 81 r q ∧ parseDropSet r.body = some v ∧ v.drop = d.val ∧ (s.drops[d]).owner
  = some p ∧ (∀ x, v.profile = some x → 0 ≤ x ∧ x ≤ 7) ∧ (∀ x, v.enable = some x → x = 0 ∨ x = 1) ∧ v.enable = some 0
  ∧ (s.drops[d]).state ≠ .disabled :=
  ⟨0, (serving.asked 81 [3, 0, 0]), (request 81 [3, 0, 0]), serving.ports[0], ((parseDropSet [3, 0, 0]).get
    (by decide +kernel)), 0,
    by and_intros <;> decide +kernel⟩

theorem witness_AlarmRequestsTakeEffect_1 : ∃ (p : Port) (s : State) (r : Request) (q : PortRec) (v :
  AlarmSeverityParts) (i : AlarmIx), s.ready p 96 r q ∧ parseAlarmSeverity r.body = some v ∧ s.holder = some p ∧
  v.record = i.val ∧ v.bad = false :=
  ⟨0, (up.asked 96 [3, 5, 1]), (request 96 [3, 5, 1]), up.ports[0], ((parseAlarmSeverity [3, 5, 1]).get
    (by decide +kernel)), 5, by decide +kernel⟩

theorem witness_AlarmRequestsTakeEffect_2 : ∃ (p : Port) (s : State) (r : Request) (q : PortRec) (mask : BitVec 32),
  s.ready p 99 r q ∧ r.body = 1 :: beBytes 4 mask.toNat :=
  ⟨0, (up.asked 99 [1, 255, 255, 255, 255]), (request 99 [1, 255, 255, 255, 255]), up.ports[0], BitVec.allOnes 32,
    by decide +kernel⟩

theorem witness_AlarmRequestsTakeEffect_3 : ∃ (p : Port) (s : State) (r : Request) (q : PortRec) (m : AlarmMaskParts),
  s.ready p 99 r q ∧ parseAlarmMask r.body = some m ∧ (∀ x, m.lineEnable = some x → x = 0 ∨ x = 1) ∧ m.eventMask =
  some 16 :=
  ⟨0, (up.asked 99 [6, 0, 16, 1]), (request 99 [6, 0, 16, 1]), up.ports[0], ((parseAlarmMask [6, 0, 16, 1]).get
    (by decide +kernel)), by decide +kernel⟩

theorem witness_AlarmRequestsTakeEffect_4 : ∃ (p : Port) (s : State) (r : Request) (q : PortRec), s.ready p 98 r q ∧
  r.body ≠ [] ∧ (∀ b ∈ r.body, b.toNat ≤ 31) :=
  ⟨0, (up.asked 98 [0, 31]), (request 98 [0, 31]), up.ports[0], by decide +kernel⟩

theorem witness_AlarmRequestsTakeEffect_5_all : ∃ (p : Port) (s : State) (r : Request) (q : PortRec) (n : Nat),
  s.ready p 100 r q ∧ ((r.body = [0] ∧ n = 16) ∨ (r.body = 1 :: beBytes 4 n ∧ 1 ≤ n ∧ n ≤ 16)) :=
  ⟨0, (up.asked 100 [0]), (request 100 [0]), up.ports[0], 16, by decide +kernel⟩

theorem witness_AlarmRequestsTakeEffect_5_one : ∃ (p : Port) (s : State) (r : Request) (q : PortRec) (n : Nat),
  s.ready p 100 r q ∧ ((r.body = [0] ∧ n = 16) ∨ (r.body = 1 :: beBytes 4 n ∧ 1 ≤ n ∧ n ≤ 16)) :=
  ⟨0, (up.asked 100 [1, 0, 0, 0, 1]), (request 100 [1, 0, 0, 0, 1]), up.ports[0], 1, by decide +kernel⟩

theorem witness_AuthorityAndPortRequestsTakeEffect_1 : ∃ (p : Port) (s : State) (r : Request) (q : PortRec) (n : Nat),
  s.ready p 112 r q ∧ r.body = beBytes 1 n ∧ n ≤ 3 ∧ s.holder = some p :=
  ⟨0, (up.asked 112 [3]), (request 112 [3]), up.ports[0], 3, by decide +kernel⟩

theorem witness_AuthorityAndPortRequestsTakeEffect_1_vacant : ∃ (p : Port) (s : State) (r : Request) (q : PortRec) (n
  : Nat), s.ready p 112 r q ∧ r.body = beBytes 1 n ∧ n ≤ 3 ∧ s.holder = none :=
  ⟨0, (vacant.asked 112 [3]), (request 112 [3]), vacant.ports[0], 3, by decide +kernel⟩

theorem witness_AuthorityAndPortRequestsTakeEffect_1_waiting : ∃ (p : Port) (s : State) (r : Request) (q : PortRec) (n
  : Nat), s.ready p 112 r q ∧ r.body = beBytes 1 n ∧ n ≤ 3 ∧ s.holder = some 1 :=
  ⟨0, (heldByOne.asked 112 [3]), (request 112 [3]), heldByOne.ports[0], 3, by decide +kernel⟩

theorem witness_AuthorityAndPortRequestsTakeEffect_2 : ∃ (p : Port) (s : State) (r : Request) (q : PortRec), s.ready p
  113 r q ∧ r.body = [] ∧ s.waitList = [] :=
  ⟨0, (up.asked 113 []), (request 113 []), up.ports[0], by decide +kernel⟩

theorem witness_AuthorityAndPortRequestsTakeEffect_2_to_a_waiter : ∃ (p : Port) (s : State) (r : Request) (q :
  PortRec), s.ready p 113 r q ∧ r.body = [] ∧ s.holder = some p ∧ s.waitList = [⟨1, 3⟩] :=
  ⟨0, (waiting.asked 113 []), (request 113 []), waiting.ports[0], by decide +kernel⟩

theorem witness_AuthorityAndPortRequestsTakeEffect_3 : ∃ (p : Port) (s : State) (r : Request) (q : PortRec) (segment
  silence : Nat), s.ready p 114 r q ∧ r.body = 3 :: beBytes 4 segment ++ beBytes 4 silence ∧ 16 ≤ segment ∧ segment ≤
  256 ∧ 1 ≤ silence ∧ silence ≤ 60 :=
  ⟨0, (up.asked 114 [3, 0, 0, 1, 0, 0, 0, 0, 60]), (request 114 [3, 0, 0, 1, 0, 0, 0, 0, 60]), up.ports[0], 256, 60,
    by decide +kernel⟩

theorem witness_RefusedRequestsHaveNoEffect_1 : ∃ (p : Port) (s : State) (r : Request) (q : PortRec),
  (s.ports[p]).oldest = some (r, q) ∧ (s.ports[p]).replies.length < 4 ∧ requestCommand p r.code.toNat =
  .unknownRequest p :=
  ⟨0, (up.asked 255 [1, 2]), (request 255 [1, 2]), up.ports[0], by decide +kernel⟩

theorem witness_RefusedRequestsHaveNoEffect_2_of_the_holder : ∃ (p : Port) (s : State) (r : Request) (q : PortRec)
  (code : Nat), s.ready p code r q ∧ (code, true) ∈ [(16, (parseEmpty r.body).isNone), (17, (parseEmpty
  r.body).isNone), (18, (parseTimeStep r.body).isNone), (19, (parseLeapSet r.body).isNone), (32, (parseOffsetReport
  r.body).isNone), (33, (parseRefSet r.body).isNone), (34, (parseOneOrAll r.body).isNone), (35, (parseSelectSet
  r.body).isNone), (36, (parseSelectForce r.body).isNone), (48, (parseLoopSet r.body).isNone), (49, (parseCount
  r.body).isNone), (50, s.holder = some p && (parseRestore r.body).isNone), (51, s.holder = some p && r.body ≠ [0] &&
  r.body ≠ [1]), (64, (parseOutputAssign r.body).isNone), (65, (parseEntryDefine r.body).isNone), (66,
  (parseEntryChange r.body).isNone), (67, r.body.length ≠ 1), (68, r.body.length ≠ 1), (69, r.body.length ≠ 1), (70,
  (parseOneOrAll r.body).isNone), (80, (parseProfileSet r.body).isNone), (81, (parseDropSet r.body).isNone), (82,
  (parseOneOrAll r.body).isNone), (96, (parseAlarmSeverity r.body).isNone), (97, (parseAlarmRead r.body).isNone), (99,
  (parseAlarmMask r.body).isNone), (100, (parseCount r.body).isNone), (112, r.body.length ≠ 1), (113, r.body ≠ []),
  (114, (parsePortSet r.body).isNone)] ∧ s.holder = some p :=
  ⟨0, (up.asked 50 [0]), (request 50 [0]), up.ports[0], 50, by decide +kernel⟩

theorem witness_RefusedRequestsHaveNoEffect_2_open_to_all : ∃ (p : Port) (s : State) (r : Request) (q : PortRec) (code
  : Nat), s.ready p code r q ∧ (code, true) ∈ [(16, (parseEmpty r.body).isNone), (17, (parseEmpty r.body).isNone),
  (18, (parseTimeStep r.body).isNone), (19, (parseLeapSet r.body).isNone), (32, (parseOffsetReport r.body).isNone),
  (33, (parseRefSet r.body).isNone), (34, (parseOneOrAll r.body).isNone), (35, (parseSelectSet r.body).isNone), (36,
  (parseSelectForce r.body).isNone), (48, (parseLoopSet r.body).isNone), (49, (parseCount r.body).isNone), (50,
  s.holder = some p && (parseRestore r.body).isNone), (51, s.holder = some p && r.body ≠ [0] && r.body ≠ [1]), (64,
  (parseOutputAssign r.body).isNone), (65, (parseEntryDefine r.body).isNone), (66, (parseEntryChange r.body).isNone),
  (67, r.body.length ≠ 1), (68, r.body.length ≠ 1), (69, r.body.length ≠ 1), (70, (parseOneOrAll r.body).isNone), (80,
  (parseProfileSet r.body).isNone), (81, (parseDropSet r.body).isNone), (82, (parseOneOrAll r.body).isNone), (96,
  (parseAlarmSeverity r.body).isNone), (97, (parseAlarmRead r.body).isNone), (99, (parseAlarmMask r.body).isNone),
  (100, (parseCount r.body).isNone), (112, r.body.length ≠ 1), (113, r.body ≠ []), (114, (parsePortSet
  r.body).isNone)] :=
  ⟨0, (vacant.asked 16 [1]), (request 16 [1]), vacant.ports[0], 16, by decide +kernel⟩

theorem witness_RefusedRequestsHaveNoEffect_3_parsed : ∃ (p : Port) (s : State) (r : Request) (q : PortRec) (code :
  Nat) (parses : Bool), s.ready p code r q ∧ s.holder ≠ some p ∧ (code, parses) ∈ [(18, (parseTimeStep
  r.body).isSome), (19, (parseLeapSet r.body).isSome), (33, (parseRefSet r.body).isSome), (35, (parseSelectSet
  r.body).isSome), (36, (parseSelectForce r.body).isSome), (48, (parseLoopSet r.body).isSome), (50, true), (51, true),
  (64, (parseOutputAssign r.body).isSome), (80, (parseProfileSet r.body).isSome), (96, (parseAlarmSeverity
  r.body).isSome)] :=
  ⟨0, (vacant.asked 18 (beInt 8 5)), (request 18 (beInt 8 5)), vacant.ports[0], 18, true, by decide +kernel⟩

theorem witness_RefusedRequestsHaveNoEffect_3_malformed : ∃ (p : Port) (s : State) (r : Request) (q : PortRec) (code :
  Nat) (parses : Bool), s.ready p code r q ∧ s.holder ≠ some p ∧ (code, parses) ∈ [(18, (parseTimeStep
  r.body).isSome), (19, (parseLeapSet r.body).isSome), (33, (parseRefSet r.body).isSome), (35, (parseSelectSet
  r.body).isSome), (36, (parseSelectForce r.body).isSome), (48, (parseLoopSet r.body).isSome), (50, true), (51, true),
  (64, (parseOutputAssign r.body).isSome), (80, (parseProfileSet r.body).isSome), (96, (parseAlarmSeverity
  r.body).isSome)] :=
  ⟨0, (vacant.asked 35 [255]), (request 35 [255]), vacant.ports[0], 35, false, by decide +kernel⟩

theorem witness_RefusedRequestsHaveNoEffect_3_holder_first : ∃ (p : Port) (s : State) (r : Request) (q : PortRec)
  (code : Nat) (parses : Bool), s.ready p code r q ∧ s.holder ≠ some p ∧ (code, parses) ∈ [(18, (parseTimeStep
  r.body).isSome), (19, (parseLeapSet r.body).isSome), (33, (parseRefSet r.body).isSome), (35, (parseSelectSet
  r.body).isSome), (36, (parseSelectForce r.body).isSome), (48, (parseLoopSet r.body).isSome), (50, true), (51, true),
  (64, (parseOutputAssign r.body).isSome), (80, (parseProfileSet r.body).isSome), (96, (parseAlarmSeverity
  r.body).isSome)] :=
  ⟨0, (vacant.asked 51 [7]), (request 51 [7]), vacant.ports[0], 51, true, by decide +kernel⟩

theorem witness_BodiesRoundTrip : ∃ (parts : List PartSpec) (vs : List (Option (List Int))), partsFit parts vs = true
  :=
  ⟨[.need 1, .may 8 true, { form := .choice [(6, false), (2, true)], required := false }], [some [255], none, some [1,
    2 ^ 48 - 1, -1]], by decide +kernel⟩

end Sys2Proof.Tests
end

section
/-! Reference inputs and measurement (O22, O24 to O30, O49): the rules about the shared operations. -/

namespace Sys2Proof.Machine.ReferenceInputs

/-! ### Fields read through a frame -/

/-- A field outside the frame of a change is as it was. -/
theorem same_of_frame {fs : List Field} {s t : State} (h : OnlyChanges fs s t) (f : Field) (hf : f ∉ fs := by decide) :
    f.same s t := h f hf

theorem syncAlarms_frame (s : State) : OnlyChanges [.alarms, .views] s s.syncAlarms := by simp

section
variable (s : State)

@[simp] theorem syncAlarms_counter : s.syncAlarms.counter = s.counter := same_of_frame (syncAlarms_frame s) .counter
@[simp] theorem syncAlarms_secondOwed : s.syncAlarms.secondOwed = s.secondOwed :=
  same_of_frame (syncAlarms_frame s) .secondOwed
@[simp] theorem syncAlarms_osc : s.syncAlarms.osc = s.osc := same_of_frame (syncAlarms_frame s) .osc
@[simp] theorem syncAlarms_tb : s.syncAlarms.tb = s.tb := same_of_frame (syncAlarms_frame s) .tb
@[simp] theorem syncAlarms_loop : s.syncAlarms.loop = s.loop := same_of_frame (syncAlarms_frame s) .loop
@[simp] theorem syncAlarms_ta : s.syncAlarms.ta = s.ta := same_of_frame (syncAlarms_frame s) .ta
@[simp] theorem syncAlarms_fq : s.syncAlarms.fq = s.fq := same_of_frame (syncAlarms_frame s) .fq
@[simp] theorem syncAlarms_ofs : s.syncAlarms.ofs = s.ofs := same_of_frame (syncAlarms_frame s) .ofs
@[simp] theorem syncAlarms_refs : s.syncAlarms.refs = s.refs := same_of_frame (syncAlarms_frame s) .refs
@[simp] theorem syncAlarms_sel : s.syncAlarms.sel = s.sel := same_of_frame (syncAlarms_frame s) .sel
@[simp] theorem syncAlarms_ports : s.syncAlarms.ports = s.ports := same_of_frame (syncAlarms_frame s) .ports

end

theorem pass_frame (s : State) (e : Elapsed) : OnlyChanges Field.elapsed s (s.pass e) := by simp [Field.elapsed]

section
variable (s : State) (e : Elapsed)

@[simp] theorem pass_tb : (s.pass e).tb = s.tb := same_of_frame (pass_frame s e) .tb
@[simp] theorem pass_ta : (s.pass e).ta = s.ta := same_of_frame (pass_frame s e) .ta
@[simp] theorem pass_fq : (s.pass e).fq = s.fq := same_of_frame (pass_frame s e) .fq
@[simp] theorem pass_refs : (s.pass e).refs = s.refs := same_of_frame (pass_frame s e) .refs

end

theorem notifyAll_frame (s : State) (n : Notice) : OnlyChanges [.views] s (s.notifyAll n) := by simp

section
variable (s : State) (n : Notice)

@[simp] theorem notifyAll_tb : (s.notifyAll n).tb = s.tb := same_of_frame (notifyAll_frame s n) .tb
@[simp] theorem notifyAll_loop : (s.notifyAll n).loop = s.loop := same_of_frame (notifyAll_frame s n) .loop
@[simp] theorem notifyAll_sel : (s.notifyAll n).sel = s.sel := same_of_frame (notifyAll_frame s n) .sel

end

/-- What a report of the selection changes: the timebase, the loop and the holdover unit. -/
theorem changePhase_refs (s : State) (new : Option Slot) : (s.changePhase new).refs = s.refs :=
  same_of_frame (State.changePhase_only [.tb, .loop, .hold, .sel, .views] s s new (by decide) (by decide) (by decide)
    (by decide) (by decide) |>.mpr (OnlyChanges.refl _ s)) .refs

theorem changeAssist_refs (s : State) (new : Option Slot) : (s.changeAssist new).refs = s.refs :=
  same_of_frame (State.changeAssist_only [.tb, .loop, .hold, .sel, .views] s s new (by decide) (by decide) (by decide)
    (by decide) (by decide) |>.mpr (OnlyChanges.refl _ s)) .refs

theorem reevaluate_frame (s : State) :
    OnlyChanges [.tb, .loop, .hold, .refs, .sel, .views] s s.reevaluate := by simp

section
variable (s : State)

@[simp] theorem reevaluate_counter : s.reevaluate.counter = s.counter := same_of_frame (reevaluate_frame s) .counter
@[simp] theorem reevaluate_osc : s.reevaluate.osc = s.osc := same_of_frame (reevaluate_frame s) .osc
@[simp] theorem reevaluate_ta : s.reevaluate.ta = s.ta := same_of_frame (reevaluate_frame s) .ta
@[simp] theorem reevaluate_fq : s.reevaluate.fq = s.fq := same_of_frame (reevaluate_frame s) .fq
@[simp] theorem reevaluate_ofs : s.reevaluate.ofs = s.ofs := same_of_frame (reevaluate_frame s) .ofs
@[simp] theorem reevaluate_ports : s.reevaluate.ports = s.ports := same_of_frame (reevaluate_frame s) .ports

end

/-- A re-evaluation changes nothing of a record but its candidate time (R57). -/
theorem reevaluate_ref (s : State) (i : Slot) :
    ∃ c, s.reevaluate.refs[i] = { s.refs[i] with candidateSince := c } := by
  have h : s.reevaluate.refs = s.refreshCandidates.refs := by
    rw [State.reevaluate, changeAssist_refs, changePhase_refs]
  rw [h, State.refreshCandidates, mapAll_get]
  split
  · split
    · exact ⟨_, rfl⟩
    · exact ⟨_, rfl⟩
  · exact ⟨_, rfl⟩

theorem takeMeasurement_frame (s : State) (m : Measurement) :
    OnlyChanges [.aligned, .conflicts, .tb, .loop, .hold, .refs, .sel, .views] s (s.takeMeasurement m) := by simp

section
variable (s : State) (m : Measurement)

@[simp] theorem takeMeasurement_counter : (s.takeMeasurement m).counter = s.counter :=
  same_of_frame (takeMeasurement_frame s m) .counter
@[simp] theorem takeMeasurement_osc : (s.takeMeasurement m).osc = s.osc :=
  same_of_frame (takeMeasurement_frame s m) .osc
@[simp] theorem takeMeasurement_ta : (s.takeMeasurement m).ta = s.ta := same_of_frame (takeMeasurement_frame s m) .ta
@[simp] theorem takeMeasurement_fq : (s.takeMeasurement m).fq = s.fq := same_of_frame (takeMeasurement_frame s m) .fq
@[simp] theorem takeMeasurement_ofs : (s.takeMeasurement m).ofs = s.ofs :=
  same_of_frame (takeMeasurement_frame s m) .ofs
@[simp] theorem takeMeasurement_ports : (s.takeMeasurement m).ports = s.ports :=
  same_of_frame (takeMeasurement_frame s m) .ports

end

/-! ### The timebase: states entered, and the pending step -/

/-- The state that a change of state sets. -/
@[simp] theorem setTbState_state (s : State) (x : TbState) : (s.setTbState x).tb.state = x := by
  unfold State.setTbState
  split
  · assumption
  · simp

@[simp] theorem setTbState_pendingStep (s : State) (x : TbState) :
    (s.setTbState x).tb.pendingStep = s.tb.pendingStep := by
  unfold State.setTbState
  split <;> simp

/-- A new grade is the timebase's only change. -/
theorem regrade_tb (s : State) : s.regrade.tb = { s.tb with grade := s.gradeOf } := by
  unfold State.regrade
  split
  · next h => rw [h]
  · simp

@[simp] theorem regrade_state (s : State) : s.regrade.tb.state = s.tb.state := by simp [regrade_tb]
@[simp] theorem regrade_pendingStep (s : State) : s.regrade.tb.pendingStep = s.tb.pendingStep := by simp [regrade_tb]

@[simp] theorem closeEpisode_tb (s : State) (c : TbState) : (s.closeEpisode c).tb = { s.tb with episode := none } := by
  unfold State.closeEpisode
  split
  · split <;> rfl
  · rfl

@[simp] theorem setClass_tb (s : State) (c : Nat) : (s.setClass c).tb = s.tb := by
  unfold State.setClass
  split <;> rfl

@[simp] theorem loadLoop_tb (s : State) : s.loadLoop.tb = s.tb := by
  unfold State.loadLoop
  split <;> rfl

@[simp] theorem beginEpisode_state (s : State) : s.beginEpisode.tb.state = s.tb.state := by
  unfold State.beginEpisode
  split
  · rfl
  · split <;> rfl

@[simp] theorem beginEpisode_pendingStep (s : State) : s.beginEpisode.tb.pendingStep = s.tb.pendingStep := by
  unfold State.beginEpisode
  split
  · rfl
  · split <;> rfl

/-- From one state to the other FAULT is neither entered nor left, and the pending step is kept or dropped. -/
structure KeepsFaultAndStep (s t : State) : Prop where
  fault : t.tb.state = .fault ↔ s.tb.state = .fault
  step : t.tb.pendingStep = s.tb.pendingStep ∨ t.tb.pendingStep = none

namespace KeepsFaultAndStep

theorem of_tb {s t : State} (h : t.tb = s.tb) : KeepsFaultAndStep s t := by
  constructor
  · rw [h]
  · exact .inl (by rw [h])

theorem refl (s : State) : KeepsFaultAndStep s s := of_tb rfl

theorem trans {s t u : State} (h : KeepsFaultAndStep s t) (k : KeepsFaultAndStep t u) : KeepsFaultAndStep s u := by
  refine ⟨k.fault.trans h.fault, ?_⟩
  rcases k.step with k | k
  · rw [k]
    exact h.step
  · exact .inr k

/-- An entry to a state other than FAULT, from one other than FAULT. -/
theorem of_entry {s t : State} {x : TbState} (hs : s.tb.state ≠ .fault) (ht : t.tb.state = x) (hx : x ≠ .fault)
    (h : t.tb.pendingStep = s.tb.pendingStep ∨ t.tb.pendingStep = none) : KeepsFaultAndStep s t :=
  ⟨⟨fun hf => absurd (ht ▸ hf) hx, fun hf => absurd hf hs⟩, h⟩

end KeepsFaultAndStep

theorem dropLoopStep_keeps (s : State) : KeepsFaultAndStep s s.dropLoopStep := by
  unfold State.dropLoopStep
  split
  · split
    · exact .refl s
    · exact ⟨Iff.rfl, .inr rfl⟩
  · exact .refl s

/-- Leaving a state keeps or drops the pending step (R20). -/
theorem leaveState_keeps (s : State) : KeepsFaultAndStep s s.leaveState := by
  unfold State.leaveState
  split
  case h_2 => exact .trans (t := s.setTb { s.tb with heldGrade := none }) ⟨Iff.rfl, .inl rfl⟩ (dropLoopStep_keeps _)
  all_goals exact ⟨Iff.rfl, .inl rfl⟩

@[simp] theorem enterFreerun_state (s : State) : s.enterFreerun.tb.state = .freerun := by simp [State.enterFreerun]
@[simp] theorem reacquire_state (s : State) : s.reacquire.tb.state = .acquiring := by simp [State.reacquire]
@[simp] theorem acquire_state (s : State) : s.acquire.tb.state = .acquiring := by simp [State.acquire]
@[simp] theorem enterLocked_state (s : State) : s.enterLocked.tb.state = .locked := by simp [State.enterLocked]
@[simp] theorem enterAssisted_state (s : State) : s.enterAssisted.tb.state = .assisted := by
  simp [State.enterAssisted]
@[simp] theorem enterHoldover_state (s : State) : s.enterHoldover.tb.state = .holdover := by
  simp [State.enterHoldover]

section
variable {s : State}

theorem enterFreerun_keeps (h : s.tb.state ≠ .fault) : KeepsFaultAndStep s s.enterFreerun :=
  .of_entry h (enterFreerun_state s) (by decide)
    (by simpa [State.enterFreerun, State.loopReleased] using (leaveState_keeps s).step)

theorem reacquire_keeps (h : s.tb.state ≠ .fault) : KeepsFaultAndStep s s.reacquire :=
  .of_entry h (reacquire_state s) (by decide)
    (by simpa [State.reacquire, State.emptyStaging] using (leaveState_keeps s).step)

theorem acquire_keeps (h : s.tb.state ≠ .fault) : KeepsFaultAndStep s s.acquire :=
  .of_entry h (acquire_state s) (by decide)
    (by simpa [State.acquire, State.emptyStaging, State.steerByLoop] using (leaveState_keeps s.loadLoop).step)

theorem enterLocked_keeps (h : s.tb.state ≠ .fault) : KeepsFaultAndStep s s.enterLocked :=
  .of_entry h (enterLocked_state s) (by decide) (by simpa [State.enterLocked] using (leaveState_keeps s).step)

theorem enterAssisted_keeps (h : s.tb.state ≠ .fault) : KeepsFaultAndStep s s.enterAssisted :=
  .of_entry h (enterAssisted_state s) (by decide)
    (by simpa [State.enterAssisted, State.emptyStaging, State.steerByLoop] using
      (leaveState_keeps s.beginEpisode.loadLoop).step)

theorem enterHoldover_keeps (h : s.tb.state ≠ .fault) : KeepsFaultAndStep s s.enterHoldover :=
  .of_entry h (enterHoldover_state s) (by decide)
    (by simpa [State.enterHoldover, State.loopReleased] using (leaveState_keeps s.beginEpisode).step)

end

theorem phaseGone_keeps (s : State) : KeepsFaultAndStep s s.phaseGone := by
  unfold State.phaseGone
  split
  · next h =>
    have hs : s.tb.state ≠ .fault := by rcases h with h | h <;> simp [h]
    split
    · exact enterAssisted_keeps hs
    · split
      · exact enterHoldover_keeps hs
      · exact enterFreerun_keeps hs
  · exact .refl s

theorem freerunTests_keeps (s : State) : KeepsFaultAndStep s s.freerunTests := by
  unfold State.freerunTests
  split
  · next h =>
    have hs : s.tb.state ≠ .fault := by simp [h]
    split
    · exact acquire_keeps hs
    · split
      · exact enterAssisted_keeps hs
      · exact .refl s
  · exact .refl s

theorem phaseSelected_keeps (s : State) : KeepsFaultAndStep s s.phaseSelected := by
  unfold State.phaseSelected
  split
  · next h => exact acquire_keeps (by rcases h.1 with h | h | h <;> simp [h])
  · exact .refl s

theorem phaseSwitched_keeps (s : State) : KeepsFaultAndStep s s.phaseSwitched := by
  unfold State.phaseSwitched
  split
  · next h => exact reacquire_keeps (by simp [h])
  · split
    · exact .of_tb rfl
    · exact .refl s

theorem assistAppeared_keeps (s : State) : KeepsFaultAndStep s s.assistAppeared := by
  unfold State.assistAppeared
  split
  · next h => exact enterAssisted_keeps (by simp [h])
  · exact freerunTests_keeps s

theorem assistLost_keeps (s : State) : KeepsFaultAndStep s s.assistLost := by
  unfold State.assistLost
  split
  · next h => exact enterHoldover_keeps (by simp [h])
  · exact .refl s

theorem assistChanged_keeps (s : State) : KeepsFaultAndStep s s.assistChanged := by
  unfold State.assistChanged
  split
  · exact .of_tb rfl
  · exact .refl s

theorem changePhase_keeps (s : State) (new : Option Slot) : KeepsFaultAndStep s (s.changePhase new) := by
  unfold State.changePhase
  split
  · exact .refl s
  · have h : KeepsFaultAndStep s ((((s.setSel { s.sel with phase := new }).disturb).dropLoopStep).notifyAll
        (s.notice .refSwitched 0 (slotCode s.sel.phase) (slotCode new))) :=
      .trans (t := (s.setSel { s.sel with phase := new }).disturb) (.of_tb rfl)
        (.trans (dropLoopStep_keeps _) (.of_tb (notifyAll_tb _ _)))
    dsimp only
    split
    · exact h.trans (phaseSelected_keeps _)
    · exact h.trans (phaseSwitched_keeps _)
    · exact h.trans (phaseGone_keeps _)
    · exact h

theorem changeAssist_keeps (s : State) (new : Option Slot) : KeepsFaultAndStep s (s.changeAssist new) := by
  unfold State.changeAssist
  split
  · exact .refl s
  · have h : KeepsFaultAndStep s ((s.setSel { s.sel with assist := new }).notifyAll
        (s.notice .refSwitched 1 (slotCode s.sel.assist) (slotCode new))) :=
      .of_tb (notifyAll_tb _ _)
    dsimp only
    split
    · exact h.trans (assistAppeared_keeps _)
    · exact h.trans (assistChanged_keeps _)
    · exact h.trans (assistLost_keeps _)
    · exact h

/-- A re-evaluation neither enters nor leaves FAULT, and makes no pending step. -/
theorem reevaluate_keeps (s : State) : KeepsFaultAndStep s s.reevaluate :=
  .trans (t := s.refreshCandidates) (.of_tb rfl) (.trans (changePhase_keeps _ _) (changeAssist_keeps _ _))

end Sys2Proof.Machine.ReferenceInputs
end

section
/-! Reference inputs and measurement: what a measurement and a change of activity do to the records. -/

namespace Sys2Proof.Machine.ReferenceInputs

/-! ### Records moved -/

/-- A record that leaves QUALIFIED clears its pairs, which no record holds (R67). -/
@[simp] theorem moveRef_refs (s : State) (i : Slot) (r : RefRecord) : (s.moveRef i r).refs = (s.setRef i r).refs := by
  unfold State.moveRef
  split
  · exact forEach_keeps 8 _ _ State.refs fun _ _ => rfl
  · rfl

theorem moveRef_frame (s : State) (i : Slot) (r : RefRecord) :
    OnlyChanges [.refs, .conflicts] s (s.moveRef i r) := by simp

/-- What a record becomes when its activity is lost (R51). -/
def absentRecord (r : RefRecord) : RefRecord :=
  { r with state := .absent, streak := 0, holdoff := none, qualifiedSince := none, candidateSince := none }

/-- Activity lost takes a record that has activity to ABSENT, with a re-evaluation (R51). -/
theorem activityLost_of_active (s : State) (i : Slot) (hd : (s.refs[i]).state ≠ .disabled)
    (ha : (s.refs[i]).state ≠ .absent) :
    s.activityLost i = (s.moveRef i (absentRecord s.refs[i])).reevaluate := by
  unfold State.activityLost
  split
  · contradiction
  · contradiction
  all_goals rfl

/-- A record that is DISABLED or ABSENT has no activity to lose (R51). -/
theorem activityLost_of_inactive (s : State) (i : Slot)
    (h : (s.refs[i]).state = .disabled ∨ (s.refs[i]).state = .absent) : s.activityLost i = s := by
  unfold State.activityLost
  rcases h with h | h <;> simp only [h]

theorem activityLost_frame (s : State) (i : Slot) :
    OnlyChanges [.conflicts, .tb, .loop, .hold, .refs, .sel, .views] s (s.activityLost i) := by simp

theorem activityPresent_frame (s : State) (i : Slot) :
    OnlyChanges [.tb, .loop, .hold, .refs, .sel, .views] s (s.activityPresent i) := by simp

section
variable (s : State) (i : Slot)

@[simp] theorem activityPresent_counter : (s.activityPresent i).counter = s.counter :=
  same_of_frame (activityPresent_frame s i) .counter
@[simp] theorem activityPresent_osc : (s.activityPresent i).osc = s.osc :=
  same_of_frame (activityPresent_frame s i) .osc
@[simp] theorem activityPresent_ta : (s.activityPresent i).ta = s.ta := same_of_frame (activityPresent_frame s i) .ta
@[simp] theorem activityPresent_fq : (s.activityPresent i).fq = s.fq := same_of_frame (activityPresent_frame s i) .fq
@[simp] theorem activityPresent_ofs : (s.activityPresent i).ofs = s.ofs :=
  same_of_frame (activityPresent_frame s i) .ofs
@[simp] theorem activityPresent_ports : (s.activityPresent i).ports = s.ports :=
  same_of_frame (activityPresent_frame s i) .ports

end

theorem activityPresent_keeps (s : State) (i : Slot) : KeepsFaultAndStep s (s.activityPresent i) := by
  unfold State.activityPresent
  split
  · refine .trans ?_ (reevaluate_keeps _)
    exact .of_tb rfl
  · exact .refl s

/-- Activity that is not ABSENT changes nothing (R51). -/
theorem activityPresent_of_active (s : State) (i : Slot) (h : (s.refs[i]).state ≠ .absent) :
    s.activityPresent i = s := by
  unfold State.activityPresent
  exact if_neg h

/-- A record with activity present is in a state that is scored, unless it is DISABLED (R50, R51). -/
theorem activityPresent_scored (s : State) (i : Slot) (h : (s.refs[i]).state ≠ .disabled) :
    ((s.activityPresent i).refs[i]).scored = true := by
  unfold State.activityPresent
  split
  · obtain ⟨c, hc⟩ := reevaluate_ref (s.setRef i { s.refs[i] with state := .qualifying, streak := 0 }) i
    rw [hc, State.setRef_self]
    rfl
  · next ha => simp only [RefRecord.scored, h, ha, ne_eq, not_false_eq_true, decide_true, Bool.and_self]

/-! ### What later work leaves of a score -/

/-- Two records agree in their latest measurement and in what its score counted; the streak may have gone. -/
structure SameMeasured (a b : RefRecord) : Prop where
  enabled : b.enabled = a.enabled
  latest : b.latest = a.latest
  goodCount : b.goodCount = a.goodCount
  badCount : b.badCount = a.badCount
  rankQuality : b.rankQuality = a.rankQuality
  streak : b.streak = a.streak ∨ b.streak = 0

namespace SameMeasured

theorem refl (a : RefRecord) : SameMeasured a a := ⟨rfl, rfl, rfl, rfl, rfl, .inl rfl⟩

theorem trans {a b c : RefRecord} (h : SameMeasured a b) (k : SameMeasured b c) : SameMeasured a c where
  enabled := k.enabled.trans h.enabled
  latest := k.latest.trans h.latest
  goodCount := k.goodCount.trans h.goodCount
  badCount := k.badCount.trans h.badCount
  rankQuality := k.rankQuality.trans h.rankQuality
  streak := by
    rcases k.streak with k | k
    · rw [k]
      exact h.streak
    · exact .inr k

end SameMeasured

/-- Every record of the second state agrees so with that of the first. -/
def KeepsMeasured (s t : State) : Prop := ∀ i : Slot, SameMeasured s.refs[i] t.refs[i]

namespace KeepsMeasured

theorem of_refs {s t : State} (h : t.refs = s.refs) : KeepsMeasured s t := fun i => by
  rw [h]
  exact .refl _

theorem refl (s : State) : KeepsMeasured s s := of_refs rfl

theorem trans {s t u : State} (h : KeepsMeasured s t) (k : KeepsMeasured t u) : KeepsMeasured s u :=
  fun i => (h i).trans (k i)

theorem setRef {s : State} {i : Slot} {r : RefRecord} (h : SameMeasured s.refs[i] r) :
    KeepsMeasured s (s.setRef i r) := fun j => by
  by_cases hj : j = i
  · subst hj
    rw [State.setRef_self]
    exact h
  · rw [State.setRef_other s i j r hj]
    exact .refl _

theorem moveRef {s : State} {i : Slot} {r : RefRecord} (h : SameMeasured s.refs[i] r) :
    KeepsMeasured s (s.moveRef i r) :=
  (setRef h).trans (of_refs (moveRef_refs s i r))

/-- A loop keeps the measurements when each of its turns does. -/
theorem forEach {s t : State} {n : Nat} {f : Fin n → State → State} (h : KeepsMeasured s t)
    (hf : ∀ i u, KeepsMeasured u (f i u)) : KeepsMeasured s (Machine.forEach n t f) :=
  forEach_invariant n t f (KeepsMeasured s) (fun i u hu => hu.trans (hf i u)) h

end KeepsMeasured

theorem testQualified_measured (s : State) (i : Slot) : KeepsMeasured s (s.testQualified i) := by
  unfold State.testQualified
  split
  · exact .moveRef ⟨rfl, rfl, rfl, rfl, rfl, .inl rfl⟩
  · exact .refl s

theorem testQualifying_measured (s : State) (i : Slot) : KeepsMeasured s (s.testQualifying i) := by
  unfold State.testQualifying
  split
  · exact .setRef ⟨rfl, rfl, rfl, rfl, rfl, .inl rfl⟩
  · exact .refl s

theorem comparePair_measured (s : State) (i j : Slot) : KeepsMeasured s (s.comparePair i j) := by
  unfold State.comparePair
  split
  · split
    · split
      · exact .setRef ⟨rfl, rfl, rfl, rfl, rfl, .inl rfl⟩
      · exact .refl s
    · exact .refl s
  · exact .refl s

theorem pairingStep_measured (s : State) (m : Measurement) : KeepsMeasured s (s.pairingStep m) := by
  unfold State.pairingStep
  split
  · split
    · refine .forEach (.setRef ⟨rfl, rfl, rfl, rfl, rfl, .inl rfl⟩) fun j u => ?_
      split
      · exact .refl u
      · exact (comparePair_measured u m.slot j).trans (comparePair_measured _ j m.slot)
    · exact .refl s
  · exact .refl s

theorem charge_measured (s : State) (i : Slot) : KeepsMeasured s (s.charge i) := by
  refine .trans ?_ (testQualified_measured _ i)
  exact .setRef ⟨rfl, rfl, rfl, rfl, rfl, .inr rfl⟩

theorem compareLabels_measured (s : State) (i j : Slot) (sec : Nat) (agree : Bool) :
    KeepsMeasured s (s.compareLabels i j sec agree) := by
  unfold State.compareLabels
  dsimp only
  split
  · exact .refl s
  · split
    · refine .trans ?_ (charge_measured _ _)
      exact .of_refs rfl
    · exact .of_refs rfl

theorem labelStep_measured (s : State) (m : Measurement) : KeepsMeasured s (s.labelStep m) := by
  unfold State.labelStep
  split
  · split
    · refine .forEach (.setRef ⟨rfl, rfl, rfl, rfl, rfl, .inl rfl⟩) fun j u => ?_
      split
      · split
        · split
          · exact compareLabels_measured u m.slot j _ _
          · exact .refl u
        · exact .refl u
      · exact .refl u
    · exact .refl s
  · exact .refl s

theorem reevaluate_measured (s : State) : KeepsMeasured s s.reevaluate := fun i => by
  obtain ⟨c, hc⟩ := reevaluate_ref s i
  rw [hc]
  exact ⟨rfl, rfl, rfl, rfl, rfl, .inl rfl⟩

theorem activityPresent_measured (s : State) (i : Slot) : KeepsMeasured s (s.activityPresent i) := by
  unfold State.activityPresent
  split
  · refine .trans ?_ (reevaluate_measured _)
    exact .setRef ⟨rfl, rfl, rfl, rfl, rfl, .inr rfl⟩
  · exact .refl s

/-! ### A measurement taken -/

/-- A record with a measurement scored in it (R50), before the test of its state. -/
def scoredRecord (r : RefRecord) (m : Measurement) : RefRecord :=
  if RefRecord.scored { r with latest := some m } then
    if m.causes = [] then RefRecord.scoreGood { r with latest := some m } m.quality
    else RefRecord.scoreBad { r with latest := some m }
  else { r with latest := some m }

@[simp] theorem scoredRecord_latest (r : RefRecord) (m : Measurement) : (scoredRecord r m).latest = some m := by
  unfold scoredRecord
  split
  · split <;> rfl
  · rfl

theorem scoredRecord_good {r : RefRecord} {m : Measurement} (hs : r.scored = true) (hm : m.causes = []) :
    scoredRecord r m = RefRecord.scoreGood { r with latest := some m } m.quality := by
  unfold scoredRecord
  rw [if_pos (show RefRecord.scored { r with latest := some m } = true from hs), if_pos hm]

theorem scoredRecord_bad {r : RefRecord} {m : Measurement} (hs : r.scored = true) (hm : m.causes ≠ []) :
    scoredRecord r m = RefRecord.scoreBad { r with latest := some m } := by
  unfold scoredRecord
  rw [if_pos (show RefRecord.scored { r with latest := some m } = true from hs), if_neg hm]

/-- The scored record is set, and its state is tested. -/
theorem score_measured (s : State) (m : Measurement) :
    KeepsMeasured (s.setRef m.slot (scoredRecord s.refs[m.slot] m)) (s.score m) := by
  unfold State.score scoredRecord
  dsimp only
  split
  · split
    · exact testQualifying_measured _ _
    · exact testQualified_measured _ _
  · exact .refl _

theorem handOn_refs (s : State) (m : Measurement) : (s.handOn m).refs = s.refs :=
  same_of_frame (State.handOn_only [.tb, .loop, .hold, .aligned, .views] s s m (by decide) (by decide) (by decide)
    (by decide) (by decide) |>.mpr (OnlyChanges.refl _ s)) .refs

/-- A measurement of an enabled record, taken whole: its record holds what the score gives (R50, R66). -/
theorem takeMeasurement_measured (s : State) (m : Measurement) (he : (s.refs[m.slot]).enabled = true) :
    SameMeasured (scoredRecord s.refs[m.slot] m) (s.takeMeasurement m).refs[m.slot] := by
  have h : KeepsMeasured (s.setRef m.slot (scoredRecord s.refs[m.slot] m)) (s.takeMeasurement m) := by
    unfold State.takeMeasurement
    rw [if_pos he]
    exact (score_measured s m).trans <| (pairingStep_measured _ m).trans <| (labelStep_measured _ m).trans <|
      (reevaluate_measured _).trans (.of_refs (handOn_refs _ m))
  have hm := h m.slot
  rwa [State.setRef_self] at hm

/-- Its measurement is the record's latest. -/
theorem takeMeasurement_latest (s : State) (m : Measurement) (he : (s.refs[m.slot]).enabled = true) :
    ((s.takeMeasurement m).refs[m.slot]).latest = some m := by
  rw [(takeMeasurement_measured s m he).latest, scoredRecord_latest]

end Sys2Proof.Machine.ReferenceInputs
end

section
/-! Reference inputs and measurement: edges of the FQ inputs, and the activity timers. -/

namespace Sys2Proof.Machine.ReferenceInputs

/-! ### FQ edges (O30) -/

/-- An FQ input with its activity timer restarted: one second of monitor time (R40). -/
def restartedFq (x : FqInput) (now : Nat) : FqInput := { x with timer := some (now + 1000000000) }

/-- Edges on an input whose record is not enabled do nothing (R25). -/
theorem fqEdges_disabled (s : State) (i : InputIx) (n : Nat) (h : s.fqEnabled i = false) : s.fqEdges i n = s := by
  simp [State.fqEdges, h]

section
variable {s : State} {i : InputIx} {n : Nat}

/-- In FAULT edges restart the activity timer alone (R45). -/
theorem fqEdges_fault (hn : 0 < n) (he : s.fqEnabled i = true) (hf : s.tb.state = .fault) :
    s.fqEdges i n = s.setFq i (restartedFq s.fq[i] s.osc.now) := by
  rw [State.fqEdges, if_neg (by simp [he, hn.ne'])]
  exact if_pos hf

/-- Outside FAULT they are counted too, at the reading rounded down (R36, R40). -/
theorem fqEdges_counted (hn : 0 < n) (he : s.fqEnabled i = true) (hf : s.tb.state ≠ .fault) :
    s.fqEdges i n = s.setFq i ((restartedFq s.fq[i] s.osc.now).countEdges n (s.counter.instant / 125 * 125)) := by
  rw [State.fqEdges, if_neg (by simp [he, hn.ne'])]
  exact if_neg hf

end

/-- What the count of edges leaves of an input (R36). -/
theorem countEdges_leaves (x : FqInput) (n at_ : Nat) :
    (x.countEdges n at_).timer = x.timer ∧ (x.countEdges n at_).params = x.params ∧
      (x.countEdges n at_).origin = x.origin ∧ (x.countEdges n at_).phis = x.phis := by
  unfold FqInput.countEdges
  split <;> exact ⟨rfl, rfl, rfl, rfl⟩

/-- What the count of edges does in each stage of an input (R36). -/
theorem countEdges_stages (x : FqInput) (n at_ : Nat) :
    (x.stage = .lost → (x.countEdges n at_).stage = .waiting ∧ (x.countEdges n at_).count = x.count) ∧
      (x.stage = .waiting → (x.countEdges n at_).stage = .waiting ∧ (x.countEdges n at_).count = x.count) ∧
      (x.stage = .opening ∨ x.stage = .running → (x.countEdges n at_).stage = x.stage ∧
        (x.countEdges n at_).count = x.count + n ∧ (x.countEdges n at_).lastEdge = some at_) ∧
      (x.stage = .opening → (x.countEdges n at_).total = x.total) ∧
      (x.stage = .running → (x.countEdges n at_).total = x.total + n) := by
  unfold FqInput.countEdges
  split <;> simp [*]

/-- Settles O30: by whether the record is enabled, whether the timebase is in FAULT, and the stage of the input. -/
theorem fqEdgesAreCounted : Obligations.FqEdgesAreCounted := by
  unfold Obligations.FqEdgesAreCounted
  rintro e i n s u rfl hn
  have frame : OnlyChanges [.fq] (s.pass e) ((s.pass e).fqEdges i n) := by simp
  refine ⟨_, rfl, same_of_frame frame .counter, same_of_frame frame .osc, fun hd => ?_, fun he => ?_, by
    simp [Field.elapsed]⟩
  · rw [fqEdges_disabled (s.pass e) i n (by rwa [State.fqEnabled, pass_refs]), pass_fq]
  · have he' : (s.pass e).fqEnabled i = true := by rwa [State.fqEnabled, pass_refs]
    by_cases hf : s.tb.state = .fault
    · rw [fqEdges_fault hn he' (by rwa [pass_tb]), State.setFq_self, pass_fq]
      exact ⟨rfl, rfl, rfl, rfl, fun _ => ⟨rfl, rfl⟩, fun h => absurd hf h⟩
    · rw [fqEdges_counted hn he' (by rwa [pass_tb]), State.setFq_self, pass_fq]
      obtain ⟨ht, hp, ho, hφ⟩ := countEdges_leaves (restartedFq s.fq[i] (s.pass e).osc.now) n
        ((s.pass e).counter.instant / 125 * 125)
      exact ⟨ht, hp, ho, hφ, fun h => absurd h hf,
        fun _ => countEdges_stages (restartedFq s.fq[i] (s.pass e).osc.now) n _⟩

/-! ### Activity timers (O29) -/

@[simp] theorem reachMonitor_refs (s : State) (d : Nat) : (s.reachMonitor d).refs = s.refs := rfl
@[simp] theorem reachMonitor_ta (s : State) (d : Nat) : (s.reachMonitor d).ta = s.ta := rfl
@[simp] theorem reachMonitor_fq (s : State) (d : Nat) : (s.reachMonitor d).fq = s.fq := rfl
@[simp] theorem reachMonitor_ofs (s : State) (d : Nat) : (s.reachMonitor d).ofs = s.ofs := rfl

/-- The record of a slot after its activity is lost (R51): ABSENT, with its score. -/
structure LostRecord (a b : RefRecord) : Prop where
  score : b.score = a.score
  absent : a.state ≠ .disabled → b.state = .absent
  disabled : a.state = .disabled → b.state = .disabled
  cleared : a.state ≠ .disabled ∧ a.state ≠ .absent → b.streak = 0 ∧ b.holdoff = none ∧ b.qualifiedSince = none

/-- Activity lost takes its slot's record to ABSENT and leaves the state and score of every other (R51). -/
theorem activityLost_refs (s : State) (i : Slot) :
    LostRecord s.refs[i] (s.activityLost i).refs[i] ∧
      ∀ j : Slot, j ≠ i → ((s.activityLost i).refs[j]).state = (s.refs[j]).state ∧
        ((s.activityLost i).refs[j]).score = (s.refs[j]).score := by
  by_cases hi : (s.refs[i]).state = .disabled ∨ (s.refs[i]).state = .absent
  · rw [activityLost_of_inactive s i hi]
    refine ⟨⟨rfl, fun hd => ?_, id, fun h => ?_⟩, fun j _ => ⟨rfl, rfl⟩⟩
    · exact hi.resolve_left hd
    · exact absurd hi (not_or.mpr h)
  · obtain ⟨hd, ha⟩ := not_or.mp hi
    rw [activityLost_of_active s i hd ha]
    constructor
    · obtain ⟨c, hc⟩ := reevaluate_ref (s.moveRef i (absentRecord s.refs[i])) i
      rw [hc, moveRef_refs, State.setRef_self]
      exact ⟨rfl, fun _ => rfl, fun h => absurd h hd, fun _ => ⟨rfl, rfl, rfl⟩⟩
    · intro j hj
      obtain ⟨c, hc⟩ := reevaluate_ref (s.moveRef i (absentRecord s.refs[i])) j
      rw [hc, moveRef_refs, State.setRef_other _ _ _ _ hj]
      exact ⟨rfl, rfl⟩

section
variable (s : State) (i : Slot)

@[simp] theorem activityLost_osc : (s.activityLost i).osc = s.osc := same_of_frame (activityLost_frame s i) .osc
@[simp] theorem activityLost_ta : (s.activityLost i).ta = s.ta := same_of_frame (activityLost_frame s i) .ta
@[simp] theorem activityLost_fq : (s.activityLost i).fq = s.fq := same_of_frame (activityLost_frame s i) .fq
@[simp] theorem activityLost_ofs : (s.activityLost i).ofs = s.ofs := same_of_frame (activityLost_frame s i) .ofs

end

/-- A TA input after its activity timer has run out: its parameters, stray labels and label bytes remain (R33, R35). -/
def timedOutTa (x : TaInput) : TaInput :=
  { x with
    timer := none, active := false, prevEdge := none, jumpRef := none, jumpRun := 0, carried := false, period := none }

/-- An FQ input after its activity timer has run out (R40). -/
def timedOutFq (x : FqInput) : FqInput := { x.restart .lost with timer := none, active := false }

/-- An OF slot after its activity timer has run out (R43). -/
def timedOutOf (x : OfSlot) : OfSlot := { x with timer := none, active := false }

section
variable {s : State} {d : Nat}

theorem taTimeout_active {i : InputIx} (ht : (s.ta[i]).timer = some d) (ha : (s.ta[i]).active = true) :
    s.taTimeout i = ((s.reachMonitor d).setTa i (timedOutTa s.ta[i])).activityLost (Slot.ofTa i) := by
  unfold State.taTimeout
  simp only [ht]
  exact if_pos ha

theorem fqTimeout_active {i : InputIx} (ht : (s.fq[i]).timer = some d) (ha : (s.fq[i]).active = true) :
    s.fqTimeout i = ((s.reachMonitor d).setFq i (timedOutFq s.fq[i])).activityLost (Slot.ofFq i) := by
  unfold State.fqTimeout
  simp only [ht]
  exact if_pos ha

theorem ofTimeout_active {p : Port} (ht : (s.ofs[p]).timer = some d) (ha : (s.ofs[p]).active = true) :
    s.ofTimeout p = ((s.reachMonitor d).setOf p (timedOutOf s.ofs[p])).activityLost (Slot.ofPort p) := by
  unfold State.ofTimeout
  simp only [ht]
  exact if_pos ha

end

/-- The timeout of any input: monitor time stands at the timer's end, and `v` holds the input as the timeout leaves it. -/
theorem timeout_refs (s : State) (d : Nat) (slot : Slot) (v : State) (hr : v.refs = s.refs)
    (ho : v.osc = (s.reachMonitor d).osc) :
    (v.activityLost slot).syncAlarms.osc.now = max s.osc.now d ∧
      LostRecord s.refs[slot] (v.activityLost slot).syncAlarms.refs[slot] ∧
      ∀ j : Slot, j ≠ slot → ((v.activityLost slot).syncAlarms.refs[j]).state = (s.refs[j]).state ∧
        ((v.activityLost slot).syncAlarms.refs[j]).score = (s.refs[j]).score := by
  obtain ⟨hl, hj⟩ := activityLost_refs v slot
  rw [syncAlarms_osc, activityLost_osc, ho, State.reachMonitor_now, syncAlarms_refs, ← hr]
  exact ⟨rfl, hl, hj⟩

/-- Settles O29: the record's part is that of `activityLost` for all three kinds of input. -/
theorem activityTimeoutTakesRecordToAbsent : Obligations.ActivityTimeoutTakesRecordToAbsent := by
  unfold Obligations.ActivityTimeoutTakesRecordToAbsent
  rintro s d c slot (⟨i, rfl, rfl, ht, ha⟩ | ⟨i, rfl, rfl, ht, ha⟩ | ⟨p, rfl, rfl, ht, ha⟩)
  · refine ⟨(s.taTimeout i).syncAlarms, rfl, ?_⟩
    rw [taTimeout_active ht ha]
    obtain ⟨hn, ⟨hs, hab, hdi, hcl⟩, hj⟩ :=
      timeout_refs s d (Slot.ofTa i) ((s.reachMonitor d).setTa i (timedOutTa s.ta[i])) rfl rfl
    refine ⟨hn, hs, hab, hdi, hcl, hj, ?_, by simp, by simp⟩
    rintro j ⟨rfl⟩
    rw [syncAlarms_ta, activityLost_ta, State.setTa_self]
    exact ⟨rfl, rfl, rfl, rfl, rfl, rfl⟩
  · refine ⟨(s.fqTimeout i).syncAlarms, rfl, ?_⟩
    rw [fqTimeout_active ht ha]
    obtain ⟨hn, ⟨hs, hab, hdi, hcl⟩, hj⟩ :=
      timeout_refs s d (Slot.ofFq i) ((s.reachMonitor d).setFq i (timedOutFq s.fq[i])) rfl rfl
    refine ⟨hn, hs, hab, hdi, hcl, hj, by simp, ?_, by simp⟩
    rintro j ⟨rfl⟩
    rw [syncAlarms_fq, activityLost_fq, State.setFq_self]
    exact ⟨rfl, rfl, rfl, rfl, rfl, rfl⟩
  · refine ⟨(s.ofTimeout p).syncAlarms, rfl, ?_⟩
    rw [ofTimeout_active ht ha]
    obtain ⟨hn, ⟨hs, hab, hdi, hcl⟩, hj⟩ :=
      timeout_refs s d (Slot.ofPort p) ((s.reachMonitor d).setOf p (timedOutOf s.ofs[p])) rfl rfl
    refine ⟨hn, hs, hab, hdi, hcl, hj, by simp, by simp, ?_⟩
    rintro j ⟨rfl⟩
    rw [syncAlarms_ofs, activityLost_ofs, State.setOf_self]
    exact ⟨rfl, rfl, rfl⟩

end Sys2Proof.Machine.ReferenceInputs
end

section
/-! Reference inputs and measurement: the edges of the TA inputs. -/

namespace Sys2Proof.Machine.ReferenceInputs

/-! ### TA periods judged -/

/-- A judgement sets the input and hands its measurement on. -/
@[simp] theorem judgePeriod_ta (s : State) (i : InputIx) (p : TaPeriod) :
    (s.judgePeriod i p).ta[i] = (s.ta[i]).judged p (s.taCauses s.ta[i] p) := by
  rw [State.judgePeriod, takeMeasurement_ta, State.setTa_self]
  rfl

@[simp] theorem judgePeriod_counter (s : State) (i : InputIx) (p : TaPeriod) :
    (s.judgePeriod i p).counter = s.counter := by
  rw [State.judgePeriod, takeMeasurement_counter, State.setTa_counter]

@[simp] theorem judgePeriod_osc (s : State) (i : InputIx) (p : TaPeriod) : (s.judgePeriod i p).osc = s.osc := by
  rw [State.judgePeriod, takeMeasurement_osc, State.setTa_osc]

section
variable {s : State} {i : InputIx} {p : TaPeriod}

/-- A period with both its label and its width is judged (R30). -/
theorem judgeIfWhole_whole (hp : (s.ta[i]).period = some p) (hj : p.judged = false) (hl : p.label.isSome = true)
    (hw : p.width.isSome = true) : s.judgeIfWhole i = s.judgePeriod i p := by
  simp only [State.judgeIfWhole, hp, hj, hl, hw, Bool.not_false, Bool.and_self, if_true]

/-- One that lacks either is not (R30). -/
theorem judgeIfWhole_lacking (hp : (s.ta[i]).period = some p) (h : p.label = none ∨ p.width = none) :
    s.judgeIfWhole i = s := by
  simp only [State.judgeIfWhole, hp]
  rcases h with h | h <;> simp [h]

/-- A period given its width, and one given its label (R28, R29). -/
def widened (p : TaPeriod) (w : Nat) : TaPeriod := { p with width := some w }
def labelled (p : TaPeriod) (l : HeldLabel) : TaPeriod := { p with label := some l }

/-- The input with this period held. -/
def holding (x : TaInput) (p : TaPeriod) : TaInput := { x with period := some p }

/-- A period just given its width or its label is judged when it has both. -/
theorem judgeIfWhole_holding_whole (x : TaInput) (p : TaPeriod) (hj : p.judged = false) (hl : p.label.isSome = true)
    (hw : p.width.isSome = true) :
    (s.setTa i (holding x p)).judgeIfWhole i = (s.setTa i (holding x p)).judgePeriod i p :=
  judgeIfWhole_whole (by rw [State.setTa_self]; rfl) hj hl hw

theorem judgeIfWhole_holding_lacking (x : TaInput) (p : TaPeriod) (h : p.label = none ∨ p.width = none) :
    (s.setTa i (holding x p)).judgeIfWhole i = s.setTa i (holding x p) :=
  judgeIfWhole_lacking (by rw [State.setTa_self]; rfl) h

theorem judgeAtClose_open (hp : (s.ta[i]).period = some p) (hj : p.judged = false) :
    s.judgeAtClose i = s.judgePeriod i p := by
  simp only [State.judgeAtClose, hp, hj, Bool.false_eq_true, if_false]

/-- A period is judged once. -/
theorem judgeAtClose_judged (hp : (s.ta[i]).period = some p) (hj : p.judged = true) : s.judgeAtClose i = s := by
  simp only [State.judgeAtClose, hp, hj, if_true]

end

/-! ### Active edges -/

/-- A TA input with its activity timer restarted: three seconds of monitor time (R35). -/
def restartedTa (x : TaInput) (now : Nat) : TaInput := { x with timer := some (now + 3000000000), active := true }

theorem taActivity_of_active {s : State} {i : InputIx} (h : (s.ta[i]).active = true) :
    s.taActivity i = s.setTa i (restartedTa s.ta[i] s.osc.now) := if_pos h

/-- The first edge of a lost or new input reports activity present (R35). -/
theorem taActivity_of_lost {s : State} {i : InputIx} (h : ¬(s.ta[i]).active = true) :
    s.taActivity i = (s.setTa i (restartedTa s.ta[i] s.osc.now)).activityPresent (Slot.ofTa i) := if_neg h

@[simp] theorem taActivity_ta (s : State) (i : InputIx) : (s.taActivity i).ta[i] = restartedTa s.ta[i] s.osc.now := by
  by_cases h : (s.ta[i]).active = true
  · rw [taActivity_of_active h, State.setTa_self]
  · rw [taActivity_of_lost h, activityPresent_ta, State.setTa_self]

theorem taActivity_frame (s : State) (i : InputIx) :
    OnlyChanges [.ta, .tb, .loop, .hold, .refs, .sel, .views] s (s.taActivity i) := by simp

theorem taActivity_keeps (s : State) (i : InputIx) : KeepsFaultAndStep s (s.taActivity i) := by
  by_cases h : (s.ta[i]).active = true
  · rw [taActivity_of_active h]
    exact .of_tb rfl
  · rw [taActivity_of_lost h]
    refine .trans ?_ (activityPresent_keeps _ _)
    exact .of_tb rfl

section
variable {s : State} {i : InputIx}

/-- An edge on an input whose record is not enabled does nothing (R25). -/
theorem taEdge_disabled (he : s.taEnabled i = false) : s.taEdge i = s := by
  simp [State.taEdge, he]

/-- In FAULT an edge restarts the activity timer alone (R45). -/
theorem taEdge_fault (he : s.taEnabled i = true) (hf : s.tb.state = .fault) : s.taEdge i = s.taActivity i := by
  have h := (taActivity_keeps s i).fault.mpr hf
  simp [State.taEdge, he, h]

/-- With no period held an edge opens one (R27). -/
theorem taEdge_first (he : s.taEnabled i = true) (hf : s.tb.state ≠ .fault) (hp : (s.ta[i]).period = none) :
    s.taEdge i = (s.taActivity i).openPeriod i := by
  have h := mt (taActivity_keeps s i).fault.mp hf
  have hq : ((s.taActivity i).ta[i]).period = none := by rwa [taActivity_ta]
  rw [State.taEdge, if_neg (by simp [he])]
  dsimp only
  rw [if_neg h]
  simp only [hq]

/-- With a period held it is a glitch within its guard; after it, it opens the next, the held one being judged (R27). -/
theorem taEdge_held (he : s.taEnabled i = true) (hf : s.tb.state ≠ .fault) {p : TaPeriod}
    (hp : (s.ta[i]).period = some p) :
    s.taEdge i = if elapsed p.edge s.counter.instant < (s.ta[i]).guardPs then (s.taActivity i).glitchEdge i p
      else ((s.taActivity i).judgeAtClose i).openPeriod i := by
  have h := mt (taActivity_keeps s i).fault.mp hf
  have hq : ((s.taActivity i).ta[i]).period = some p := by rwa [taActivity_ta]
  have hc : (s.taActivity i).counter = s.counter := same_of_frame (taActivity_frame s i) .counter
  have hg : ((s.taActivity i).ta[i]).guardPs = (s.ta[i]).guardPs := by rw [taActivity_ta]; rfl
  rw [State.taEdge, if_neg (by simp [he])]
  dsimp only
  rw [if_neg h]
  simp only [hq, State.inGuard, hc, hg, decide_eq_true_eq]

end

/-- The period that an edge opens (R27). -/
def openedPeriod (instant : Nat) (carried : Bool) : TaPeriod :=
  { edge := instant / 125 * 125, straddles := false, glitch := carried, width := none, label := none, judged := false }

@[simp] theorem openPeriod_ta (s : State) (i : InputIx) :
    (s.openPeriod i).ta[i] = { s.ta[i] with
      period := some (openedPeriod s.counter.instant (s.ta[i]).carried), carried := false } :=
  State.setTa_self s i _

/-- A glitch marks the open period, or is carried to the next (R27). -/
theorem glitchEdge_ta (s : State) (i : InputIx) (p : TaPeriod) :
    (s.glitchEdge i p).ta[i] = if p.judged then { s.ta[i] with carried := true }
      else { s.ta[i] with period := some { p with glitch := true } } := by
  unfold State.glitchEdge
  split
  · exact State.setTa_self s i _
  · exact State.setTa_self s i _

theorem taEdge_frame (s : State) (i : InputIx) :
    OnlyChanges [.aligned, .conflicts, .ta, .tb, .loop, .hold, .refs, .sel, .views] s (s.taEdge i) := by simp

/-- A judgement leaves the activity of its input. -/
theorem judgeAtClose_activity (s : State) (i : InputIx) :
    ((s.judgeAtClose i).ta[i]).active = (s.ta[i]).active ∧ ((s.judgeAtClose i).ta[i]).timer = (s.ta[i]).timer := by
  cases hp : (s.ta[i]).period with
  | none => simp only [State.judgeAtClose, hp, and_self]
  | some p =>
    cases hj : p.judged with
    | true => rw [judgeAtClose_judged hp hj]; exact ⟨rfl, rfl⟩
    | false => rw [judgeAtClose_open hp hj, judgePeriod_ta]; exact ⟨rfl, rfl⟩

section
variable {s : State} {i : InputIx}

/-- Every edge of an enabled input restarts its activity timer (R35). -/
theorem taEdge_activity (he : s.taEnabled i = true) :
    ((s.taEdge i).ta[i]).active = true ∧ ((s.taEdge i).ta[i]).timer = some (s.osc.now + 3000000000) := by
  by_cases hf : s.tb.state = .fault
  · rw [taEdge_fault he hf, taActivity_ta]
    exact ⟨rfl, rfl⟩
  · cases hp : (s.ta[i]).period with
    | none =>
      rw [taEdge_first he hf hp, openPeriod_ta, taActivity_ta]
      exact ⟨rfl, rfl⟩
    | some p =>
      rw [taEdge_held he hf hp]
      by_cases hg : elapsed p.edge s.counter.instant < (s.ta[i]).guardPs
      · rw [if_pos hg, glitchEdge_ta, taActivity_ta]
        by_cases hj : p.judged = true
        · rw [if_pos hj]
          exact ⟨rfl, rfl⟩
        · rw [if_neg hj]
          exact ⟨rfl, rfl⟩
      · rw [if_neg hg, openPeriod_ta]
        obtain ⟨ha, ht⟩ := judgeAtClose_activity (s.taActivity i) i
        rw [taActivity_ta] at ha ht
        exact ⟨ha, ht⟩

/-- An edge within the guard of a period: a glitch of that period, or once it is judged of the next (R27). -/
theorem taEdge_inGuard (he : s.taEnabled i = true) (hf : s.tb.state ≠ .fault) {p : TaPeriod}
    (hp : (s.ta[i]).period = some p) (hg : elapsed p.edge s.counter.instant < (s.ta[i]).guardPs) :
    (s.taEdge i).ta[i] = if p.judged then { restartedTa s.ta[i] s.osc.now with carried := true }
      else { restartedTa s.ta[i] s.osc.now with period := some { p with glitch := true } } := by
  rw [taEdge_held he hf hp, if_pos hg, glitchEdge_ta, taActivity_ta]

/-- An edge that opens a period: with none held, or after the guard of one that is judged (R27). -/
theorem taEdge_opens (he : s.taEnabled i = true) (hf : s.tb.state ≠ .fault)
    (h : (s.ta[i]).period = none ∨ ∃ p, (s.ta[i]).period = some p ∧ p.judged = true ∧
      (s.ta[i]).guardPs ≤ elapsed p.edge s.counter.instant) :
    (s.taEdge i).ta[i] = { restartedTa s.ta[i] s.osc.now with
      period := some (openedPeriod s.counter.instant (s.ta[i]).carried), carried := false } := by
  have hta := taActivity_ta s i
  have hopen : s.taEdge i = (s.taActivity i).openPeriod i := by
    rcases h with hp | ⟨p, hp, hj, hg⟩
    · exact taEdge_first he hf hp
    · rw [taEdge_held he hf hp, if_neg (Nat.not_lt.mpr hg),
        judgeAtClose_judged (p := p) (by rw [hta]; exact hp) hj]
  rw [hopen, openPeriod_ta, hta]
  have hc : (s.taActivity i).counter = s.counter := same_of_frame (taActivity_frame s i) .counter
  rw [hc]
  rfl

end

/-! ### Inactive edges -/

section
variable {s : State} {i : InputIx}

/-- An inactive edge for which no period waits does nothing (R28). -/
theorem taTrailing_idle (h : s.taEnabled i = false ∨ s.tb.state = .fault ∨ (s.ta[i]).period = none ∨
    ∃ p, (s.ta[i]).period = some p ∧ (p.width ≠ none ∨ p.judged = true)) : s.taTrailing i = s := by
  unfold State.taTrailing
  rcases h with h | h | h | ⟨p, hp, hw | hj⟩
  · simp [h]
  · simp [h]
  · simp only [h, ite_self]
  · simp only [hp, Option.isNone_iff_eq_none, hw, Bool.and_eq_true, false_and, if_false, ite_self]
  · simp only [hp, hj, Bool.not_true, Bool.and_false, Bool.false_eq_true, if_false, ite_self]

/-- The first inactive edge after the period edge gives the width (R28), and judges a period that has its label (R30). -/
theorem taTrailing_width (he : s.taEnabled i = true) (hf : s.tb.state ≠ .fault) {p : TaPeriod}
    (hp : (s.ta[i]).period = some p) (hw : p.width = none) (hj : p.judged = false) :
    s.taTrailing i = (s.setTa i
      (holding s.ta[i] (widened p (elapsed p.edge s.counter.instant)))).judgeIfWhole i := by
  unfold State.taTrailing
  rw [if_neg (by simp [he, hf])]
  simp only [hp, hw, hj, Option.isNone_none, Bool.not_false, Bool.and_self, if_true, holding, widened]

end

/-- Settles O26: the active edge by enable, FAULT and the period held; the inactive edge by whether a period waits. -/
theorem taEdgesGivePeriodAndWidth : Obligations.TaEdgesGivePeriodAndWidth := by
  unfold Obligations.TaEdgesGivePeriodAndWidth
  constructor
  · rintro e i s u rfl
    have frame := taEdge_frame (s.pass e) i
    refine ⟨((s.pass e).taEdge i).syncAlarms, rfl, ?_, ?_, fun hd => ?_, fun he => ?_,
      by simp [touches, Field.elapsed, Field.measuring, Field.selecting]⟩
    · rw [syncAlarms_counter]
      exact same_of_frame frame .counter
    · rw [syncAlarms_osc]
      exact same_of_frame frame .osc
    · rw [taEdge_disabled (by rwa [State.taEnabled, pass_refs]), syncAlarms_ta, syncAlarms_refs, pass_ta, pass_refs]
      exact ⟨rfl, rfl⟩
    · have he' : (s.pass e).taEnabled i = true := by rwa [State.taEnabled, pass_refs]
      obtain ⟨ha, ht⟩ := taEdge_activity he'
      rw [syncAlarms_ta, ← pass_ta s e, ← pass_tb s e]
      refine ⟨ha, ht, fun hf => ?_, fun hf hp => ?_, fun x hf hp => ⟨fun hg => ⟨fun hj => ?_, fun hj => ?_⟩, fun hg hj => ?_⟩⟩
      · rw [taEdge_fault he' hf, taActivity_ta]
        exact ⟨rfl, rfl⟩
      · rw [taEdge_opens he' hf (.inl hp)]
        exact ⟨rfl, rfl⟩
      · rw [taEdge_inGuard he' hf hp hg, if_neg (by simp [hj])]
        exact ⟨rfl, rfl⟩
      · rw [taEdge_inGuard he' hf hp hg, if_pos hj]
        exact ⟨hp, rfl⟩
      · rw [taEdge_opens he' hf (.inr ⟨x, hp, hj, hg⟩)]
        exact ⟨rfl, rfl⟩
  · rintro e i s u rfl
    have frame : OnlyChanges [.aligned, .conflicts, .ta, .tb, .loop, .hold, .refs, .sel, .views] (s.pass e)
        ((s.pass e).taTrailing i) := by simp
    refine ⟨((s.pass e).taTrailing i).syncAlarms, rfl, ?_, ?_, fun x he hf hp hw hj => ?_, fun h => ?_,
      by simp [touches, Field.elapsed, Field.measuring, Field.selecting]⟩
    · rw [syncAlarms_counter]
      exact same_of_frame frame .counter
    · rw [syncAlarms_osc]
      exact same_of_frame frame .osc
    · rw [← pass_tb s e] at hf
      rw [← pass_ta s e] at hp
      rw [taTrailing_width (by rwa [State.taEnabled, pass_refs]) hf hp hw hj, syncAlarms_ta, syncAlarms_refs]
      constructor
      · intro hl
        rw [judgeIfWhole_holding_lacking _ (widened x _) (.inl hl), State.setTa_self, pass_ta]
        exact ⟨rfl, pass_refs s e⟩
      · intro hl
        rw [judgeIfWhole_holding_whole _ (widened x _) hj (Option.isSome_iff_ne_none.mpr hl) rfl, judgePeriod_ta,
          State.setTa_self]
        exact ⟨rfl, rfl⟩
    · rw [← pass_ta s e, ← pass_tb s e] at h
      rw [taTrailing_idle (by rwa [State.taEnabled, pass_refs]), syncAlarms_ta, syncAlarms_refs, pass_refs]
      exact ⟨pass_ta s e, rfl⟩

end Sys2Proof.Machine.ReferenceInputs
end

section
/-! Reference inputs and measurement: the label receiver. -/

namespace Sys2Proof.Machine.ReferenceInputs

/-! ### A label message made and read back (R192) -/

theorem checkPasses_withCheck (b : List Byte) : checkPasses (withCheck b) = true := by
  have hlen : (withCheck b).length - 2 = b.length := by simp [withCheck]
  have hcheck : beNat (beBytes 2 (checkOf b).toNat) = (checkOf b).toNat := beNat_beBytes 2 _ (checkOf b).isLt
  rw [checkPasses, hlen]
  simp [withCheck, hcheck]

theorem receiverStatus_ofByte_code (st : ReceiverStatus) :
    ReceiverStatus.ofByte (BitVec.ofNat 8 st.code) = some st := by cases st <;> decide

theorem leapField_ofByte_code (f : LeapField) : LeapField.ofByte (BitVec.ofNat 8 f.code) = some f := by
  cases f <;> decide

theorem beBytes_one (n : Nat) : beBytes 1 n = [BitVec.ofNat 8 n] := rfl

/-- The fields of a label message stand at their places in its nineteen bytes (R192). -/
theorem label_layout {sec utc leapSec check : List Byte} (st q lf : Byte) (hs : sec.length = 6) (hu : utc.length = 2)
    (hl : leapSec.length = 6) (b : List Byte) (hb : b = sec ++ [st] ++ [q] ++ utc ++ [lf] ++ leapSec ++ check) :
    b.take 6 = sec ∧ b.getD 6 0 = st ∧ b.getD 7 0 = q ∧ (b.drop 8).take 2 = utc ∧ b.getD 10 0 = lf ∧
      (b.drop 11).take 6 = leapSec := by
  subst hb
  simp [List.drop_append, List.getElem?_append, List.drop_eq_nil_of_le, hs, hu, hl]

/-- A label message made as R192 gives it is read back as its fields. -/
theorem readLabel_withCheck (l : TaLabel) (hsec : l.sec < 2 ^ 48) (hq : l.quality ≤ 15) (hu0 : -32768 ≤ l.utc)
    (hu1 : l.utc ≤ 32767) (hls : l.leapSec < 2 ^ 48) :
    readLabel (withCheck (beBytes 6 l.sec ++ beBytes 1 l.status.code ++ beBytes 1 l.quality ++ beInt 2 l.utc ++
      beBytes 1 l.leap.code ++ beBytes 6 l.leapSec)) = .passed l := by
  obtain ⟨h6, hst, hqu, hut, hlf, hle⟩ := label_layout (sec := beBytes 6 l.sec) (utc := beInt 2 l.utc)
    (leapSec := beBytes 6 l.leapSec) (BitVec.ofNat 8 l.status.code) (BitVec.ofNat 8 l.quality)
    (BitVec.ofNat 8 l.leap.code) (by simp) (by simp) (by simp) _ rfl
  have hq' : (BitVec.ofNat 8 l.quality).toNat = l.quality := by
    rw [BitVec.toNat_ofNat]
    omega
  unfold readLabel
  rw [if_pos (checkPasses_withCheck _), withCheck, beBytes_one, beBytes_one, beBytes_one, h6, hst, hqu, hut, hlf, hle,
    receiverStatus_ofByte_code, leapField_ofByte_code, hq', beNat_beBytes 6 _ (by omega),
    beSigned_beInt 2 _ (by omega) (by omega), beNat_beBytes 6 _ (by omega)]
  exact if_pos hq

/-! ### Bytes on a label line (R29) -/

/-- A TA input that holds no part of a label message. -/
def discarded (x : TaInput) : TaInput := { x with rx := none, rxDeadline := none }

theorem dropLabel_eq (s : State) (i : InputIx) : s.dropLabel i = s.setTa i (discarded s.ta[i]) := rfl

section
variable {s : State} {i : InputIx}

/-- A start byte begins a message when none is held (R192). -/
theorem labelByte_start (he : s.taEnabled i = true) (hr : (s.ta[i]).rx = none) (hd : (s.ta[i]).rxDeadline = none) :
    s.labelByte i 126 = s.setTa i { s.ta[i] with rx := some [], rxDeadline := some (s.osc.now + 2000000) } := by
  have hg : s.labelGapPassed i = false := by simp only [State.labelGapPassed, hd]
  rw [State.labelByte, if_neg (by simp [he]), if_neg (by simp [hg]), State.heldBytes]
  simp only [hr]
  rfl

/-- The nineteenth byte after the start byte completes a message (R192). -/
theorem labelByte_completes (he : s.taEnabled i = true) {held : List Byte} {d : Nat} (hr : (s.ta[i]).rx = some held)
    (hl : held.length = 18) (hd : (s.ta[i]).rxDeadline = some d) (hn : s.osc.now ≤ d) (b : Byte) :
    s.labelByte i b = (s.setTa i (discarded s.ta[i])).placeLabel i (readLabel (held ++ [b])) := by
  have hg : s.labelGapPassed i = false := by simp only [State.labelGapPassed, hd, Nat.not_lt.mpr hn, decide_false]
  rw [State.labelByte, if_neg (by simp [he]), if_neg (by simp [hg]), State.heldBytes]
  simp only [hr, hl]
  rfl

/-- A complete message goes to an open period whose label it can be (R29); one that then has its width is judged (R30). -/
theorem placeLabel_open {p : TaPeriod} (hp : (s.ta[i]).period = some p) (hj : p.judged = false) (hl : p.label = none)
    (hw : s.inLabelWindow p = true) (hf : s.tb.state ≠ .fault) (l : HeldLabel) :
    s.placeLabel i l = (s.setTa i (holding s.ta[i] (labelled p l))).judgeIfWhole i := by
  have hc : (!p.judged && p.label.isNone && s.inLabelWindow p && decide (s.tb.state ≠ .fault)) = true := by
    simp [hj, hl, hw, hf]
  simp only [State.placeLabel, hp]
  exact if_pos hc

/-- Any other is a stray label (R29). -/
theorem placeLabel_stray (l : HeldLabel) (h : (s.ta[i]).period = none ∨ s.tb.state = .fault ∨
    ∃ p, (s.ta[i]).period = some p ∧ (p.judged = true ∨ p.label ≠ none ∨ s.inLabelWindow p = false)) :
    s.placeLabel i l = s.strayLabel i := by
  unfold State.placeLabel
  split
  · next p hp =>
    rw [if_neg]
    rcases h with h | h | ⟨x, hx, h⟩
    · exact absurd (h.symm.trans hp) (by simp)
    · simp [h]
    · obtain rfl : x = p := Option.some.inj (hx.symm.trans hp)
      rcases h with h | h | h <;> simp [h]
  · rfl

theorem inLabelWindow_iff (p : TaPeriod) : s.inLabelWindow p = true ↔
    10000000000 ≤ elapsed p.edge s.counter.instant ∧ elapsed p.edge s.counter.instant ≤ 900000000000 := by
  rw [State.inLabelWindow, Bool.and_eq_true, decide_eq_true_eq, decide_eq_true_eq]
  rfl

end

@[simp] theorem strayLabel_ta (s : State) (i : InputIx) :
    (s.strayLabel i).ta[i] = { s.ta[i] with stray := min ((s.ta[i]).stray + 1) 65535 } := State.setTa_self s i _

/-- A judgement leaves the label receiver of its input. -/
theorem judgeIfWhole_receiver (s : State) (i : InputIx) :
    ((s.judgeIfWhole i).ta[i]).rx = (s.ta[i]).rx ∧ ((s.judgeIfWhole i).ta[i]).rxDeadline = (s.ta[i]).rxDeadline := by
  by_cases h : ∃ p, (s.ta[i]).period = some p ∧ (!p.judged && p.label.isSome && p.width.isSome) = true
  · obtain ⟨p, hp, hw⟩ := h
    simp only [Bool.and_eq_true, Bool.not_eq_true'] at hw
    rw [judgeIfWhole_whole hp hw.1.1 hw.1.2 hw.2, judgePeriod_ta]
    exact ⟨rfl, rfl⟩
  · have hs : s.judgeIfWhole i = s := by
      unfold State.judgeIfWhole
      split
      · next p hp => exact if_neg fun hw => h ⟨p, hp, hw⟩
      · rfl
    rw [hs]
    exact ⟨rfl, rfl⟩

/-- The place that a message finds leaves the label receiver. -/
theorem placeLabel_receiver (s : State) (i : InputIx) (l : HeldLabel) :
    ((s.placeLabel i l).ta[i]).rx = (s.ta[i]).rx ∧
      ((s.placeLabel i l).ta[i]).rxDeadline = (s.ta[i]).rxDeadline := by
  by_cases h : (s.ta[i]).period = none ∨ s.tb.state = .fault ∨
      ∃ p, (s.ta[i]).period = some p ∧ (p.judged = true ∨ p.label ≠ none ∨ s.inLabelWindow p = false)
  · rw [placeLabel_stray l h, strayLabel_ta]
    exact ⟨rfl, rfl⟩
  · obtain ⟨hn, hf, hx⟩ : _ ∧ _ ∧ _ := by simpa only [not_or] using h
    obtain ⟨p, hp⟩ := Option.ne_none_iff_exists'.mp hn
    have hx := not_exists.mp hx p
    simp only [hp, true_and, not_or, Bool.not_eq_true, Bool.not_eq_false, not_not] at hx
    obtain ⟨hj, hl, hw⟩ := hx
    rw [placeLabel_open hp hj hl hw hf]
    have k := judgeIfWhole_receiver (s.setTa i (holding s.ta[i] (labelled p l))) i
    rw [State.setTa_self] at k
    exact k

/-- A completed message, placed in an open period: its label, and its judgement when the width is there. -/
theorem placeLabel_open_ta {s : State} {i : InputIx} {p : TaPeriod} (hp : (s.ta[i]).period = some p)
    (hj : p.judged = false) (hl : p.label = none) (hw : s.inLabelWindow p = true) (hf : s.tb.state ≠ .fault)
    (l : HeldLabel) :
    ((s.placeLabel i l).ta[i]).stray = (s.ta[i]).stray ∧
      ((s.placeLabel i l).ta[i]).period = some { p with label := some l, judged := p.width.isSome } := by
  rw [placeLabel_open hp hj hl hw hf]
  cases hwd : p.width with
  | none =>
    rw [judgeIfWhole_holding_lacking _ (labelled p l) (.inr hwd), State.setTa_self]
    refine ⟨rfl, ?_⟩
    simp [holding, labelled, hj, hwd]
  | some w =>
    rw [judgeIfWhole_holding_whole _ (labelled p l) hj rfl (by simp [labelled, hwd]), judgePeriod_ta, State.setTa_self]
    refine ⟨rfl, ?_⟩
    simp [TaInput.judged, labelled, hwd]

/-- Settles O27: each kind of byte by its own rule, and the message by its layout. -/
theorem labelsAreReceived : Obligations.LabelsAreReceived := by
  unfold Obligations.LabelsAreReceived
  refine ⟨fun e i s he hr hd => ?_, ?_, fun e i s => ?_, fun i s d hd => ?_, fun l hs hq hu0 hu1 hls =>
    readLabel_withCheck l hs hq hu0 hu1 hls⟩
  · refine ⟨((s.pass e).labelByte i 126).syncAlarms, rfl, ?_⟩
    rw [labelByte_start (by rwa [State.taEnabled, pass_refs]) (by rwa [pass_ta]) (by rwa [pass_ta]), syncAlarms_ta,
      State.setTa_self, pass_ta]
  · rintro e i s u held b d rfl he hr hlen hd hn
    refine ⟨((s.pass e).labelByte i b).syncAlarms, rfl, ?_⟩
    rw [← pass_ta s e] at hr hd
    rw [labelByte_completes (by rwa [State.taEnabled, pass_refs]) hr hlen hd hn, syncAlarms_ta, syncAlarms_refs,
      ← pass_tb s e, ← pass_ta s e, ← pass_refs s e]
    generalize s.pass e = u at *
    have hv : (u.setTa i (discarded u.ta[i])).ta[i] = discarded u.ta[i] := State.setTa_self u i _
    have receiver := placeLabel_receiver (u.setTa i (discarded u.ta[i])) i (readLabel (held ++ [b]))
    rw [hv] at receiver
    refine ⟨receiver.1, receiver.2, fun x hf hp hj hl hlo hhi => ?_, fun h => ?_⟩
    · have placed := placeLabel_open_ta (s := u.setTa i (discarded u.ta[i])) (p := x) (by rw [hv]; exact hp) hj hl
        ((inLabelWindow_iff x).mpr ⟨hlo, hhi⟩) hf (readLabel (held ++ [b]))
      rwa [hv] at placed
    · rw [placeLabel_stray, strayLabel_ta, hv]
      · exact ⟨min_comm _ _, rfl, rfl⟩
      · rw [hv]
        refine h.imp_right (Or.imp_right fun ⟨x, hx, hc⟩ => ⟨x, hx, hc.imp_right (Or.imp_right fun hw => ?_)⟩)
        rw [← Bool.not_eq_true, inLabelWindow_iff]
        exact fun ⟨hlo, hhi⟩ => hw.elim (Nat.not_lt.mpr hlo) (Nat.not_lt.mpr hhi)
  · refine ⟨(s.pass e).dropLabel i, rfl, ?_⟩
    rw [dropLabel_eq, State.setTa_self, pass_ta]
    rfl
  · refine ⟨s.labelGap i, rfl, ?_⟩
    have h : s.labelGap i = (s.reachMonitor d).dropLabel i := by simp only [State.labelGap, hd]
    rw [h, dropLabel_eq, State.setTa_self]
    exact ⟨rfl, State.reachMonitor_now s d, by simp⟩

end Sys2Proof.Machine.ReferenceInputs
end

section
/-! Reference inputs and measurement: a TA period judged at the close of its label window. -/

namespace Sys2Proof.Machine.ReferenceInputs

/-! ### The causes of a TA period (R31, R32) -/

@[simp] theorem causeIf_eq_nil (b : Bool) (c : Cause) : causeIf b c = [] ↔ b = false := by cases b <;> simp [causeIf]

theorem intervalOk_iff (x : TaInput) (edge : Nat) : x.intervalOk edge = true ↔ ∀ e, x.prevEdge = some e →
    ((elapsed e edge : Int) - 1000000000000).natAbs ≤ x.params.window * 1000000 := by
  unfold TaInput.intervalOk
  split
  · next h => simp [h]
  · next e h =>
    simp only [h, Option.some.injEq, forall_eq']
    exact decide_eq_true_iff

theorem widthOk_iff (w : Option Nat) :
    widthOk w = true ↔ ∃ v, w = some v ∧ 1000000 ≤ v ∧ v ≤ 900000000000 := by
  cases w with
  | none => simp [widthOk]
  | some v =>
    rw [widthOk, Bool.and_eq_true, decide_eq_true_eq, decide_eq_true_eq]
    exact ⟨fun h => ⟨v, rfl, h⟩, fun ⟨w, hw, h⟩ => Option.some.inj hw ▸ h⟩

theorem jumped_eq_false_iff (x : TaInput) (e : Int) :
    x.jumped e = false ↔ ∀ j, x.jumpRef = some j → (e - j).natAbs ≤ x.params.jumpLimit * 1000 := by
  unfold TaInput.jumped
  split
  · next j h => simp [h]
  · next h => simp [h]

/-- The four causes that rest on the label are absent exactly for one that passed, names its second and has a fix. -/
theorem labelCauses_iff (s : State) (p : TaPeriod) :
    (p.label.isNone = false ∧ decide (p.label = some .failed) = false ∧
      (s.aligned && p.passed.any fun l => l.sec ≠ s.expectedSecond p.edge) = false ∧
      (p.passed.any fun l => l.status = .noFix) = false) ↔
    ∃ l, p.label = some (.passed l) ∧ l.status ≠ .noFix ∧ (s.aligned = true → l.sec = s.expectedSecond p.edge) := by
  cases h : p.label with
  | none => simp
  | some l =>
    cases l with
    | failed => simp
    | passed l => simp [TaPeriod.passed, h, and_comm]

/-- A TA period is GOOD exactly when none of R32's causes is there. -/
theorem taCauses_eq_nil (s : State) (x : TaInput) (p : TaPeriod) : s.taCauses x p = [] ↔
    (∀ e, x.prevEdge = some e → ((elapsed e p.edge : Int) - 1000000000000).natAbs ≤ x.params.window * 1000000) ∧
      (∃ w, p.width = some w ∧ 1000000 ≤ w ∧ w ≤ 900000000000) ∧ p.glitch = false ∧
      (∃ l, p.label = some (.passed l) ∧ l.status ≠ .noFix ∧ (s.aligned = true → l.sec = s.expectedSecond p.edge)) ∧
      ∀ j, x.jumpRef = some j → (x.timeError p.edge - j).natAbs ≤ x.params.jumpLimit * 1000 := by
  rw [← intervalOk_iff, ← widthOk_iff, ← labelCauses_iff, ← jumped_eq_false_iff]
  simp only [State.taCauses, List.append_eq_nil_iff, causeIf_eq_nil, Bool.not_eq_false', and_assoc]

/-- The causes rest on the alignment and on the pending step, and on nothing else of the state. -/
theorem taCauses_congr {s t : State} (ha : t.aligned = s.aligned) (ht : t.tb = s.tb) (x : TaInput) (p : TaPeriod) :
    t.taCauses x p = s.taCauses x p := by
  rw [State.taCauses, ha, State.expectedSecond, ht]
  rfl

/-- The time error is the offset from the nearest second, less the cable compensation (R31). -/
theorem timeError_below (x : TaInput) (edge : Nat) (h : edge % 1000000000000 < 500000000000) :
    x.timeError edge = ((edge % 1000000000000 : Nat) : Int) - x.params.compensation := by
  rw [TaInput.timeError, rawOffset, if_pos (by simp only [Config.psPerSecond]; omega)]
  simp only [Config.psPerSecond]
  omega

theorem timeError_above (x : TaInput) (edge : Nat) (h : 500000000000 ≤ edge % 1000000000000) :
    x.timeError edge = ((edge % 1000000000000 : Nat) : Int) - 1000000000000 - x.params.compensation := by
  rw [TaInput.timeError, rawOffset, if_neg (by simp only [Config.psPerSecond]; omega)]
  simp only [Config.psPerSecond]
  omega

/-! ### The counter runs on to an instant -/

theorem instant_at (n frac : Nat) : (Reading.at n frac).instant = n % (2 ^ 48 * 1000000000000) := by
  simp only [Reading.at, Reading.instant, Config.psPerSecond, Config.siteSeconds]
  omega

theorem instant_lt {s : State} (h : s.counterInRange) : s.counter.instant < 2 ^ 48 * 1000000000000 := by
  obtain ⟨hsec, hps, -, -⟩ := h
  simp only [Config.siteSeconds, Config.psPerSecond] at hsec hps
  simp only [Reading.instant, Config.psPerSecond]
  omega

/-- The counter reaches an instant that lies ahead of it within half the span. -/
theorem reachInstant_instant {s : State} (hf : s.tb.state ≠ .fault) (hc : s.counterInRange) {i : Nat}
    (hi : i < 2 ^ 48 * 1000000000000) (ha : elapsed s.counter.instant i * 2 < 2 ^ 48 * 1000000000000) :
    (s.reachInstant i).counter.instant = i := by
  have hlt := instant_lt hc
  have hse : signedElapsed s.counter.instant i = elapsed s.counter.instant i := by
    unfold signedElapsed
    exact if_pos ha
  rw [State.reachInstant, hse, State.runCounter_running s _ hf]
  show (Reading.at (s.counter.instant + (elapsed s.counter.instant i : Int).toNat) s.counter.frac).instant = i
  rw [instant_at]
  simp only [elapsed, wrapInstant, Config.siteSpan, Config.siteSeconds, Config.psPerSecond]
  omega

/-- The close of a label window that the reading has not passed is reached at its instant (R30). -/
theorem reachInstant_windowClose {s : State} (hf : s.tb.state ≠ .fault) (hc : s.counterInRange) {edge : Nat}
    (he : elapsed edge s.counter.instant ≤ 900000000000) :
    (s.reachInstant (wrapInstant (edge + Config.labelClosePs))).counter.instant =
      (edge + 900000000000) % (2 ^ 48 * 1000000000000) := by
  have hlt := instant_lt hc
  have hw : wrapInstant (edge + Config.labelClosePs) = (edge + 900000000000) % (2 ^ 48 * 1000000000000) := by
    simp only [wrapInstant, Config.siteSpan, Config.siteSeconds, Config.psPerSecond, Config.labelClosePs,
      Config.psPerMs]
    omega
  rw [hw]
  refine reachInstant_instant hf hc (Nat.mod_lt _ (by decide)) ?_
  simp only [elapsed, wrapInstant, Config.siteSpan, Config.siteSeconds, Config.psPerSecond] at he ⊢
  omega

theorem reachInstant_frame (s : State) (n : Nat) : OnlyChanges [.counter, .secondOwed, .msOwed] s (s.reachInstant n) := by
  simp

section
variable (s : State) (n : Nat)

@[simp] theorem reachInstant_ta : (s.reachInstant n).ta = s.ta := same_of_frame (reachInstant_frame s n) .ta
@[simp] theorem reachInstant_refs : (s.reachInstant n).refs = s.refs := same_of_frame (reachInstant_frame s n) .refs

end

/-! ### The window closes, and the guard ends (R27, R30) -/

section
variable {s : State} {i : InputIx} {p : TaPeriod}

/-- The instant at which the label window of a period closes. -/
def windowClose (p : TaPeriod) : Nat := wrapInstant (p.edge + Config.labelClosePs)

theorem taWindowClose_open (hp : (s.ta[i]).period = some p) (hj : p.judged = false) :
    s.taWindowClose i = (s.reachInstant (windowClose p)).judgePeriod i p := by
  simp only [State.taWindowClose, hp, hj, Bool.false_eq_true, if_false]
  exact judgeAtClose_open (by rw [reachInstant_ta]; exact hp) hj

/-- A judgement is the latest measurement of an enabled record (R66). -/
theorem judgePeriod_latest (he : (s.refs[Slot.ofTa i]).enabled = true) :
    ((s.judgePeriod i p).refs[Slot.ofTa i]).latest = some (s.taMeasurement i p) := by
  rw [State.judgePeriod]
  exact takeMeasurement_latest _ _ he

/-- The guard of a judged period ends without another judgement (R27). -/
theorem taGuardEnd_judged (hp : (s.ta[i]).period = some p) (hj : p.judged = true) :
    ∃ n, s.taGuardEnd i = (s.reachInstant n).setTa i { s.ta[i] with period := none } := by
  simp only [State.taGuardEnd, hp]
  rw [judgeAtClose_judged (by rw [reachInstant_ta]; exact hp) hj]
  simp only [reachInstant_ta]
  exact ⟨_, rfl⟩

end

/-- What a judgement makes of the jump reference and its run (R33). -/
theorem judged_jump (x : TaInput) (p : TaPeriod) (causes : List Cause) :
    (causes = [] → (x.judged p causes).jumpRef = some (x.timeError p.edge) ∧ (x.judged p causes).jumpRun = 0) ∧
      (causes = [.jump] → x.jumpRun = 3 → (x.judged p causes).jumpRef = none ∧ (x.judged p causes).jumpRun = 0) ∧
      (causes = [.jump] → x.jumpRun < 3 →
        (x.judged p causes).jumpRef = x.jumpRef ∧ (x.judged p causes).jumpRun = x.jumpRun + 1) := by
  refine ⟨fun h => ?_, fun h hr => ?_, fun h hr => ?_⟩
  · simp [TaInput.judged, h]
  · simp [TaInput.judged, h, hr]
  · simp [TaInput.judged, h, hr.ne]

/-- Settles O28: the causes one by one, then the judgement at the window's close and the end of the guard. -/
theorem taPeriodIsJudgedAtItsWindow : Obligations.TaPeriodIsJudgedAtItsWindow := by
  unfold Obligations.TaPeriodIsJudgedAtItsWindow
  refine ⟨⟨taCauses_eq_nil, fun x edge => ⟨timeError_below x edge, timeError_above x edge⟩, fun s edge => rfl⟩,
    fun i s x hp hj he => ?_, fun i s x hp hj => ?_⟩
  · refine ⟨(s.taWindowClose i).syncAlarms, rfl, ?_⟩
    rw [taWindowClose_open hp hj, syncAlarms_ta, syncAlarms_refs, syncAlarms_counter, judgePeriod_ta,
      judgePeriod_counter, reachInstant_ta]
    have frame := reachInstant_frame s (windowClose x)
    have hcauses : (s.reachInstant (windowClose x)).taCauses s.ta[i] x = s.taCauses s.ta[i] x :=
      taCauses_congr (same_of_frame frame .aligned) (same_of_frame frame .tb) _ _
    rw [hcauses]
    obtain ⟨hgood, hfourth, hjump⟩ := judged_jump s.ta[i] x (s.taCauses s.ta[i] x)
    refine ⟨rfl, rfl, ⟨_, judgePeriod_latest (by rwa [reachInstant_refs]), rfl, ?_, ?_, ?_, rfl⟩, hgood, hfourth, hjump,
      fun hf hc _ hel => reachInstant_windowClose hf hc hel⟩
    · simp only [State.taMeasurement, reachInstant_ta, hcauses]
    · simp only [State.taMeasurement, reachInstant_ta]
    · simp only [State.taMeasurement, reachInstant_ta]
  · refine ⟨(s.taGuardEnd i).syncAlarms, rfl, ?_⟩
    obtain ⟨n, hn⟩ := taGuardEnd_judged hp hj
    rw [hn, syncAlarms_ta, State.setTa_self, syncAlarms_refs, State.setTa_refs, reachInstant_refs]
    exact ⟨rfl, rfl, by simp⟩

end Sys2Proof.Machine.ReferenceInputs
end

section
/-! Reference inputs and measurement: the loop's update, and a measurement of the selected reference in LOCKED. -/

namespace Sys2Proof.Machine.ReferenceInputs

/-! ### One update (R75, R77) -/

theorem gainI_eq {cls : Nat} (h : cls ≤ 6) : gainI cls = [8192, 2048, 512, 128, 32, 8, 2].getD cls 0 := by
  interval_cases cls <;> rfl

theorem gainP_eq {cls : Nat} (h : cls ≤ 6) : gainP cls = [32768, 16384, 8192, 4096, 2048, 1024, 512].getD cls 0 := by
  interval_cases cls <;> rfl

/-- The integrator, the raw steer value and the steer value of one update, written out with the gains of R77. -/
theorem updated_eq {l : Loop} {yMax u integ raw y : Int} {cls : Nat} (hc : cls ≤ 6)
    (hi : integ = max (-(yMax * 65536)) (min (yMax * 65536)
      (l.integ + u * [8192, 2048, 512, 128, 32, 8, 2].getD cls 0)))
    (hr : raw = integ / 65536 + u * [32768, 16384, 8192, 4096, 2048, 1024, 512].getD cls 0 / 65536)
    (hy : y = max (-yMax) (min yMax raw)) :
    l.updated yMax cls u = { l with integ := integ, y := y, freqLimit := decide (y ≠ raw) } := by
  have hint : l.nextIntegrator yMax cls u = integ := by rw [Loop.nextIntegrator, gainI_eq hc, hi]; rfl
  have hraw : l.rawSteer yMax cls u = raw := by rw [Loop.rawSteer, hint, gainP_eq hc, hr]
  rw [Loop.updated, hint, hraw, hy]
  rfl

/-- An update sets the loop and the steer value in force; the frequency limit disturbs the minute (R75). -/
theorem loopUpdate_eq (s : State) (cls : Nat) (u : Int) : s.loopUpdate cls u =
    if (s.loop.updated s.lp.yMax cls u).freqLimit then
      (s.setLoop (s.loop.updated s.lp.yMax cls u)).steerByLoop.disturb
    else (s.setLoop (s.loop.updated s.lp.yMax cls u)).steerByLoop := rfl

@[simp] theorem loopUpdate_loop (s : State) (cls : Nat) (u : Int) :
    (s.loopUpdate cls u).loop = s.loop.updated s.lp.yMax cls u := by
  rw [loopUpdate_eq]
  split <;> rfl

@[simp] theorem loopUpdate_tb (s : State) (cls : Nat) (u : Int) :
    (s.loopUpdate cls u).tb = { s.tb with steer := (s.loop.updated s.lp.yMax cls u).y } := by
  rw [loopUpdate_eq]
  split <;> rfl

@[simp] theorem phaseUpdate_loop (s : State) (u : Int) :
    (s.phaseUpdate u).loop = { s.loop.updated s.lp.yMax s.loop.cls u with lastU := some u } := by
  simp only [State.phaseUpdate, State.setLoop_loop, loopUpdate_loop]

@[simp] theorem phaseUpdate_tb (s : State) (u : Int) :
    (s.phaseUpdate u).tb = { s.tb with steer := (s.loop.updated s.lp.yMax s.loop.cls u).y } := by
  simp only [State.phaseUpdate, State.setLoop_tb, loopUpdate_tb]

@[simp] theorem phaseUpdate_lp (s : State) (u : Int) : (s.phaseUpdate u).lp = s.lp :=
  same_of_frame (State.phaseUpdate_only [.tb, .loop, .hold] s s u (by decide) (by decide) (by decide)
    |>.mpr (OnlyChanges.refl _ s)) .lp

/-! ### The loss run of LOCKED (R80) -/

@[simp] theorem setTbState_loop (s : State) (x : TbState) : (s.setTbState x).loop = s.loop := by
  unfold State.setTbState
  split
  · rfl
  · rw [notifyAll_loop, State.setTb_loop]

@[simp] theorem regrade_loop (s : State) : s.regrade.loop = s.loop := by
  unfold State.regrade
  split
  · rfl
  · rw [notifyAll_loop, State.setTb_loop]

theorem setTbState_tb (s : State) (x : TbState) : (s.setTbState x).tb = { s.tb with state := x } := by
  unfold State.setTbState
  split
  · next h => rw [← h]
  · rw [notifyAll_tb, State.setTb_tb]

/-- What leaving LOCKED gives up, and what ACQUIRING begins with (R9, R83). -/
theorem reacquire_of_locked {s : State} (h : s.tb.state = .locked) :
    s.reacquire.loop = { s.loop with minuteHeld := false, lockRun := 0 } ∧
      s.reacquire.tb = { s.tb with state := .acquiring, heldGrade := some .lock, grade := .lock } := by
  have hl : s.leaveState = (s.setLoop { s.loop with minuteHeld := false }).setHold
      { s.hold with acc := { s.hold.acc with locked := false } } := by
    unfold State.leaveState
    simp only [h]
  rw [State.reacquire, hl]
  constructor
  · simp [State.emptyStaging]
  · simp only [regrade_tb, State.gradeOf, setTbState_tb, State.emptyStaging]
    rfl

/-- The loss count of an update, in its three cases (R80). -/
theorem countLoss_small {s : State} {u : Int} (h : u.natAbs ≤ s.lp.lossThreshold * 1000) :
    s.countLoss u = s.setLoop { s.loop with lossRun := 0 } := by
  rw [State.countLoss, magnitude, if_neg (Nat.not_lt.mpr h)]

theorem countLoss_large {s : State} {u : Int} (h : s.lp.lossThreshold * 1000 < u.natAbs) (hr : s.loop.lossRun < 2) :
    s.countLoss u = s.setLoop { s.loop with lossRun := s.loop.lossRun + 1 } := by
  rw [State.countLoss, magnitude, if_pos h, if_neg (by omega)]

theorem countLoss_third {s : State} {u : Int} (h : s.lp.lossThreshold * 1000 < u.natAbs) (hr : 2 ≤ s.loop.lossRun) :
    s.countLoss u = (s.setLoop { s.loop with lossRun := 0 }).reacquire := by
  rw [State.countLoss, magnitude, if_pos h, if_pos (by omega)]

/-! ### A measurement of the selected reference in LOCKED -/

/-- From one state to the other the loop stands, and the timebase but for its pending step. -/
def StepAlone (s t : State) : Prop := t.loop = s.loop ∧ ∃ p, t.tb = { s.tb with pendingStep := p }

theorem StepAlone.refl (s : State) : StepAlone s s := ⟨rfl, s.tb.pendingStep, rfl⟩

theorem StepAlone.setStep (s : State) (p : Option PendingStep) :
    StepAlone s (s.setTb { s.tb with pendingStep := p }) := ⟨rfl, p, rfl⟩

/-- The label comparison touches the alignment and the pending step alone (R18). -/
theorem compareLabel_stepAlone (s : State) (m : Measurement) : StepAlone s (s.compareLabel m) := by
  unfold State.compareLabel
  split
  · split
    · exact .refl s
    · next label _ =>
      generalize s.labelDifference m.time.instant label = k
      dsimp only
      split
      · exact .refl s
      · split
        · exact .setStep s _
        · exact .setStep s _
  · exact .refl s

/-- A measurement without a label's offset adopts nothing (R23). -/
theorem adoptLabel_of_none (s : State) {m : Measurement} (h : m.utc = none) : s.adoptLabel m = s := by
  simp only [State.adoptLabel, h]

/-- A GOOD measurement of the selected reference in LOCKED, nothing pending: one update, its loss count, then the label
comparison, which leaves the loop as it is (R73, R75, R80). -/
theorem takePhase_locked {s : State} {m : Measurement} {u : Int} (hs : m.straddles = false) (hc : m.causes = [])
    (hm : m.u = some u) (hu : m.utc = none) (hl : s.tb.state = .locked) (hf : s.tb.force = false)
    (hp : s.tb.pendingStep = none) :
    (s.takePhase m).loop = ((s.phaseUpdate u).countLoss u).loop ∧
      ∃ p, (s.takePhase m).tb = { ((s.phaseUpdate u).countLoss u).tb with pendingStep := p } := by
  have huse : s.loopUse true u = (s.phaseUpdate u).countLoss u := by
    rw [State.loopUse, if_neg (by simp [hp, hf]), if_neg (by simp [hl]), if_pos hl, if_pos rfl]
  rw [State.takePhase, if_neg (by simp [hs]), adoptLabel_of_none _ hu, hc, hm]
  show ((s.loopUse true u).compareLabel m).loop = _ ∧ ∃ p, ((s.loopUse true u).compareLabel m).tb = _
  rw [huse]
  exact compareLabel_stepAlone _ m

/-- The slot is QUALIFIED and forced, and so stays the phase selection (R61). -/
structure ForcedSelection (s : State) (i : Slot) : Prop where
  qualified : (s.refs[i]).state = .qualified
  force : s.sel.force = some i
  phase : s.sel.phase = some i

theorem ForcedSelection.of_same {s t : State} {i : Slot} (h : ForcedSelection s i)
    (hq : (t.refs[i]).state = (s.refs[i]).state) (hs : t.sel = s.sel) : ForcedSelection t i :=
  ⟨hq.trans h.qualified, by rw [hs]; exact h.force, by rw [hs]; exact h.phase⟩

/-- Setting a record whose state stays, or another record, leaves the selection forced. -/
theorem ForcedSelection.setRef {s : State} {i j : Slot} {r : RefRecord} (h : ForcedSelection s i)
    (hr : j = i → r.state = .qualified) : ForcedSelection (s.setRef j r) i := by
  refine h.of_same ?_ rfl
  by_cases hj : i = j
  · subst hj
    rw [State.setRef_self, hr rfl, h.qualified]
  · rw [State.setRef_other s j i r hj]

theorem scored_of_qualified {r : RefRecord} (h : r.state = .qualified) : r.scored = true := by
  rw [RefRecord.scored, h]
  rfl

/-- A record that is not QUALIFYING has no test of QUALIFYING (R52). -/
theorem testQualifying_of_qualified {s : State} {i : Slot} (h : (s.refs[i]).state = .qualified) :
    s.testQualifying i = s := by
  rw [State.testQualifying, if_neg]
  rintro ⟨hq, -⟩
  rw [h] at hq
  cases hq

/-- A GOOD score leaves a QUALIFIED record QUALIFIED (R52). -/
theorem ForcedSelection.score {s : State} {m : Measurement} (h : ForcedSelection s m.slot) (hm : m.causes = []) :
    ForcedSelection (s.score m) m.slot := by
  have hsc : RefRecord.scored { s.refs[m.slot] with latest := some m } = true := scored_of_qualified h.qualified
  have hset : ForcedSelection (s.setRef m.slot (RefRecord.scoreGood { s.refs[m.slot] with latest := some m } m.quality))
      m.slot := h.setRef fun _ => h.qualified
  have hscore : s.score m = s.setRef m.slot (RefRecord.scoreGood { s.refs[m.slot] with latest := some m } m.quality) := by
    unfold State.score
    dsimp only
    rw [if_pos hsc, if_pos hm, testQualifying_of_qualified hset.qualified]
  rw [hscore]
  exact hset

theorem ForcedSelection.comparePair {s : State} {i : Slot} (h : ForcedSelection s i) (a b : Slot) :
    ForcedSelection (s.comparePair a b) i := by
  unfold State.comparePair
  split
  · split
    · split
      · exact h.setRef fun ha => ha ▸ h.qualified
      · exact h
    · exact h
  · exact h

theorem ForcedSelection.pairingStep {s : State} {i : Slot} (h : ForcedSelection s i) (m : Measurement) :
    ForcedSelection (s.pairingStep m) i := by
  unfold State.pairingStep
  split
  · split
    · refine forEach_invariant 8 _ _ (ForcedSelection · i) (fun j u hu => ?_) (h.setRef fun ha => ha ▸ h.qualified)
      split
      · exact hu
      · exact (hu.comparePair _ _).comparePair _ _
    · exact h
  · exact h

/-- A charge against another record leaves the selected one (R67). -/
theorem ForcedSelection.charge {s : State} {i j : Slot} (h : ForcedSelection s i) (hj : j ≠ i) :
    ForcedSelection (s.charge j) i := by
  have hset := h.setRef (j := j) (r := { s.refs[j] with
    score := min 32 ((s.refs[j]).score + 4), streak := 0
    conflictCount := countUp Config.max16 (s.refs[j]).conflictCount }) fun hij => absurd hij hj
  unfold State.charge State.testQualified
  split
  · refine hset.of_same ?_ (same_of_frame (moveRef_frame _ _ _) .sel)
    rw [moveRef_refs, State.setRef_other _ _ _ _ hj.symm]
  · exact hset

/-- A conflict of the selected record charges the other of the pair (R67). -/
theorem ForcedSelection.compareLabels {s : State} {i j : Slot} (h : ForcedSelection s i) (hj : j ≠ i) (sec : Nat)
    (agree : Bool) : ForcedSelection (s.compareLabels i j sec agree) i := by
  unfold State.compareLabels
  dsimp only
  split
  · exact h
  · split
    · refine ForcedSelection.charge (h.of_same rfl rfl) ?_
      rwa [State.chargedOf, if_pos h.phase]
    · exact h.of_same rfl rfl

theorem ForcedSelection.labelStep {s : State} {m : Measurement} (h : ForcedSelection s m.slot) :
    ForcedSelection (s.labelStep m) m.slot := by
  unfold State.labelStep
  split
  · split
    · refine forEach_invariant 8 _ _ (ForcedSelection · m.slot) (fun j u hu => ?_) (h.setRef fun _ => h.qualified)
      split
      · next hj =>
        split
        · split
          · exact hu.compareLabels hj.1 _ _
          · exact hu
        · exact hu
      · exact hu
    · exact h
  · exact h

/-- In LOCKED no report of the assist reference touches the timebase or the loop (R11). -/
theorem changeAssist_locked {s : State} (hl : s.tb.state = .locked) (new : Option Slot) :
    (s.changeAssist new).tb = s.tb ∧ (s.changeAssist new).loop = s.loop ∧
      (s.changeAssist new).sel.phase = s.sel.phase := by
  unfold State.changeAssist
  split
  · exact ⟨rfl, rfl, rfl⟩
  · have happ : ∀ t : State, t.tb = s.tb → t.assistAppeared = t := fun t ht => by
      simp [State.assistAppeared, State.freerunTests, ht, hl]
    have hchg : ∀ t : State, t.tb = s.tb → t.assistChanged = t := fun t ht => by
      simp [State.assistChanged, ht, hl]
    have hlost : ∀ t : State, t.tb = s.tb → t.assistLost = t := fun t ht => by simp [State.assistLost, ht, hl]
    dsimp only
    split
    · rw [happ _ (by rw [notifyAll_tb]; rfl), notifyAll_tb, notifyAll_loop, notifyAll_sel]
      exact ⟨rfl, rfl, rfl⟩
    · rw [hchg _ (by rw [notifyAll_tb]; rfl), notifyAll_tb, notifyAll_loop, notifyAll_sel]
      exact ⟨rfl, rfl, rfl⟩
    · rw [hlost _ (by rw [notifyAll_tb]; rfl), notifyAll_tb, notifyAll_loop, notifyAll_sel]
      exact ⟨rfl, rfl, rfl⟩
    · rw [notifyAll_tb, notifyAll_loop, notifyAll_sel]
      exact ⟨rfl, rfl, rfl⟩

/-- The forced slot is the phase selection that a re-evaluation chooses (R61). -/
theorem reevaluate_forced_locked {s : State} {i : Slot} (h : ForcedSelection s i) (hl : s.tb.state = .locked) :
    s.reevaluate.tb = s.tb ∧ s.reevaluate.loop = s.loop ∧ s.reevaluate.sel.phase = s.sel.phase := by
  have hq : (s.refreshCandidates.refs[i]).state = .qualified := by
    rw [State.refreshCandidates, mapAll_get]
    split
    · split <;> exact h.qualified
    · exact h.qualified
  have hchoose : s.refreshCandidates.choosePhase = some i := by
    have hf : s.refreshCandidates.sel.force = some i := h.force
    simp only [State.choosePhase, hf]
    exact if_pos hq
  have hsame : s.refreshCandidates.changePhase (some i) = s.refreshCandidates := if_pos h.phase
  rw [State.reevaluate, hchoose, hsame]
  exact changeAssist_locked (s := s.refreshCandidates) hl _

/-- A GOOD measurement of the forced slot in LOCKED reaches the loop, which stands as it stood (R66). -/
theorem takeMeasurement_forced_locked {s : State} {m : Measurement} (he : (s.refs[m.slot]).enabled = true)
    (h : ForcedSelection s m.slot) (hm : m.causes = []) (hl : s.tb.state = .locked) :
    ∃ w : State, s.takeMeasurement m = w.takePhase m ∧ w.tb = s.tb ∧ w.loop = s.loop ∧ w.lp = s.lp ∧
      w.sel.phase = s.sel.phase := by
  have hforced := ((h.score hm).pairingStep m).labelStep
  have frame : OnlyChanges [.refs, .conflicts] s (((s.score m).pairingStep m).labelStep m) := by simp
  have htb : (((s.score m).pairingStep m).labelStep m).tb = s.tb := same_of_frame frame .tb
  obtain ⟨htb', hloop, hphase⟩ := reevaluate_forced_locked hforced (by rw [htb]; exact hl)
  have hsel : (((s.score m).pairingStep m).labelStep m).sel = s.sel := same_of_frame frame .sel
  refine ⟨(((s.score m).pairingStep m).labelStep m).reevaluate, ?_, htb'.trans htb,
    hloop.trans (same_of_frame frame .loop), ?_, by rw [hphase, hsel]⟩
  · rw [State.takeMeasurement, if_pos he, State.handOn, if_pos (by rw [hphase, hsel]; exact h.phase)]
  · exact (same_of_frame (reevaluate_frame _) .lp).trans (same_of_frame frame .lp)

end Sys2Proof.Machine.ReferenceInputs
end

section
/-! Reference inputs and measurement: the offset report. -/

namespace Sys2Proof.Machine.ReferenceInputs

/-! ### A request that is accepted -/

/-- A request whose verdict accepts it leaves the verdict's state, with the reply (R177). -/
theorem answer_accepted {s u : State} {p : Port} {code : Nat} {f : List Byte → State → Verdict} {r : Request}
    {q : PortRec} {st : Status} {body : List Byte} (h : s.ready p code r q)
    (hf : f r.body (s.setPort p q) = .accept st body u) : s.answer p code f = u.reply p r st body := by
  rw [answer_ready s p code f r q h, hf]
  rfl

/-- The reply to a request that left the ports alone is the newest of its port's (R178). -/
theorem answered_reply {s u : State} {p : Port} {r : Request} {q : PortRec} (st : Status) (body : List Byte)
    (h : u.ports = (s.setPort p q).ports) : s.answered (u.reply p r st body) p r q st body := by
  simp [State.answered, State.reply, State.setPort, h, PortRec.replied, Request.reply]

section
variable (s : State) (p : Port) (r : Request) (st : Status) (body : List Byte)

@[simp] theorem reply_tb : (s.reply p r st body).tb = s.tb := rfl
@[simp] theorem reply_loop : (s.reply p r st body).loop = s.loop := rfl
@[simp] theorem reply_sel : (s.reply p r st body).sel = s.sel := rfl
@[simp] theorem reply_ta : (s.reply p r st body).ta = s.ta := rfl
@[simp] theorem reply_fq : (s.reply p r st body).fq = s.fq := rfl
@[simp] theorem reply_ofs : (s.reply p r st body).ofs = s.ofs := rfl
@[simp] theorem reply_refs : (s.reply p r st body).refs = s.refs := rfl

end

/-! ### The parts of a report -/

/-- An unsigned value is not negative. -/
theorem takeValues_unsigned {k : Nat} {b rest : List Byte} {l : List Int}
    (h : takeValues [(k, false)] b = some (l, rest)) : ∃ n : Nat, l = [(n : Int)] := by
  simp only [takeValues, takeValue] at h
  split at h
  · cases h
  · next v r hv =>
    split at hv
    · cases hv
    · simp only [Bool.false_eq_true, if_false, Option.some.injEq, Prod.mk.injEq] at h hv
      exact ⟨_, by rw [← h.1, ← hv.1]⟩

/-- The first part of those taken, and the rest of them. -/
theorem takeParts_present {spec : PartSpec} {more : List (PartSpec × Bool)} {b rest : List Byte}
    {vs : List (Option (List Int))} (h : takeParts ((spec, true) :: more) b = some (vs, rest)) :
    ∃ v b' vs', takePart spec.form b = some (v, b') ∧ takeParts more b' = some (vs', rest) ∧ vs = some v :: vs' := by
  simp only [takeParts, if_true] at h
  split at h
  · cases h
  · next v b' hv =>
    split at h
    · cases h
    · next vs' rest' hm =>
      cases h
      exact ⟨v, b', vs', hv, hm, rfl⟩

/-- The noise of a report is an unsigned value. -/
theorem parseOffsetReport_noise {b : List Byte} {v : OffsetReportParts} (h : parseOffsetReport b = some v) :
    0 ≤ v.noise := by
  simp only [parseOffsetReport, Option.map_eq_some_iff] at h
  obtain ⟨vs, hvs, rfl⟩ := h
  unfold parseBody at hvs
  split at hvs
  · next ws hfront =>
    cases hvs
    obtain ⟨_, _, _, -, h0, rfl⟩ := takeParts_present hfront
    obtain ⟨_, _, _, -, h1, rfl⟩ := takeParts_present h0
    obtain ⟨_, _, _, -, h2, rfl⟩ := takeParts_present h1
    obtain ⟨_, _, _, -, h3, rfl⟩ := takeParts_present h2
    obtain ⟨_, _, _, hn, -, rfl⟩ := takeParts_present h3
    obtain ⟨n, rfl⟩ := takeValues_unsigned hn
    exact Int.natCast_nonneg n
  · cases hvs

/-! ### A report taken (R41 to R43) -/

/-- The state with the activity of a report noted, before its measurement. -/
def noted (s : State) (p : Port) (interval : Nat) : State :=
  if (s.ofs[p]).active then s.setOf p { s.ofs[p] with timer := some (s.monitorIn (3 * interval)), active := true }
  else (s.setOf p { s.ofs[p] with timer := some (s.monitorIn (3 * interval)), active := true }).activityPresent
    (Slot.ofPort p)

theorem takeReport_eq (s : State) (p : Port) (e whole : Int) (interval quality noise : Nat) :
    s.takeReport p e whole interval quality noise =
      if (noted s p interval).tb.state = .fault then noted s p interval
      else (noted s p interval).takeMeasurement ((noted s p interval).ofMeasurement p e whole interval quality noise) :=
  rfl

section
variable (s : State) (p : Port) (interval : Nat)

@[simp] theorem noted_ofs : (noted s p interval).ofs = s.ofs.set p
    { s.ofs[p] with timer := some (s.monitorIn (3 * interval)), active := true } := by
  unfold noted
  split
  · rfl
  · rw [activityPresent_ofs]
    rfl

@[simp] theorem noted_counter : (noted s p interval).counter = s.counter := by
  unfold noted
  split
  · rfl
  · rw [activityPresent_counter]
    rfl

@[simp] theorem noted_ports : (noted s p interval).ports = s.ports := by
  unfold noted
  split
  · rfl
  · rw [activityPresent_ports]
    rfl

theorem noted_keeps : KeepsFaultAndStep s (noted s p interval) := by
  unfold noted
  split
  · exact .of_tb rfl
  · refine .trans ?_ (activityPresent_keeps _ _)
    exact .of_tb rfl

theorem noted_measured : KeepsMeasured s (noted s p interval) := by
  unfold noted
  split
  · exact .of_refs rfl
  · refine .trans ?_ (activityPresent_measured _ _)
    exact .of_refs rfl

/-- After a report the record is in a state that is scored (R50, R51). -/
theorem noted_scored (hd : (s.refs[Slot.ofPort p]).state ≠ .disabled)
    (ha : (s.ofs[p]).active = false ∨ (s.refs[Slot.ofPort p]).state ≠ .absent) :
    ((noted s p interval).refs[Slot.ofPort p]).scored = true := by
  by_cases hact : (s.ofs[p]).active = true
  · have hab := ha.resolve_left (by rw [hact]; decide)
    rw [noted, if_pos hact, State.setOf_refs]
    simp only [RefRecord.scored, hd, hab, ne_eq, not_false_eq_true, decide_true, Bool.and_self]
  · rw [noted, if_neg hact]
    exact activityPresent_scored _ _ hd

end

/-- A report with no activity to report changes the slot alone. -/
theorem noted_of_present {s : State} {p : Port} (h : (s.refs[Slot.ofPort p]).state ≠ .absent) (interval : Nat) :
    noted s p interval = s.setOf p { s.ofs[p] with timer := some (s.monitorIn (3 * interval)), active := true } := by
  unfold noted
  split
  · rfl
  · exact activityPresent_of_active _ _ h

/-- The measurement of a report, with the causes that its noise and quality give (R42). -/
def reportMeasurement (s : State) (p : Port) (v : OffsetReportParts) (causes : List Cause) : Measurement :=
  { slot := Slot.ofPort p, time := s.counter, causes := causes, e := some v.e, u := some (-v.e)
    labelSec := some (((nearestSecond s.counter.instant : Int) + v.whole) % 2 ^ 48).toNat
    quality := some v.quality.toNat, status := none, utc := none, leap := none, leapSec := none
    straddles := false, phi := none, freq := none, count := none, noise := some v.noise.toNat
    interval := some v.interval.toNat }

/-- The causes of a report (R42). -/
def reportCauses (o : OfSlot) (v : OffsetReportParts) : List Cause :=
  (if o.params.noiseLimit < v.noise then [Cause.noise] else []) ++
    (if o.params.minQuality < v.quality then [Cause.quality] else [])

theorem noted_measurement {s : State} {p : Port} {v : OffsetReportParts} (hn : 0 ≤ v.noise) (interval : Nat) :
    (noted s p interval).ofMeasurement p v.e v.whole v.interval.toNat v.quality.toNat v.noise.toNat =
      reportMeasurement s p v (reportCauses s.ofs[p] v) := by
  have hcauses : ((noted s p interval).ofs[p]).params.causes v.noise.toNat v.quality.toNat =
      reportCauses s.ofs[p] v := by
    rw [noted_ofs]
    simp [OfParams.causes, reportCauses, causeIf, hn]
  rw [State.ofMeasurement, hcauses, noted_counter]
  rfl

/-- An accepted report outside FAULT: its measurement is taken (R42). -/
theorem takeReport_measured {s : State} {p : Port} {v : OffsetReportParts} (hf : s.tb.state ≠ .fault)
    (hn : 0 ≤ v.noise) :
    s.takeReport p v.e v.whole v.interval.toNat v.quality.toNat v.noise.toNat =
      (noted s p v.interval.toNat).takeMeasurement (reportMeasurement s p v (reportCauses s.ofs[p] v)) := by
  rw [takeReport_eq, if_neg (mt (noted_keeps s p _).fault.mp hf), noted_measurement hn]

theorem takeReport_fault {s : State} {p : Port} (hf : s.tb.state = .fault) (e whole : Int)
    (interval quality noise : Nat) : s.takeReport p e whole interval quality noise = noted s p interval := by
  rw [takeReport_eq, if_pos ((noted_keeps s p _).fault.mpr hf)]

/-- An OFFSET_REPORT that is ready, in range and of an enabled slot is accepted (R41). -/
theorem exec_offsetReport {s : State} {p : Port} {r : Request} {q : PortRec} {v : OffsetReportParts}
    (h : s.ready p 32 r q) (hv : parseOffsetReport r.body = some v) (hb : v.bad = false)
    (he : (s.refs[Slot.ofPort p]).enabled = true) :
    exec (.offsetReport p) s = .next (((s.setPort p q).takeReport p v.e v.whole v.interval.toNat v.quality.toNat
      v.noise.toNat).syncAlarms.reply p r .done []) := by
  have hf : reportOffset p r.body (s.setPort p q) = .accept .done [] ((s.setPort p q).takeReport p v.e v.whole
      v.interval.toNat v.quality.toNat v.noise.toNat).syncAlarms := by
    have he' : (s.setPort p q).ofEnabled p = true := he
    rw [reportOffset, hv, parsed_some, he', hb]
    rfl
  show Host.Outcome.next (s.answer p 32 (reportOffset p)) = _
  rw [answer_accepted h hf]

/-- The ports that a report leaves alone. -/
theorem takeReport_ports (s : State) (p : Port) (e whole : Int) (interval quality noise : Nat) :
    (s.takeReport p e whole interval quality noise).ports = s.ports := by
  rw [takeReport_eq]
  split
  · exact noted_ports s p interval
  · rw [takeMeasurement_ports, noted_ports]

theorem takeReport_ofs (s : State) (p : Port) (e whole : Int) (interval quality noise : Nat) :
    (s.takeReport p e whole interval quality noise).ofs = s.ofs.set p
      { s.ofs[p] with timer := some (s.monitorIn (3 * interval)), active := true } := by
  rw [takeReport_eq]
  split
  · exact noted_ofs s p interval
  · rw [takeMeasurement_ofs, noted_ofs]

/-- The record of a report that is measured: its latest measurement, and the counts of R50. -/
theorem takeReport_ref {s : State} {p : Port} {v : OffsetReportParts} (hf : s.tb.state ≠ .fault)
    (hn : 0 ≤ v.noise) (he : (s.refs[Slot.ofPort p]).enabled = true) :
    SameMeasured (scoredRecord (noted s p v.interval.toNat).refs[Slot.ofPort p]
        (reportMeasurement s p v (reportCauses s.ofs[p] v)))
      (s.takeReport p v.e v.whole v.interval.toNat v.quality.toNat v.noise.toNat).refs[Slot.ofPort p] := by
  rw [takeReport_measured hf hn]
  exact takeMeasurement_measured _ (reportMeasurement s p v (reportCauses s.ofs[p] v))
    ((noted_measured s p _ _).enabled.trans he)

/-- Settles O25: activity is noted in every state, and outside FAULT the record holds what the score gives. -/
theorem offsetReportIsMeasured : Obligations.OffsetReportIsMeasured := by
  unfold Obligations.OffsetReportIsMeasured
  intro p s r q v c h hv hb he hd ha hc
  have hn := parseOffsetReport_noise hv
  obtain rfl : c = reportCauses s.ofs[p] v := hc
  refine ⟨_, exec_offsetReport h hv hb he, answered_reply .done [] ?_, ?_⟩
  · rw [syncAlarms_ports, takeReport_ports]
  have frame : OnlyChanges (touches (.offsetReport p)) s (((s.setPort p q).takeReport p v.e v.whole v.interval.toNat
      v.quality.toNat v.noise.toNat).syncAlarms.reply p r .done []) := by
    simp [touches, Field.measuring, Field.selecting]
  rw [reply_ofs, syncAlarms_ofs, takeReport_ofs, reply_refs, syncAlarms_refs]
  have hkeep := noted_measured (s.setPort p q) p v.interval.toNat (Slot.ofPort p)
  refine ⟨by simp, ?_, by simp, fun x hx => ?_, fun hf => ?_, fun hf => ⟨?_, fun hgood => ?_, fun hbad => ?_⟩, frame⟩
  · simp [State.monitorIn, Config.nsPerSecond]
  · exact State.setOf_other (s.setPort p q) p x _ hx
  · rw [takeReport_fault (s := s.setPort p q) hf]
    exact hkeep.latest
  all_goals
    have href := takeReport_ref (s := s.setPort p q) (p := p) (v := v) hf hn he
    have hscored := noted_scored (s.setPort p q) p v.interval.toNat hd ha
  · rw [href.latest, scoredRecord_latest]
    rfl
  · rw [scoredRecord_good hscored hgood] at href
    refine ⟨?_, ?_, ?_⟩
    · rw [href.goodCount]
      show min (((noted (s.setPort p q) p v.interval.toNat).refs[Slot.ofPort p]).goodCount + 1) 4294967295 = _
      rw [hkeep.goodCount, min_comm]
      rfl
    · exact href.badCount.trans hkeep.badCount
    · exact href.rankQuality
  · rw [scoredRecord_bad hscored hbad] at href
    refine ⟨?_, ?_, ?_⟩
    · rw [href.badCount]
      show min (((noted (s.setPort p q) p v.interval.toNat).refs[Slot.ofPort p]).badCount + 1) 4294967295 = _
      rw [hkeep.badCount, min_comm]
      rfl
    · exact href.goodCount.trans hkeep.goodCount
    · rcases href.streak with h | h <;> exact h

/-- A GOOD report of the forced slot in LOCKED reaches the loop, which stands as it stood (R66). -/
theorem takeReport_locked {s : State} {p : Port} {v : OffsetReportParts} (hn : 0 ≤ v.noise)
    (hnoise : v.noise ≤ (s.ofs[p]).params.noiseLimit) (hquality : v.quality ≤ (s.ofs[p]).params.minQuality)
    (he : (s.refs[Slot.ofPort p]).enabled = true) (h : ForcedSelection s (Slot.ofPort p))
    (hl : s.tb.state = .locked) :
    ∃ w : State, s.takeReport p v.e v.whole v.interval.toNat v.quality.toNat v.noise.toNat =
        w.takePhase (reportMeasurement s p v []) ∧
      w.tb = s.tb ∧ w.loop = s.loop ∧ w.lp = s.lp ∧ w.sel.phase = s.sel.phase := by
  have hgood : reportCauses s.ofs[p] v = [] := by
    rw [reportCauses, if_neg (Int.not_lt.mpr hnoise), if_neg (Int.not_lt.mpr hquality)]
    rfl
  rw [takeReport_measured (by rw [hl]; decide) hn, hgood,
    noted_of_present (by rw [h.qualified]; decide)]
  exact takeMeasurement_forced_locked (m := reportMeasurement s p v []) he (h.of_same rfl rfl) rfl hl

/-- Settles O22: the forced slot stays selected, so the measurement reaches the loop as it stood; then the update, and
the loss count in its three cases. -/
theorem reportSteersLockedLoop : Obligations.ReportSteersLockedLoop := by
  unfold Obligations.ReportSteersLockedLoop
  intro p s r q v u integ raw y h hv hb hnoise hquality he hq hforce hphase hl hf hp hcls hu hi hr hy
  have hn := parseOffsetReport_noise hv
  refine ⟨_, exec_offsetReport h hv hb he, answered_reply .done [] ?_, ?_⟩
  · rw [syncAlarms_ports, takeReport_ports]
  rw [reply_loop, reply_tb, reply_sel, syncAlarms_loop, syncAlarms_tb, syncAlarms_sel]
  obtain ⟨w, hw, htb, hloop, hlp, hsel⟩ := takeReport_locked (s := s.setPort p q) (p := p) (v := v) hn hnoise hquality he
    ⟨hq, hforce, hphase⟩ hl
  have hl' : w.tb.state = .locked := by rw [htb]; exact hl
  obtain ⟨htl, step, htt⟩ := takePhase_locked (s := w) (m := reportMeasurement (s.setPort p q) p v []) (u := u) rfl
    rfl (by rw [hu]; rfl) rfl hl' (by rw [htb]; exact hf) (by rw [htb]; exact hp)
  have htp : (w.takePhase (reportMeasurement (s.setPort p q) p v [])).sel = w.sel :=
    same_of_frame (State.takePhase_only [.tb, .loop, .hold, .aligned, .views] w w _ (by decide) (by decide) (by decide)
      (by decide) (by decide) |>.mpr (OnlyChanges.refl _ w)) .sel
  have hupd : w.loop.updated w.lp.yMax w.loop.cls u =
      { s.loop with integ := integ, y := y, freqLimit := decide (y ≠ raw) } := by
    rw [hloop, hlp]
    exact updated_eq hcls hi hr hy
  have hul : (w.phaseUpdate u).loop =
      { s.loop with integ := integ, y := y, freqLimit := decide (y ≠ raw), lastU := some u } := by
    rw [phaseUpdate_loop, hupd]
  have hut : (w.phaseUpdate u).tb = { s.tb with steer := y } := by
    rw [phaseUpdate_tb, hupd, htb]
    rfl
  have hlim : (w.phaseUpdate u).lp.lossThreshold = s.lp.lossThreshold := by rw [phaseUpdate_lp, hlp]; rfl
  have hrun : (w.phaseUpdate u).loop.lossRun = s.loop.lossRun := by rw [hul]
  rw [hw, htl, htt, htp, hsel, ← hlim]
  by_cases hlarge : (w.phaseUpdate u).lp.lossThreshold * 1000 < u.natAbs
  · have hsmall := Nat.not_le.mpr hlarge
    by_cases hthird : 2 ≤ s.loop.lossRun
    · obtain ⟨hrl, hrt⟩ := reacquire_of_locked (s := (w.phaseUpdate u).setLoop { (w.phaseUpdate u).loop with lossRun := 0 })
        (by rw [State.setLoop_tb, hut]; exact hl)
      rw [countLoss_third hlarge (by rw [hrun]; exact hthird), hrl, hrt, State.setLoop_loop, State.setLoop_tb, hul, hut]
      exact ⟨rfl, rfl, rfl, rfl, rfl, rfl, fun h => absurd h hsmall, fun _ h => absurd hthird (Nat.not_le.mpr h),
        fun _ _ => ⟨rfl, rfl, rfl, rfl, rfl⟩, rfl⟩
    · rw [countLoss_large hlarge (by rw [hrun]; exact Nat.not_le.mp hthird), State.setLoop_loop, State.setLoop_tb, hul, hut]
      exact ⟨rfl, rfl, rfl, rfl, rfl, rfl, fun h => absurd h hsmall, fun _ _ => ⟨rfl, hl⟩,
        fun _ h => absurd h hthird, rfl⟩
  · rw [countLoss_small (Nat.not_lt.mp hlarge), State.setLoop_loop, State.setLoop_tb, hul, hut]
    exact ⟨rfl, rfl, rfl, rfl, rfl, rfl, fun _ => ⟨rfl, hl⟩, fun h => absurd h hlarge, fun h => absurd h hlarge, rfl⟩

end Sys2Proof.Machine.ReferenceInputs
end

section
/-! Reference inputs and measurement: the close of an FQ second, and assisted steering. -/

namespace Sys2Proof.Machine.ReferenceInputs

/-! ### A measurement of the assist reference (R82) -/

section
variable {s : State} {m : Measurement}

/-- A measurement of the assist reference, which is not the phase reference, goes to assisted steering (R66). -/
theorem handOn_assist (hp : s.sel.phase ≠ some m.slot) (ha : s.sel.assist = some m.slot) :
    s.handOn m = s.takeAssist m := by
  rw [State.handOn, if_neg hp, if_pos ha]

theorem takeAssist_unused (h : s.tb.state ≠ .assisted ∨ m.causes ≠ []) : s.takeAssist m = s :=
  if_neg fun ⟨hs, hc⟩ => h.elim (absurd hs) (absurd hc)

theorem takeAssist_first {phi : Int} (hs : s.tb.state = .assisted) (hc : m.causes = []) (hm : m.phi = some phi)
    (h0 : s.loop.phi0 = none) : s.takeAssist m = s.setLoop { s.loop with phi0 := some phi } := by
  rw [State.takeAssist, if_pos ⟨hs, hc⟩]
  simp only [hm, h0]

theorem takeAssist_later {phi phi0 : Int} (hs : s.tb.state = .assisted) (hc : m.causes = []) (hm : m.phi = some phi)
    (h0 : s.loop.phi0 = some phi0) : s.takeAssist m = s.loopUpdate s.lp.assistClass (phi0 - phi) := by
  rw [State.takeAssist, if_pos ⟨hs, hc⟩]
  simp only [hm, h0, Int.neg_sub]

end

/-! ### The pending step at a boundary (R19) -/

/-- The reading is the boundary of second `n`, and no pending step is due there. -/
structure AtBoundary (n : Nat) (s : State) : Prop where
  counter : s.counter = { sec := n, ps := 0, frac := 0 }
  step : ∀ p ∈ s.tb.pendingStep, p.due ≠ n

/-- A step made at a boundary is due at the next (R17). -/
theorem dueSecond_ne (n : Nat) : Reading.dueSecond { sec := n, ps := 0, frac := 0 } ≠ n := by
  have ht : Reading.tenMsRemain { sec := n, ps := 0, frac := 0 } = true := by
    simp [Reading.tenMsRemain, Config.psPerSecond, Config.psPerMs, Config.fracPerPs]
  rw [Reading.dueSecond, if_pos ht, Config.siteSeconds]
  show (n + 1) % 2 ^ 48 ≠ n
  omega

namespace AtBoundary
variable {n : Nat} {s t : State}

theorem of_keeps (h : AtBoundary n s) (hc : t.counter = s.counter) (k : KeepsFaultAndStep s t) : AtBoundary n t := by
  refine ⟨hc.trans h.counter, ?_⟩
  rcases k.step with k | k
  · rw [k]
    exact h.step
  · rw [k]
    exact fun p hp => absurd hp (by simp)

theorem of_same (h : AtBoundary n s) (hc : t.counter = s.counter) (ht : t.tb.pendingStep = s.tb.pendingStep) :
    AtBoundary n t :=
  ⟨hc.trans h.counter, by rw [ht]; exact h.step⟩

theorem makeStep (h : AtBoundary n s) (amount : Int) (origin : StepOrigin) :
    AtBoundary n (s.makeStep amount origin) := by
  refine ⟨h.counter, fun p hp => ?_⟩
  obtain rfl : _ = p := Option.some.inj hp
  rw [h.counter]
  exact dueSecond_ne n

theorem phaseUpdate (h : AtBoundary n s) (u : Int) : AtBoundary n (s.phaseUpdate u) :=
  h.of_same (same_of_frame (State.phaseUpdate_only [.tb, .loop, .hold] s s u (by decide) (by decide) (by decide)
    |>.mpr (OnlyChanges.refl _ s)) .counter) (by rw [phaseUpdate_tb])

theorem enters (h : AtBoundary n s) (k : KeepsFaultAndStep s t)
    (frame : OnlyChanges [.tb, .loop, .hold, .views] s t) : AtBoundary n t :=
  h.of_keeps (same_of_frame frame .counter) k

theorem countLock (h : AtBoundary n s) (hs : s.tb.state ≠ .fault) (u : Int) : AtBoundary n (s.countLock u) := by
  unfold State.countLock
  split
  · split
    · exact h.enters (enterLocked_keeps hs) (by simp)
    · exact h.of_same rfl rfl
  · exact h.of_same rfl rfl

theorem countLoss (h : AtBoundary n s) (hs : s.tb.state ≠ .fault) (u : Int) : AtBoundary n (s.countLoss u) := by
  unfold State.countLoss
  split
  · split
    · refine AtBoundary.enters ?_ (reacquire_keeps hs) (by simp)
      exact h.of_same rfl rfl
    · exact h.of_same rfl rfl
  · exact h.of_same rfl rfl

theorem loopUse (h : AtBoundary n s) (good : Bool) (u : Int) : AtBoundary n (s.loopUse good u) := by
  unfold State.loopUse
  split
  · exact h
  · split
    · next hs =>
      split
      · split
        · refine AtBoundary.makeStep ?_ _ _
          exact h.of_same rfl rfl
        · exact (h.phaseUpdate u).countLock (by rw [phaseUpdate_tb]; simp [hs]) u
      · exact h.of_same rfl rfl
    · split
      · next hs =>
        split
        · exact (h.phaseUpdate u).countLoss (by rw [phaseUpdate_tb]; simp [hs]) u
        · exact h
      · exact h

theorem compareLabel (h : AtBoundary n s) (m : Measurement) : AtBoundary n (s.compareLabel m) := by
  unfold State.compareLabel
  split
  · split
    · exact h
    · next label _ =>
      generalize s.labelDifference m.time.instant label = k
      dsimp only
      split
      · exact h.of_same rfl rfl
      · split
        · next p hp =>
          refine ⟨h.counter, fun x hx => ?_⟩
          obtain rfl : _ = x := Option.some.inj hx
          exact h.step p hp
        · exact h.makeStep _ _
  · exact h

theorem adoptLabel (h : AtBoundary n s) (m : Measurement) : AtBoundary n (s.adoptLabel m) := by
  unfold State.adoptLabel
  split
  · split
    · exact h.of_same rfl rfl
    · exact h
  · exact h

theorem handOn (h : AtBoundary n s) (m : Measurement) : AtBoundary n (s.handOn m) := by
  unfold State.handOn
  split
  · unfold State.takePhase
    split
    · exact h
    · exact ((h.loopUse _ _).compareLabel m).adoptLabel m
  · split
    · unfold State.takeAssist
      split
      · split
        · exact h
        · split
          · exact h.of_same rfl rfl
          · exact h.of_same (same_of_frame (State.loopUpdate_only [.tb, .loop, .hold] s s _ _ (by decide) (by decide)
              (by decide) |>.mpr (OnlyChanges.refl _ s)) .counter) (by rw [loopUpdate_tb])
      · exact h
    · exact h

/-- A measurement taken at a boundary makes no step that is due there. -/
theorem takeMeasurement (h : AtBoundary n s) (m : Measurement) : AtBoundary n (s.takeMeasurement m) := by
  unfold State.takeMeasurement
  split
  · have frame : OnlyChanges [.refs, .conflicts] s (((s.score m).pairingStep m).labelStep m) := by simp
    have h' : AtBoundary n (((s.score m).pairingStep m).labelStep m) :=
      h.of_same (same_of_frame frame .counter) (by rw [same_of_frame frame .tb])
    exact (h'.of_keeps (reevaluate_counter _) (reevaluate_keeps _)).handOn m
  · exact h

end AtBoundary

/-! ### The close of an FQ second (R36, R37) -/

section
variable {s : State} {i j : InputIx}

/-- An FQ input that holds no edge changes its own place alone at a boundary (R36). -/
theorem closeFqSecond_idle (h : (s.fq[j]).lastEdge = none) :
    ∃ x, s.closeFqSecond j = s.setFq j x := by
  have hself : s.setFq j s.fq[j] = s := by simp [State.setFq]
  unfold State.closeFqSecond
  split
  · exact ⟨_, hself.symm⟩
  · dsimp only
    split
    · exact ⟨_, hself.symm⟩
    · exact ⟨_, rfl⟩
    · simp only [h]
      exact ⟨_, rfl⟩
    · simp only [h]
      exact ⟨_, rfl⟩

/-- The state with the origin of an input taken, before its activity is reported (R36). -/
def originSet (s : State) (i : InputIx) (last : Nat) : State :=
  (s.setFq i ((s.fq[i]).opened last)).originTaken i (s.fq[i]).renominal

theorem originSet_frame (s : State) (i : InputIx) (last : Nat) :
    OnlyChanges [.fq, .loop] s (originSet s i last) := by simp [originSet]

theorem originSet_fq (s : State) (i : InputIx) (last : Nat) :
    (originSet s i last).fq = (s.setFq i ((s.fq[i]).opened last)).fq :=
  same_of_frame (State.originTaken_only [.loop] _ _ i _ (by decide) |>.mpr (OnlyChanges.refl _ _)) .fq

/-- The opening second of an enabled input closes on its last edge, the origin (R36). -/
theorem closeFqSecond_opening {last : Nat} (he : s.fqEnabled i = true) (hs : (s.fq[i]).stage = .opening)
    (hl : (s.fq[i]).lastEdge = some last) : s.closeFqSecond i =
      if (s.fq[i]).active then originSet s i last else (originSet s i last).activityPresent (Slot.ofFq i) := by
  rw [State.closeFqSecond, if_neg (by simp [he])]
  simp only [hs, hl]
  rfl

theorem closeFqSecond_opening_fq {last : Nat} (he : s.fqEnabled i = true) (hs : (s.fq[i]).stage = .opening)
    (hl : (s.fq[i]).lastEdge = some last) : (s.closeFqSecond i).fq = s.fq.set i ((s.fq[i]).opened last) := by
  rw [closeFqSecond_opening he hs hl]
  split
  · exact originSet_fq s i last
  · rw [activityPresent_fq]
    exact originSet_fq s i last

/-- A running second of an enabled input closes with a measurement (R37). -/
theorem closeFqSecond_running {last origin : Nat} (he : s.fqEnabled i = true) (hs : (s.fq[i]).stage = .running)
    (hl : (s.fq[i]).lastEdge = some last) (ho : (s.fq[i]).origin = some origin) :
    s.closeFqSecond i = (s.setFq i ((s.fq[i]).closed origin last)).takeMeasurement
      ((s.fq[i]).measurement i origin last) := by
  rw [State.closeFqSecond, if_neg (by simp [he])]
  simp only [hs, hl, ho]

end

theorem closeFqSecond_atBoundary {n : Nat} {s : State} (h : AtBoundary n s) (i : InputIx) :
    AtBoundary n (s.closeFqSecond i) := by
  unfold State.closeFqSecond
  split
  · exact h
  · dsimp only
    split
    · exact h
    · exact h.of_same rfl rfl
    · split
      · exact h.of_same rfl rfl
      · next last _ =>
        have ht : AtBoundary n (originSet s i last) :=
          h.of_same (same_of_frame (originSet_frame s i last) .counter)
            (by rw [same_of_frame (originSet_frame s i last) .tb])
        split
        · exact ht
        · exact ht.of_keeps (activityPresent_counter _ _) (activityPresent_keeps _ _)
    · split
      · refine AtBoundary.takeMeasurement ?_ _
        exact h.of_same rfl rfl
      · exact h.of_same rfl rfl

/-- The close of a second touches no other FQ input. -/
theorem closeFqSecond_fq (s : State) (i : InputIx) : ∃ x, (s.closeFqSecond i).fq = s.fq.set i x := by
  have hself : s.fq = s.fq.set i s.fq[i] := by simp
  unfold State.closeFqSecond
  split
  · exact ⟨_, hself⟩
  · dsimp only
    split
    · exact ⟨_, hself⟩
    · exact ⟨_, rfl⟩
    · split
      · exact ⟨_, rfl⟩
      · next last _ =>
        split
        · exact ⟨_, originSet_fq s i last⟩
        · exact ⟨_, (activityPresent_fq _ _).trans (originSet_fq s i last)⟩
    · split
      · exact ⟨_, takeMeasurement_fq _ _⟩
      · exact ⟨_, rfl⟩

theorem closeFqSecond_other (s : State) {i j : InputIx} (h : j ≠ i) : (s.closeFqSecond i).fq[j] = s.fq[j] := by
  obtain ⟨x, hx⟩ := closeFqSecond_fq s i
  rw [hx]
  exact State.setFq_other s i j x h

/-! ### The work of a boundary (R3, R36) -/

/-- The closes of the two FQ inputs, in their order (notes/assumptions/7.md). -/
def closings (s : State) : State := (s.syncAlarms.closeFqSecond 0).syncAlarms.closeFqSecond 1

theorem secondWork_eq (s : State) : s.secondWork =
    (((closings s.sampleAndMinute).syncAlarms.leapAtSecond).syncAlarms.entriesAtSecond).syncAlarms := rfl

/-- When the other input holds no edge, the closes leave what the close of the one does, from a state that holds the
records and the input as they were. -/
theorem closings_of_one (s : State) {i j : InputIx} (hij : i ≠ j) (hj : (s.fq[j]).lastEdge = none) :
    ∃ c : State, c.refs = s.refs ∧ c.fq[i] = s.fq[i] ∧ (closings s).refs = (c.closeFqSecond i).refs ∧
      (closings s).fq[i] = (c.closeFqSecond i).fq[i] := by
  have hcases : ∀ i j : InputIx, i ≠ j → (i = 0 ∧ j = 1) ∨ (i = 1 ∧ j = 0) := by decide
  obtain ⟨rfl, rfl⟩ | ⟨rfl, rfl⟩ := hcases i j hij
  · have hidle : ((s.syncAlarms.closeFqSecond 0).syncAlarms.fq[(1 : InputIx)]).lastEdge = none := by
      rw [syncAlarms_fq, closeFqSecond_other _ (by decide), syncAlarms_fq]
      exact hj
    obtain ⟨x, hx⟩ := closeFqSecond_idle hidle
    refine ⟨s.syncAlarms, syncAlarms_refs s, by rw [syncAlarms_fq], ?_, ?_⟩
    · rw [closings, hx, State.setFq_refs, syncAlarms_refs]
    · rw [closings, hx, State.setFq_other _ _ _ _ (by decide), syncAlarms_fq]
  · obtain ⟨x, hx⟩ := closeFqSecond_idle (s := s.syncAlarms) (j := 0) (by rw [syncAlarms_fq]; exact hj)
    refine ⟨(s.syncAlarms.closeFqSecond 0).syncAlarms, ?_, ?_, rfl, rfl⟩
    · rw [syncAlarms_refs, hx, State.setFq_refs, syncAlarms_refs]
    · rw [syncAlarms_fq, closeFqSecond_other _ (by decide), syncAlarms_fq]

theorem closings_atBoundary {n : Nat} {s : State} (h : AtBoundary n s) : AtBoundary n (closings s) :=
  have hsync : ∀ {u : State}, AtBoundary n u → AtBoundary n u.syncAlarms := fun {u} hu =>
    hu.of_same (syncAlarms_counter u) (by rw [syncAlarms_tb])
  closeFqSecond_atBoundary (hsync (closeFqSecond_atBoundary (hsync h) 0)) 1

/-- Leap and entries, and the alarms handed over, after the closes. -/
def closingsFollowed (s : State) : State := ((s.syncAlarms.leapAtSecond).syncAlarms.entriesAtSecond).syncAlarms

theorem closingsFollowed_frame (s : State) :
    OnlyChanges [.tb, .entries, .alarms, .views] s (closingsFollowed s) := by simp [closingsFollowed]

theorem entriesAtSecond_tb (s : State) : s.entriesAtSecond.tb = s.tb :=
  same_of_frame (State.entriesAtSecond_only [.entries, .views] s s (by decide) (by decide)
    |>.mpr (OnlyChanges.refl _ s)) .tb

theorem leapAtSecond_pendingStep (s : State) : s.leapAtSecond.tb.pendingStep = s.tb.pendingStep := by
  unfold State.leapAtSecond
  split
  · split <;> rfl
  · rfl

theorem closingsFollowed_atBoundary {n : Nat} {s : State} (h : AtBoundary n s) : AtBoundary n (closingsFollowed s) := by
  refine h.of_same (same_of_frame (closingsFollowed_frame s) .counter) ?_
  rw [closingsFollowed, syncAlarms_tb, entriesAtSecond_tb, syncAlarms_tb, leapAtSecond_pendingStep, syncAlarms_tb]

/-- With no step due the counter runs on to the present and nothing else happens (R19). -/
theorem secondEnds_notDue {n : Nat} {s : State} (h : AtBoundary n s) (o : Overshoot) :
    s.secondEnds o = s.resume o := by
  unfold State.secondEnds
  split
  · next p hp => exact if_neg (by rw [h.counter]; exact h.step p hp)
  · rfl

theorem resume_frame (s : State) (o : Overshoot) : OnlyChanges [.counter, .secondOwed] s (s.resume o) := by simp

theorem resume_refs (s : State) (o : Overshoot) : (s.resume o).refs = s.refs := same_of_frame (resume_frame s o) .refs
theorem resume_fq (s : State) (o : Overshoot) : (s.resume o).fq = s.fq := same_of_frame (resume_frame s o) .fq

theorem reachSecond_frame (s : State) : OnlyChanges [.counter, .msOwed] s s.reachSecond := by simp

/-- The oldest second boundary owed, or else the next (R1). -/
theorem reachSecond_counter (s : State) : s.reachSecond.counter =
    { sec := (((s.counter.sec : Int) + 1 - s.secondOwed) % 2 ^ 48).toNat, ps := 0, frac := 0 } := by
  unfold State.reachSecond
  split
  · next h =>
    rw [Reading.mk.injEq]
    refine ⟨?_, rfl, rfl⟩
    simp only [Config.siteSeconds]
    omega
  · next h =>
    rw [Reading.mk.injEq]
    refine ⟨?_, rfl, rfl⟩
    simp only [Config.siteSeconds]
    omega

/-- No minute closes at a second that is not a whole minute (R3). -/
theorem sampleAndMinute_plain {s : State} (h : s.counter.sec % 60 ≠ 0) : s.sampleAndMinute = s.sampleSecond :=
  if_neg h

/-- A second boundary at which one FQ input holds an edge, no minute closes and no step is due: the records and that
input are left as the close of its second leaves them. -/
theorem secondBoundary_of_one {s : State} {i j : InputIx} {next : Nat} (hij : i ≠ j)
    (hj : (s.fq[j]).lastEdge = none) (hf : s.tb.state ≠ .fault)
    (hn : next = (((s.counter.sec : Int) + 1 - s.secondOwed) % 2 ^ 48).toNat) (hm : next % 60 ≠ 0)
    (hp : ∀ p ∈ s.tb.pendingStep, p.due ≠ next) :
    ∃ c : State, c.refs = s.refs ∧ c.fq[i] = s.fq[i] ∧ s.secondBoundary.refs = (c.closeFqSecond i).refs ∧
      s.secondBoundary.fq[i] = (c.closeFqSecond i).fq[i] := by
  have hcounter : s.reachSecond.counter = { sec := next, ps := 0, frac := 0 } := by rw [reachSecond_counter, hn]
  have hreach : AtBoundary next s.reachSecond :=
    ⟨hcounter, by rw [same_of_frame (reachSecond_frame s) .tb]; exact hp⟩
  have hplain : s.reachSecond.sampleAndMinute = s.reachSecond.sampleSecond :=
    sampleAndMinute_plain (by rw [hcounter]; exact hm)
  have hsample : AtBoundary next s.reachSecond.sampleSecond := hreach.of_same rfl rfl
  have hwork : s.reachSecond.secondWork = closingsFollowed (closings s.reachSecond.sampleSecond) := by
    rw [secondWork_eq, hplain]
    rfl
  have hbound : s.secondBoundary =
      (closingsFollowed (closings s.reachSecond.sampleSecond)).resume s.overshoot := by
    rw [State.secondBoundary, if_neg hf, hwork,
      secondEnds_notDue (closingsFollowed_atBoundary (closings_atBoundary hsample))]
  have hfq : s.reachSecond.sampleSecond.fq = s.fq := same_of_frame (reachSecond_frame s) .fq
  have hrefs : s.reachSecond.sampleSecond.refs = s.refs := same_of_frame (reachSecond_frame s) .refs
  obtain ⟨c, hcr, hcf, hr, hfi⟩ := closings_of_one s.reachSecond.sampleSecond hij (by rw [hfq]; exact hj)
  have hfollow := closingsFollowed_frame (closings s.reachSecond.sampleSecond)
  refine ⟨c, hcr.trans hrefs, by rw [hcf, hfq], ?_, ?_⟩
  · rw [hbound, resume_refs, ← hr]
    exact same_of_frame hfollow .refs
  · rw [← hfi]
    have h : s.secondBoundary.fq = (closings s.reachSecond.sampleSecond).fq := by
      rw [hbound, resume_fq]
      exact same_of_frame hfollow .fq
    rw [h]

/-! ### The measurement of a running second (R37 to R39) -/

/-- The frequency over the φ history with its newest value joined: the last value less the one `n` periods before it,
`n` at most 16 (R38). -/
theorem freqOffset_pushBounded (l : List Int) (a : Int) (k n : Nat) (hn : n = min k 16) :
    freqOffset (pushBounded 17 l a) k = (a - (l ++ [a]).getD (l.length - n) 0) / n := by
  have hlast : (pushBounded 17 l a).getLastD 0 = a := by
    rw [List.getLastD_eq_getLast?, pushBounded_newest 17 l a (by decide), Option.getD_some]
  have hindex : (l.length + 1 - 17) + ((pushBounded 17 l a).length - 1 - n) = l.length - n := by
    simp only [pushBounded, List.length_drop, List.length_append, List.length_singleton]
    omega
  have hget : (pushBounded 17 l a).getD ((pushBounded 17 l a).length - 1 - n) 0 =
      (l ++ [a]).getD (l.length - n) 0 := by
    rw [← hindex, List.getD_eq_getElem?_getD, List.getD_eq_getElem?_getD, ← List.getElem?_drop]
    rfl
  rw [freqOffset, ← hn, hlast, hget]

theorem countStepped_iff (x : FqInput) : x.countStepped = true ↔ x.skipCount = false ∧
    ∃ c, x.prevCount = some c ∧ 1 < ((x.count : Int) - c).natAbs := by
  unfold FqInput.countStepped
  split
  · next c h => simp [h]
  · next h => simp [h]

theorem mem_causeIf (b : Bool) (c d : Cause) : c ∈ causeIf b d ↔ b = true ∧ c = d := by
  cases b <;> simp [causeIf]

/-- The causes of an FQ period (R39). -/
theorem fqCauses_iff (x : FqInput) (f : Int) :
    (Cause.freqWindow ∈ x.causes f ↔ x.params.accept < (f.natAbs : Int)) ∧
      (Cause.countStep ∈ x.causes f ↔ x.skipCount = false ∧
        ∃ c, x.prevCount = some c ∧ 1 < ((x.count : Int) - c).natAbs) ∧
      ∀ c ∈ x.causes f, c = .freqWindow ∨ c = .countStep := by
  have hmem : ∀ c, c ∈ x.causes f ↔ (x.params.accept < (f.natAbs : Int) ∧ c = .freqWindow) ∨
      (x.countStepped = true ∧ c = .countStep) := fun c => by
    rw [FqInput.causes, List.mem_append, mem_causeIf, mem_causeIf, decide_eq_true_eq]
  rw [← countStepped_iff]
  exact ⟨by simp [hmem], by simp [hmem], fun c hc => ((hmem c).mp hc).imp And.right And.right⟩

/-- The measurement of an FQ period (R25, R37 to R39). -/
def fqMeasurement (i : InputIx) (x : FqInput) (last : Nat) (phi f : Int) : Measurement :=
  { slot := Slot.ofFq i, time := stampReading last, causes := x.causes f, e := none, u := none, labelSec := none
    quality := none, status := none, utc := none, leap := none, leapSec := none, straddles := false
    phi := some phi, freq := some f, count := some x.count, noise := none, interval := none }

/-- Settles O24: assisted steering by the phase origin, and the close of the one second that holds an edge. -/
theorem frequencyInputIsMeasuredAndSteers : Obligations.FrequencyInputIsMeasuredAndSteers := by
  unfold Obligations.FrequencyInputIsMeasuredAndSteers
  refine ⟨fun s m phi hp ha hm => ?_, ?_⟩
  · rw [handOn_assist hp ha]
    refine ⟨fun hs hc h0 => takeAssist_first hs hc hm h0, fun phi0 hs hc h0 hcls integ hi raw hr y hy => ?_,
      takeAssist_unused⟩
    rw [takeAssist_later hs hc hm h0, loopUpdate_loop, loopUpdate_tb, updated_eq hcls hi hr hy]
    exact ⟨rfl, rfl, by simp⟩
  · rintro i j s x last next hij rfl hlast hj he hf hn hm hp
    obtain ⟨c, hcr, hcf, hrefs, hfq⟩ := secondBoundary_of_one hij hj hf hn hm hp
    have hce : c.fqEnabled i = true := by rw [State.fqEnabled, hcr]; exact he
    refine ⟨s.secondBoundary.syncAlarms, rfl, fun hs => ?_, fun origin hs ho n hn' phi hphi f hfreq => ?_⟩
    · have hopened : (c.closeFqSecond i).fq[i] = (c.fq[i]).opened last := by
        have h := closeFqSecond_opening_fq hce (by rw [hcf]; exact hs) (by rw [hcf]; exact hlast)
        rw [h]
        exact State.setFq_self c i _
      rw [syncAlarms_fq, hfq, hopened, hcf]
      rfl
    · have hclose := closeFqSecond_running hce (by rw [hcf]; exact hs) (by rw [hcf]; exact hlast)
        (by rw [hcf]; exact ho)
      have hφ : (s.fq[i]).phase origin last = phi := hphi.symm
      have hfr : freqOffset (pushBounded 17 (s.fq[i]).phis phi) ((s.fq[i]).periods + 1) = f := by
        rw [freqOffset_pushBounded _ _ _ n hn', hfreq]
      have hm : (s.fq[i]).measurement i origin last = fqMeasurement i (s.fq[i]) last phi f := by
        rw [FqInput.measurement, hφ, hfr]
        rfl
      rw [hcf, hm] at hclose
      have hclosed : (c.closeFqSecond i).fq[i] = (s.fq[i]).closed origin last := by
        rw [hclose, takeMeasurement_fq, State.setFq_self]
      have hlatest : ((c.closeFqSecond i).refs[Slot.ofFq i]).latest = some (fqMeasurement i (s.fq[i]) last phi f) := by
        rw [hclose]
        exact takeMeasurement_latest _ (fqMeasurement i (s.fq[i]) last phi f) hce
      rw [syncAlarms_fq, syncAlarms_refs, hfq, hrefs, hclosed, FqInput.closed, hφ]
      exact ⟨rfl, _, hlatest, rfl, rfl, rfl, fqCauses_iff (s.fq[i]) f⟩

end Sys2Proof.Machine.ReferenceInputs
end

section
/-! Reference inputs and measurement: the requests of the selector. -/

namespace Sys2Proof.Machine.ReferenceInputs

/-! ### What a re-evaluation makes of the selector (R58) -/

theorem changePhase_sel (s : State) (new : Option Slot) : (s.changePhase new).sel = { s.sel with phase := new } := by
  have hdrop : ∀ t : State, t.dropLoopStep.sel = t.sel := fun t =>
    same_of_frame (State.dropLoopStep_only [.tb] t t (by decide) |>.mpr (OnlyChanges.refl _ t)) .sel
  have hsel : ∀ t : State, t.phaseSelected.sel = t.sel := fun t =>
    same_of_frame (State.phaseSelected_only [.tb, .loop, .hold, .views] t t (by decide) (by decide) (by decide)
      (by decide) |>.mpr (OnlyChanges.refl _ t)) .sel
  have hswi : ∀ t : State, t.phaseSwitched.sel = t.sel := fun t =>
    same_of_frame (State.phaseSwitched_only [.tb, .loop, .hold, .views] t t (by decide) (by decide) (by decide)
      (by decide) |>.mpr (OnlyChanges.refl _ t)) .sel
  have hgone : ∀ t : State, t.phaseGone.sel = t.sel := fun t =>
    same_of_frame (State.phaseGone_only [.tb, .loop, .hold, .views] t t (by decide) (by decide) (by decide)
      (by decide) |>.mpr (OnlyChanges.refl _ t)) .sel
  unfold State.changePhase
  split
  · next h => rw [← h]
  · dsimp only
    split
    · rw [hsel, notifyAll_sel, hdrop]
      rfl
    · rw [hswi, notifyAll_sel, hdrop]
      rfl
    · rw [hgone, notifyAll_sel, hdrop]
      rfl
    · rw [notifyAll_sel, hdrop]
      rfl

theorem changeAssist_sel (s : State) (new : Option Slot) : (s.changeAssist new).sel = { s.sel with assist := new } := by
  have happ : ∀ t : State, t.assistAppeared.sel = t.sel := fun t =>
    same_of_frame (State.assistAppeared_only [.tb, .loop, .hold, .views] t t (by decide) (by decide) (by decide)
      (by decide) |>.mpr (OnlyChanges.refl _ t)) .sel
  have hchg : ∀ t : State, t.assistChanged.sel = t.sel := fun t =>
    same_of_frame (State.assistChanged_only [.loop] t t (by decide) |>.mpr (OnlyChanges.refl _ t)) .sel
  have hlost : ∀ t : State, t.assistLost.sel = t.sel := fun t =>
    same_of_frame (State.assistLost_only [.tb, .loop, .hold, .views] t t (by decide) (by decide) (by decide)
      (by decide) |>.mpr (OnlyChanges.refl _ t)) .sel
  unfold State.changeAssist
  split
  · next h => rw [← h]
  · dsimp only
    split
    · rw [happ, notifyAll_sel]
      rfl
    · rw [hchg, notifyAll_sel]
      rfl
    · rw [hlost, notifyAll_sel]
      rfl
    · rw [notifyAll_sel]
      rfl

/-- A re-evaluation sets the two selections and leaves mode, force and wait (R58, R63). -/
theorem reevaluate_sel (s : State) :
    ∃ a, s.reevaluate.sel = { s.sel with phase := s.refreshCandidates.choosePhase, assist := a } :=
  ⟨_, by rw [State.reevaluate, changeAssist_sel, changePhase_sel]; rfl⟩

/-- The state of a record stands while candidate times are refreshed (R57). -/
theorem refreshCandidates_state (s : State) (i : Slot) :
    (s.refreshCandidates.refs[i]).state = (s.refs[i]).state := by
  rw [State.refreshCandidates, mapAll_get]
  split
  · split <;> rfl
  · rfl

/-- The force selects its slot while the record is QUALIFIED (R61). -/
theorem choosePhase_forced {s : State} {i : Slot} (h : s.sel.force = some i) :
    s.refreshCandidates.choosePhase = if (s.refs[i]).state = .qualified then some i else none := by
  have hf : s.refreshCandidates.sel.force = some i := h
  simp only [State.choosePhase, hf, refreshCandidates_state]

/-! ### SELECT_SET (R63) -/

theorem takePart_beBytes (k n : Nat) (rest : List Byte) (h : n < 256 ^ k) :
    takePart (.value k false) (beBytes k n ++ rest) = some ([(n : Int)], rest) := by
  simp [takePart, takeValues, takeValue_beBytes k n rest h]

theorem takePart_beBytes_last (k n : Nat) (h : n < 256 ^ k) :
    takePart (.value k false) (beBytes k n) = some ([(n : Int)], []) := by
  simpa using takePart_beBytes k n [] h

theorem takeParts_of_present {spec : PartSpec} {more : List (PartSpec × Bool)} {b b' rest : List Byte} {v : List Int}
    {vs : List (Option (List Int))} (h : takePart spec.form b = some (v, b'))
    (k : takeParts more b' = some (vs, rest)) : takeParts ((spec, true) :: more) b = some (some v :: vs, rest) := by
  simp [takeParts, h, k]

theorem takeParts_of_absent {spec : PartSpec} {more : List (PartSpec × Bool)} {b rest : List Byte}
    {vs : List (Option (List Int))} (hs : spec.required = false) (k : takeParts more b = some (vs, rest)) :
    takeParts ((spec, false) :: more) b = some (none :: vs, rest) := by
  simp [takeParts, hs, k]

/-- A SELECT_SET body: its mask says which of the two parts follow (R189). -/
theorem parseSelectSet_mask (mask : Byte) (rest : List Byte) {vs : List (Option (List Int))}
    (h : takeParts [(PartSpec.may 1, maskBit [mask] 0), (PartSpec.may 4, maskBit [mask] 1)] rest = some (vs, [])) :
    parseSelectSet (mask :: rest) = some { mode := partValue vs 0, wtr := partValue vs 1 } := by
  have hf : parseFront [PartSpec.may 1, PartSpec.may 4] (mask :: rest) = some (vs, []) := by
    rw [← h]
    rfl
  simp [parseSelectSet, parseBody, hf]

theorem parseSelectSet_both {mode wtr : Nat} (hm : mode < 256) (hw : wtr < 256 ^ 4) :
    parseSelectSet (3 :: beBytes 1 mode ++ beBytes 4 wtr) = some { mode := some mode, wtr := some wtr } :=
  parseSelectSet_mask 3 (beBytes 1 mode ++ beBytes 4 wtr) (vs := [some [(mode : Int)], some [(wtr : Int)]])
    (takeParts_of_present (takePart_beBytes 1 mode _ hm)
      (takeParts_of_present (takePart_beBytes_last 4 wtr hw) rfl))

theorem parseSelectSet_mode {mode : Nat} (hm : mode < 256) :
    parseSelectSet (1 :: beBytes 1 mode) = some { mode := some mode, wtr := none } :=
  parseSelectSet_mask 1 (beBytes 1 mode) (vs := [some [(mode : Int)], none])
    (takeParts_of_present (takePart_beBytes_last 1 mode hm) (takeParts_of_absent rfl rfl))

theorem parseSelectSet_wait {wtr : Nat} (hw : wtr < 256 ^ 4) :
    parseSelectSet (2 :: beBytes 4 wtr) = some { mode := none, wtr := some wtr } :=
  parseSelectSet_mask 2 (beBytes 4 wtr) (vs := [none, some [(wtr : Int)]])
    (takeParts_of_absent rfl (takeParts_of_present (takePart_beBytes_last 4 wtr hw) rfl))

theorem parseSelectSet_neither : parseSelectSet [0] = some { mode := none, wtr := none } :=
  parseSelectSet_mask 0 [] (vs := [none, none]) (takeParts_of_absent rfl (takeParts_of_absent rfl rfl))

/-- The holder holds the authority (R187). -/
theorem notHolder_of_holder {s : State} {p : Port} (h : s.holder = some p) : s.notHolder p = false := by
  rw [State.notHolder, h]
  exact decide_eq_false (by simp)

/-- A change of the selector's own settings, with the re-evaluation that follows it (R58). -/
def selectorSet (s : State) (x : Selector) : State := ((s.setSel x).reevaluate).syncAlarms

theorem selectorSet_ports (s : State) (x : Selector) : (selectorSet s x).ports = s.ports := by
  rw [selectorSet, syncAlarms_ports, reevaluate_ports]
  rfl

/-- What a setting of the selector leaves: the mode, force and wait that were set (R63). -/
theorem selectorSet_sel (s : State) (x : Selector) : ∃ a, (selectorSet s x).sel =
    { x with phase := (s.setSel x).refreshCandidates.choosePhase, assist := a } := by
  rw [selectorSet, syncAlarms_sel]
  exact reevaluate_sel (s.setSel x)

theorem selectorSet_only (s : State) (x : Selector) (p : Port) (r : Request) (q : PortRec) :
    OnlyChanges (.ports :: Field.selecting) s ((selectorSet (s.setPort p q) x).reply p r .done []) := by
  simp [selectorSet, Field.selecting]

/-- A SELECT_SET of the holder, its values in range, is accepted (R63). -/
theorem exec_selectSet {s : State} {p : Port} {r : Request} {q : PortRec} {v : SelectSetParts} (h : s.ready p 35 r q)
    (hh : s.holder = some p) (hv : parseSelectSet r.body = some v) (hm : optInRange 0 1 v.mode = true)
    (hw : optInRange 0 3600 v.wtr = true) :
    exec (.selectSet p) s = .next ((selectorSet (s.setPort p q) (s.sel.setMode v)).reply p r .done []) := by
  have hf : setSelection p r.body (s.setPort p q) = .accept .done [] (selectorSet (s.setPort p q) (s.sel.setMode v)) := by
    rw [setSelection, hv, parsed_some, notHolder_of_holder (s := s.setPort p q) hh, hm, hw]
    rfl
  show Host.Outcome.next (s.answer p 35 (setSelection p)) = _
  rw [answer_accepted h hf]

/-- The four bodies of a SELECT_SET: what each makes of mode and wait (R63). -/
theorem selectSet_body {s : State} {b : List Byte} {mode wtr : Nat}
    (h : (b = 3 :: beBytes 1 mode ++ beBytes 4 wtr ∧ mode ≤ 1 ∧ wtr ≤ 3600) ∨
      (b = 1 :: beBytes 1 mode ∧ mode ≤ 1 ∧ wtr = s.sel.wtr) ∨
      (b = 2 :: beBytes 4 wtr ∧ wtr ≤ 3600 ∧ mode = s.sel.mode.code) ∨
      (b = [0] ∧ mode = s.sel.mode.code ∧ wtr = s.sel.wtr)) :
    ∃ v, parseSelectSet b = some v ∧ optInRange 0 1 v.mode = true ∧ optInRange 0 3600 v.wtr = true ∧
      s.sel.setMode v = { s.sel with mode := if mode = 1 then .revertive else .nonRevertive, wtr := wtr } := by
  have hcode : s.sel.mode = if s.sel.mode.code = 1 then .revertive else .nonRevertive := by
    cases s.sel.mode <;> rfl
  rcases h with ⟨rfl, hm, hw⟩ | ⟨rfl, hm, rfl⟩ | ⟨rfl, hw, rfl⟩ | ⟨rfl, rfl, rfl⟩
  · refine ⟨_, parseSelectSet_both (by omega) (by omega), ?_, ?_, ?_⟩
    · simp [optInRange, inRange]; omega
    · simp [optInRange, inRange]; omega
    · simp [Selector.setMode, natPart]
  · refine ⟨_, parseSelectSet_mode (by omega), ?_, rfl, ?_⟩
    · simp [optInRange, inRange]; omega
    · simp [Selector.setMode, natPart]
  · refine ⟨_, parseSelectSet_wait (by omega), rfl, ?_, ?_⟩
    · simp [optInRange, inRange]; omega
    · rw [← hcode]
      simp [Selector.setMode, natPart]
  · refine ⟨_, parseSelectSet_neither, rfl, rfl, ?_⟩
    rw [← hcode]
    rfl

/-! ### SELECT_FORCE (R61, R63) -/

/-- A SELECT_FORCE of the holder that sets or clears the force is accepted. -/
theorem exec_selectForce {s : State} {p : Port} {r : Request} {q : PortRec} {v : PartnerPart} {f : Option Slot}
    (h : s.ready p 36 r q) (hh : s.holder = some p) (hv : parseSelectForce r.body = some v) (hf : forceOf v = some f) :
    exec (.selectForce p) s = .next ((selectorSet (s.setPort p q) { s.sel with force := f }).reply p r .done []) := by
  have hset : forceSelection p r.body (s.setPort p q) =
      .accept .done [] (selectorSet (s.setPort p q) { s.sel with force := f }) := by
    rw [forceSelection, hv, parsed_some, notHolder_of_holder (s := s.setPort p q) hh, refuseIf_false, hf]
    rfl
  show Host.Outcome.next (s.answer p 36 (forceSelection p)) = _
  rw [answer_accepted h hset]

theorem parseSelectForce_slot : ∀ i : Slot,
    parseSelectForce [1, BitVec.ofNat 8 i.val] = some (.slot i.val) := by decide

theorem forceOf_slot : ∀ i : Slot, (i.val < 2 ∨ 4 ≤ i.val) → forceOf (.slot i.val) = some (some i) := by decide

end Sys2Proof.Machine.ReferenceInputs
end

section
/-! Reference inputs and measurement: what REF_SET makes of records and inputs. -/

namespace Sys2Proof.Machine.ReferenceInputs

/-! ### The record of the slot (R48, R49) -/

/-- A record enabled or disabled, as the part says (R49). -/
def switchedRecord (r : RefRecord) : Option Int → RefRecord
  | some v => if v = 1 then (if r.enabled then r else r.enable) else if r.enabled then r.disable else r
  | none => r

theorem switchedRecord_enable {r : RefRecord} (h : r.enabled = false) : switchedRecord r (some 1) = r.enable := by
  simp [switchedRecord, h]

theorem switchedRecord_disable {r : RefRecord} (h : r.enabled = true) : switchedRecord r (some 0) = r.disable := by
  simp [switchedRecord, h]

/-- What a test of a record may move (R52, R53). -/
def testedRecord (r : RefRecord) (state : RefState) (k : Nat) (holdoff since candidate : Option Nat) : RefRecord :=
  { r with state := state, k := k, holdoff := holdoff, qualifiedSince := since, candidateSince := candidate }

theorem startSlot_refs (s : State) (i : Slot) : (s.startSlot i).refs = s.refs := by
  unfold State.startSlot
  split
  · rfl
  · split <;> rfl

theorem endSlot_refs (s : State) (i : Slot) : (s.endSlot i).refs = s.refs := by
  unfold State.endSlot
  split
  · rfl
  · split <;> rfl

/-- Writing back what a record holds changes nothing. -/
theorem set_same (s : State) (i : Slot) : s.refs.set i s.refs[i] = s.refs := by simp

theorem enableSlot_refs (s : State) (i : Slot) :
    (s.enableSlot i).refs = s.refs.set i (if (s.refs[i]).enabled then s.refs[i] else (s.refs[i]).enable) := by
  unfold State.enableSlot
  split
  · exact (set_same s i).symm
  · rw [startSlot_refs]
    rfl

theorem disableSlot_refs (s : State) (i : Slot) :
    (s.disableSlot i).refs = s.refs.set i (if (s.refs[i]).enabled then (s.refs[i]).disable else s.refs[i]) := by
  unfold State.disableSlot
  split
  · rw [endSlot_refs, moveRef_refs]
    rfl
  · exact (set_same s i).symm

theorem switchSlot_refs (s : State) (i : Slot) (e : Option Int) :
    (s.switchSlot i e).refs = s.refs.set i (switchedRecord s.refs[i] e) := by
  cases e with
  | none => exact (set_same s i).symm
  | some v =>
    unfold State.switchSlot switchedRecord
    dsimp only
    split
    · exact enableSlot_refs s i
    · exact disableSlot_refs s i

theorem testQualifying_refs (s : State) (i : Slot) : ∃ st k h q c,
    (s.testQualifying i).refs = s.refs.set i (testedRecord s.refs[i] st k h q c) := by
  unfold State.testQualifying
  split
  · exact ⟨_, _, _, _, _, rfl⟩
  · exact ⟨_, _, _, _, _, (set_same s i).symm⟩

theorem testQualified_refs (s : State) (i : Slot) : ∃ st k h q c,
    (s.testQualified i).refs = s.refs.set i (testedRecord s.refs[i] st k h q c) := by
  unfold State.testQualified
  split
  · exact ⟨_, _, _, _, _, moveRef_refs s i _⟩
  · exact ⟨_, _, _, _, _, (set_same s i).symm⟩

/-- The two tests of changed values move no more of the record than one test does (R48). -/
theorem retest_refs (s : State) (i : Slot) (old : RefRecord) : ∃ st k h q c,
    (s.retest i old).refs = s.refs.set i (testedRecord s.refs[i] st k h q c) := by
  have first : ∃ st k h q c, (if (s.refs[i]).qualifyTime < old.qualifyTime then s.testQualifying i else s).refs =
      s.refs.set i (testedRecord s.refs[i] st k h q c) := by
    split
    · exact testQualifying_refs s i
    · exact ⟨_, _, _, _, _, (set_same s i).symm⟩
  obtain ⟨st, k, h, q, c, ht⟩ := first
  unfold State.retest
  generalize (if (s.refs[i]).qualifyTime < old.qualifyTime then s.testQualifying i else s) = t at ht ⊢
  dsimp only
  split
  · obtain ⟨st', k', h', q', c', hu⟩ := testQualified_refs t i
    refine ⟨st', k', h', q', c', ?_⟩
    simp [hu, ht, testedRecord]
  · exact ⟨_, _, _, _, _, ht⟩

/-- A record that is DISABLED or ABSENT is not tested (R52, R53). -/
theorem retest_of_inactive {s : State} {i : Slot} (old : RefRecord)
    (h : (s.refs[i]).state = .disabled ∨ (s.refs[i]).state = .absent) : s.retest i old = s := by
  have hq : s.testQualifying i = s := by
    unfold State.testQualifying
    exact if_neg fun hc => by rcases h with h | h <;> exact absurd (h.symm.trans hc.1) (by decide)
  have hp : s.testQualified i = s := by
    unfold State.testQualified
    exact if_neg fun hc => by rcases h with h | h <;> exact absurd (h.symm.trans hc.1) (by decide)
  unfold State.retest
  dsimp only
  rw [hq, ite_self, hp, ite_self]

theorem setParams_refs (s : State) (i : Slot) (v : RefSetParts) : (s.setParams i v).refs = s.refs := by
  unfold State.setParams
  split
  · rfl
  · split <;> rfl

/-- The state with the parts of a REF_SET set and the slot switched, before the tests. -/
def partsSet (s : State) (i : Slot) (v : RefSetParts) : State :=
  ((s.setParams i v).setRef i (v.record s.refs[i])).switchSlot i v.enable

theorem setRefParts_eq (s : State) (i : Slot) (v : RefSetParts) :
    s.setRefParts i v = ((partsSet s i v).retest i s.refs[i]).reevaluate := rfl

theorem partsSet_refs (s : State) (i : Slot) (v : RefSetParts) :
    (partsSet s i v).refs = s.refs.set i (switchedRecord (v.record s.refs[i]) v.enable) := by
  rw [partsSet, switchSlot_refs, State.setRef_self, State.setRef_refs, setParams_refs, Vector.set_set]

theorem partsSet_ref (s : State) (i : Slot) (v : RefSetParts) :
    (partsSet s i v).refs[i] = switchedRecord (v.record s.refs[i]) v.enable := by
  simp [partsSet_refs]

/-- The record of the slot after a REF_SET: its parts set, switched and tested (R48, R49). -/
theorem setRefParts_ref (s : State) (i : Slot) (v : RefSetParts) : ∃ st k h q c,
    (s.setRefParts i v).refs[i] = testedRecord (switchedRecord (v.record s.refs[i]) v.enable) st k h q c := by
  obtain ⟨c, hc⟩ := reevaluate_ref ((partsSet s i v).retest i s.refs[i]) i
  obtain ⟨st, k, h, q, _, ht⟩ := retest_refs (partsSet s i v) i s.refs[i]
  refine ⟨st, k, h, q, c, ?_⟩
  rw [setRefParts_eq, hc, ht, partsSet_ref]
  simp [testedRecord]

/-- A record that is left DISABLED or ABSENT stays as it was left, but for its candidate time. -/
theorem setRefParts_ref_inactive {s : State} {i : Slot} {v : RefSetParts} {r : RefRecord}
    (h : switchedRecord (v.record s.refs[i]) v.enable = r) (hr : r.state = .disabled ∨ r.state = .absent) :
    ∃ c, (s.setRefParts i v).refs[i] = { r with candidateSince := c } := by
  have hp : (partsSet s i v).refs[i] = r := (partsSet_ref s i v).trans h
  obtain ⟨c, hc⟩ := reevaluate_ref (partsSet s i v) i
  refine ⟨c, ?_⟩
  rw [setRefParts_eq, retest_of_inactive _ (by rw [hp]; exact hr), hc, hp]

/-- A REF_SET of one slot leaves the records of the others, but for their candidate times (R57). -/
theorem setRefParts_ref_other (s : State) {i j : Slot} (v : RefSetParts) (hj : j ≠ i) :
    ∃ c, (s.setRefParts i v).refs[j] = { s.refs[j] with candidateSince := c } := by
  obtain ⟨c, hc⟩ := reevaluate_ref ((partsSet s i v).retest i s.refs[i]) j
  obtain ⟨st, k, h, q, _, ht⟩ := retest_refs (partsSet s i v) i s.refs[i]
  refine ⟨c, ?_⟩
  have hs : ((partsSet s i v).retest i s.refs[i]).refs[j] = s.refs[j] := by
    rw [ht, partsSet_refs, Vector.set_set]
    exact State.setRef_other s i j _ hj
  rw [setRefParts_eq, hc, hs]

/-- Two records agree in the parts that REF_SET sets; the pair result and sample may have gone. -/
structure SameParts (a b : RefRecord) : Prop where
  priority : b.priority = a.priority
  partner : b.partner = a.partner
  pairWindow : b.pairWindow = a.pairWindow
  qualifyTime : b.qualifyTime = a.qualifyTime
  threshold : b.threshold = a.threshold
  pairResult : a.pairResult = none → b.pairResult = none
  pairSample : a.pairSample = none → b.pairSample = none

theorem SameParts.refl (a : RefRecord) : SameParts a a := ⟨rfl, rfl, rfl, rfl, rfl, id, id⟩

theorem switchedRecord_parts (r : RefRecord) (e : Option Int) : SameParts r (switchedRecord r e) := by
  cases e with
  | none => exact .refl r
  | some v =>
    unfold switchedRecord
    dsimp only
    split
    · split
      · exact .refl r
      · exact ⟨rfl, rfl, rfl, rfl, rfl, id, id⟩
    · split
      · exact ⟨rfl, rfl, rfl, rfl, rfl, fun _ => rfl, fun _ => rfl⟩
      · exact .refl r

theorem setRefParts_parts (s : State) (i : Slot) (v : RefSetParts) :
    SameParts (v.record s.refs[i]) (s.setRefParts i v).refs[i] := by
  obtain ⟨st, k, h, q, c, hr⟩ := setRefParts_ref s i v
  obtain ⟨hpri, hpart, hwin, hqt, hth, hres, hsam⟩ := switchedRecord_parts (v.record s.refs[i]) v.enable
  rw [hr]
  exact ⟨hpri, hpart, hwin, hqt, hth, hres, hsam⟩

/-! ### The input of the slot (R26, R46) -/

/-- A TA input keeps its parameters; what it holds of its periods may have gone. -/
structure KeepsTa (a b : TaInput) : Prop where
  params : b.params = a.params
  period : a.period = none → b.period = none
  prevEdge : a.prevEdge = none → b.prevEdge = none
  jumpRef : a.jumpRef = none → b.jumpRef = none

/-- An FQ input keeps its parameters; its origin and history may have gone. -/
structure KeepsFq (a b : FqInput) : Prop where
  params : b.params = a.params
  origin : a.origin = none → b.origin = none
  phis : a.phis = [] → b.phis = []

/-- Every input keeps its parameters and holds nothing new. -/
structure KeepsParams (s t : State) : Prop where
  ta : ∀ j : InputIx, KeepsTa s.ta[j] t.ta[j]
  fq : ∀ j : InputIx, KeepsFq s.fq[j] t.fq[j]
  ofs : ∀ j : Port, (t.ofs[j]).params = (s.ofs[j]).params

namespace KeepsParams

theorem of_inputs {s t : State} (ha : t.ta = s.ta) (hf : t.fq = s.fq) (ho : t.ofs = s.ofs) : KeepsParams s t where
  ta j := by
    rw [ha]
    exact ⟨rfl, id, id, id⟩
  fq j := by
    rw [hf]
    exact ⟨rfl, id, id⟩
  ofs j := by rw [ho]

theorem refl (s : State) : KeepsParams s s := of_inputs rfl rfl rfl

theorem trans {s t u : State} (h : KeepsParams s t) (k : KeepsParams t u) : KeepsParams s u where
  ta j := ⟨(k.ta j).params.trans (h.ta j).params, (k.ta j).period ∘ (h.ta j).period,
    (k.ta j).prevEdge ∘ (h.ta j).prevEdge, (k.ta j).jumpRef ∘ (h.ta j).jumpRef⟩
  fq j := ⟨(k.fq j).params.trans (h.fq j).params, (k.fq j).origin ∘ (h.fq j).origin, (k.fq j).phis ∘ (h.fq j).phis⟩
  ofs j := (k.ofs j).trans (h.ofs j)

theorem setRef (s : State) (i : Slot) (r : RefRecord) : KeepsParams s (s.setRef i r) := of_inputs rfl rfl rfl

theorem setTa {s : State} {i : InputIx} {x : TaInput} (h : KeepsTa s.ta[i] x) : KeepsParams s (s.setTa i x) where
  ta j := by
    by_cases hj : j = i
    · subst hj
      rw [State.setTa_self]
      exact h
    · rw [State.setTa_other s i j x hj]
      exact ⟨rfl, id, id, id⟩
  fq _ := ⟨rfl, id, id⟩
  ofs _ := rfl

theorem setFq {s : State} {i : InputIx} {x : FqInput} (h : KeepsFq s.fq[i] x) : KeepsParams s (s.setFq i x) where
  ta _ := ⟨rfl, id, id, id⟩
  fq j := by
    by_cases hj : j = i
    · subst hj
      rw [State.setFq_self]
      exact h
    · rw [State.setFq_other s i j x hj]
      exact ⟨rfl, id, id⟩
  ofs _ := rfl

theorem setOf {s : State} {i : Port} {x : OfSlot} (h : x.params = (s.ofs[i]).params) :
    KeepsParams s (s.setOf i x) where
  ta _ := ⟨rfl, id, id, id⟩
  fq _ := ⟨rfl, id, id⟩
  ofs j := by
    by_cases hj : j = i
    · subst hj
      rw [State.setOf_self]
      exact h
    · rw [State.setOf_other s i j x hj]

end KeepsParams

theorem startSlot_params (s : State) (i : Slot) : KeepsParams s (s.startSlot i) := by
  unfold State.startSlot
  split
  · exact .setTa ⟨rfl, fun _ => rfl, fun _ => rfl, fun _ => rfl⟩
  · split
    · exact .setFq ⟨rfl, fun _ => rfl, fun _ => rfl⟩
    · exact .setOf rfl

theorem endSlot_params (s : State) (i : Slot) : KeepsParams s (s.endSlot i) := by
  unfold State.endSlot
  split
  · exact .setTa ⟨rfl, fun _ => rfl, fun _ => rfl, fun _ => rfl⟩
  · split
    · exact .setFq ⟨rfl, fun _ => rfl, fun _ => rfl⟩
    · exact .setOf rfl

theorem moveRef_params (s : State) (i : Slot) (r : RefRecord) : KeepsParams s (s.moveRef i r) :=
  have h := moveRef_frame s i r
  .of_inputs (same_of_frame h .ta) (same_of_frame h .fq) (same_of_frame h .ofs)

theorem switchSlot_params (s : State) (i : Slot) (e : Option Int) : KeepsParams s (s.switchSlot i e) := by
  unfold State.switchSlot
  split
  · split
    · unfold State.enableSlot
      split
      · exact .refl s
      · exact (KeepsParams.setRef s i _).trans (startSlot_params _ i)
    · unfold State.disableSlot
      split
      · exact (moveRef_params s i _).trans (endSlot_params _ i)
      · exact .refl s
  · exact .refl s

theorem retest_params (s : State) (i : Slot) (old : RefRecord) : KeepsParams s (s.retest i old) :=
  have h : OnlyChanges [.refs, .conflicts] s (s.retest i old) := by simp
  .of_inputs (same_of_frame h .ta) (same_of_frame h .fq) (same_of_frame h .ofs)

/-- A REF_SET sets the measurement parameters; what it does then keeps them. -/
theorem setRefParts_params (s : State) (i : Slot) (v : RefSetParts) :
    KeepsParams (s.setParams i v) (s.setRefParts i v) := by
  have hswitch : KeepsParams (s.setParams i v) (partsSet s i v) :=
    (KeepsParams.setRef (s.setParams i v) i _).trans (switchSlot_params _ i v.enable)
  rw [setRefParts_eq]
  refine (hswitch.trans (retest_params _ i s.refs[i])).trans ?_
  exact .of_inputs (reevaluate_ta _) (reevaluate_fq _) (reevaluate_ofs _)

theorem setParams_ta {s : State} {i : Slot} {j : InputIx} (h : i.val = j.val) (v : RefSetParts) :
    (s.setParams i v).ta[j] = (s.ta[j]).setParams (v.taParams (s.ta[j]).params) := by
  obtain rfl : Slot.taInput i = j := Fin.ext (by simp [Slot.taInput]; omega)
  have hi : Slot.isTa i = true := decide_eq_true (by omega)
  rw [State.setParams, if_pos hi, State.setTa_self]

theorem setParams_fq {s : State} {i : Slot} {j : InputIx} (h : i.val = j.val + 2) (v : RefSetParts) :
    (s.setParams i v).fq[j] = (s.fq[j]).setParams (v.fqParams (s.fq[j]).params) (s.refs[i]).enabled := by
  obtain rfl : Slot.fqInput i = j := Fin.ext (by simp [Slot.fqInput]; omega)
  have hi : ¬ Slot.isTa i = true := by simp [Slot.isTa]; omega
  have hf : Slot.isFq i = true := by simp [Slot.isFq]; omega
  rw [State.setParams, if_neg hi, if_pos hf, State.setFq_self]

theorem setParams_of {s : State} {i : Slot} {j : Port} (h : i.val = j.val + 4) (v : RefSetParts) :
    ((s.setParams i v).ofs[j]).params = v.ofParams (s.ofs[j]).params := by
  obtain rfl : Slot.ofInput i = j := Fin.ext (by simp [Slot.ofInput]; omega)
  have hi : ¬ Slot.isTa i = true := by simp [Slot.isTa]; omega
  have hf : ¬ Slot.isFq i = true := by simp [Slot.isFq]; omega
  rw [State.setParams, if_neg hi, if_neg hf, State.setOf_self]

theorem taSetParams_params (x : TaInput) (q : TaParams) : (x.setParams q).params = q := by
  unfold TaInput.setParams
  dsimp only
  split <;> rfl

/-- A new active edge takes the period, the previous edge and the jump reference (R26). -/
theorem taSetParams_edge {x : TaInput} {q : TaParams} (h : q.edge ≠ x.params.edge) :
    (x.setParams q).period = none ∧ (x.setParams q).prevEdge = none ∧ (x.setParams q).jumpRef = none := by
  simp [TaInput.setParams, h]

/-- A new compensation takes the jump reference (R26). -/
theorem taSetParams_compensation {x : TaInput} {q : TaParams} (h : q.compensation ≠ x.params.compensation) :
    (x.setParams q).jumpRef = none := by
  simp [TaInput.setParams, h]

theorem fqSetParams_params (x : FqInput) (q : FqParams) (enabled : Bool) : (x.setParams q enabled).params = q := by
  unfold FqInput.setParams
  split <;> rfl

/-- A new nominal frequency of an enabled input takes its origin and history (R26, R36). -/
theorem fqSetParams_nominal {x : FqInput} {q : FqParams} (h : q.nominal ≠ x.params.nominal) :
    (x.setParams q true).origin = none ∧ (x.setParams q true).phis = [] := by
  simp [FqInput.setParams, h, FqInput.restart]

/-! ### Values in range -/

/-- A count in range, set as a count, is the value sent. -/
theorem natPart_getD {lo hi : Int} {o : Option Int} (h : optInRange lo hi o = true) (hlo : 0 ≤ lo) (c : Nat) :
    (natPart o c : Int) = o.getD c := by
  cases o with
  | none => rfl
  | some x =>
    simp only [optInRange, inRange, Option.all_some, Bool.and_eq_true, decide_eq_true_eq] at h
    simp only [natPart, Option.getD_some]
    omega

/-- An edge code in range names the edge whose code it is. -/
theorem edge_getD {o : Option Int} (h : optInRange 0 1 o = true) (c : ActiveEdge) :
    (((o.bind ActiveEdge.ofCode).getD c).code : Int) = o.getD c.code := by
  cases o with
  | none => rfl
  | some x =>
    simp only [optInRange, inRange, Option.all_some, Bool.and_eq_true, decide_eq_true_eq] at h
    obtain rfl | rfl : x = 0 ∨ x = 1 := by omega
    · rfl
    · rfl

theorem indexOf_slot (j : Slot) : indexOf 8 j.val = some j := by
  unfold indexOf
  rw [dif_pos ⟨by omega, by omega⟩]
  rfl

/-- The record parts of an accepted REF_SET lie in their ranges (R47, R48). -/
theorem badRecord_ranges {v : RefSetParts} (h : v.badRecord = false) :
    optInRange 0 1 v.enable = true ∧ optInRange 0 15 v.priority = true ∧ optInRange 1 1000000 v.pairWindow = true ∧
      optInRange 4 600 v.qualifyTime = true ∧ optInRange 4 32 v.threshold = true := by
  simpa only [RefSetParts.badRecord, Bool.not_eq_false', Bool.and_eq_true, and_assoc] using h

/-- The counts among the measurement parameters of an accepted REF_SET lie in their ranges (R26). -/
theorem badParams_ranges {v : RefSetParts} {i : Slot} (h : v.badParams i = false) :
    optInRange 0 1 v.edge = true ∧ optInRange 1 100 v.window = true ∧ optInRange 50 1000000 v.jumpLimit = true ∧
      optInRange 1000 156250000 v.nominal = true ∧ optInRange 0 15 v.minQuality = true := by
  unfold RefSetParts.badParams at h
  have hr := (Bool.or_eq_false_iff.mp h).2
  simp only [Bool.not_eq_false', Bool.and_eq_true] at hr
  obtain ⟨⟨⟨⟨⟨⟨⟨hedge, -⟩, hwindow⟩, hjump⟩, hnominal⟩, -⟩, -⟩, hquality⟩ := hr
  exact ⟨hedge, hwindow, hjump, hnominal, hquality⟩

end Sys2Proof.Machine.ReferenceInputs
end

section
/-! Reference inputs and measurement: the requests of records and selector. -/

namespace Sys2Proof.Machine.ReferenceInputs

/-- A REF_SET of the holder whose parts are in range is accepted (R26, R48). -/
theorem exec_refSet {s : State} {p : Port} {r : Request} {q : PortRec} {v : RefSetParts} {i : Slot}
    (h : s.ready p 33 r q) (hv : parseRefSet r.body = some v) (hh : s.holder = some p) (hi : v.slot = i.val)
    (hr : v.badRecord = false) (hp : badPartner i v.partner = false) (hm : v.badParams i = false) :
    exec (.refSet p) s = .next (((s.setPort p q).setRefParts i v).syncAlarms.reply p r .done []) := by
  have hf : setRefRequest p r.body (s.setPort p q) = .accept .done [] ((s.setPort p q).setRefParts i v).syncAlarms := by
    rw [setRefRequest, hv, parsed_some, notHolder_of_holder (s := s.setPort p q) hh, refuseIf_false, hi, indexOf_slot]
    dsimp only
    rw [hr, hp, hm]
    rfl
  show Host.Outcome.next (s.answer p 33 (setRefRequest p)) = _
  rw [answer_accepted h hf]

theorem setRefParts_ports (s : State) (i : Slot) (v : RefSetParts) : (s.setRefParts i v).ports = s.ports :=
  have h : OnlyChanges ([.ta, .fq, .ofs, .conflicts] ++ Field.selecting) s (s.setRefParts i v) := by
    simp [Field.selecting]
  same_of_frame h .ports

/-- A part that is not the record's own partner takes the pair result and sample (R48). -/
theorem record_new_partner {r : RefRecord} {v : RefSetParts} (h : (v.record r).partner ≠ r.partner) :
    (v.record r).pairResult = none ∧ (v.record r).pairSample = none :=
  ⟨if_neg h, if_neg h⟩

/-- The record parts after a REF_SET: each takes its value, or stays as it was (R48). -/
theorem setRefParts_recordParts {s : State} {i : Slot} {v : RefSetParts} {b : RefRecord}
    (hb : b = (s.setRefParts i v).refs[i]) (hr : v.badRecord = false) :
    ((b.priority : Int) = v.priority.getD (s.refs[i]).priority ∧
      (b.threshold : Int) = v.threshold.getD (s.refs[i]).threshold ∧
      (b.qualifyTime : Int) = v.qualifyTime.getD (s.refs[i]).qualifyTime ∧
      (b.pairWindow : Int) = v.pairWindow.getD (s.refs[i]).pairWindow) ∧
    b.partner = PartnerPart.partner v.partner (s.refs[i]).partner ∧
    (b.partner ≠ (s.refs[i]).partner → b.pairResult = none ∧ b.pairSample = none) := by
  obtain ⟨-, hpri, hwin, hqt, hth⟩ := badRecord_ranges hr
  have parts := setRefParts_parts s i v
  rw [← hb] at parts
  refine ⟨⟨?_, ?_, ?_, ?_⟩, parts.partner, fun hne => ?_⟩
  · rw [parts.priority]
    exact natPart_getD hpri (by decide) _
  · rw [parts.threshold]
    exact natPart_getD hth (by decide) _
  · rw [parts.qualifyTime]
    exact natPart_getD hqt (by decide) _
  · rw [parts.pairWindow]
    exact natPart_getD hwin (by decide) _
  · rw [parts.partner] at hne
    obtain ⟨hres, hsam⟩ := record_new_partner hne
    exact ⟨parts.pairResult hres, parts.pairSample hsam⟩

/-- The parameters of a TA slot after a REF_SET, and what a new edge or compensation takes (R26). -/
theorem setRefParts_ta {s : State} {i : Slot} {j : InputIx} {v : RefSetParts} {b : TaInput}
    (hb : b = (s.setRefParts i v).ta[j]) (hm : v.badParams i = false) (hj : i.val = j.val) :
    (b.params.edge.code : Int) = v.edge.getD (s.ta[j]).params.edge.code ∧
    b.params.compensation = v.compensation.getD (s.ta[j]).params.compensation ∧
    (b.params.window : Int) = v.window.getD (s.ta[j]).params.window ∧
    (b.params.jumpLimit : Int) = v.jumpLimit.getD (s.ta[j]).params.jumpLimit ∧
    (b.params.edge ≠ (s.ta[j]).params.edge → b.period = none ∧ b.prevEdge = none ∧ b.jumpRef = none) ∧
    (b.params.compensation ≠ (s.ta[j]).params.compensation → b.jumpRef = none) := by
  obtain ⟨hedge, hwindow, hjump, -, -⟩ := badParams_ranges hm
  have keeps := (setRefParts_params s i v).ta j
  rw [setParams_ta hj, ← hb] at keeps
  have hq : b.params = v.taParams (s.ta[j]).params := keeps.params.trans (taSetParams_params _ _)
  rw [hq]
  refine ⟨edge_getD hedge _, rfl, natPart_getD hwindow (by decide) _, natPart_getD hjump (by decide) _, fun h => ?_,
    fun h => keeps.jumpRef (taSetParams_compensation h)⟩
  obtain ⟨hper, hprev, href⟩ := taSetParams_edge h
  exact ⟨keeps.period hper, keeps.prevEdge hprev, keeps.jumpRef href⟩

/-- The parameters of an FQ slot after a REF_SET, and what a new nominal frequency takes (R26, R36). -/
theorem setRefParts_fq {s : State} {i : Slot} {j : InputIx} {v : RefSetParts} {b : FqInput}
    (hb : b = (s.setRefParts i v).fq[j]) (hm : v.badParams i = false) (hj : i.val = j.val + 2) :
    (b.params.nominal : Int) = v.nominal.getD (s.fq[j]).params.nominal ∧
    b.params.accept = v.accept.getD (s.fq[j]).params.accept ∧
    (b.params.nominal ≠ (s.fq[j]).params.nominal → (s.refs[i]).enabled = true → b.origin = none ∧ b.phis = []) := by
  obtain ⟨-, -, -, hnominal, -⟩ := badParams_ranges hm
  have keeps := (setRefParts_params s i v).fq j
  rw [setParams_fq hj, ← hb] at keeps
  have hq : b.params = v.fqParams (s.fq[j]).params := keeps.params.trans (fqSetParams_params _ _ _)
  rw [hq]
  refine ⟨natPart_getD hnominal (by decide) _, rfl, fun h he => ?_⟩
  rw [he] at keeps
  obtain ⟨horigin, hphis⟩ := fqSetParams_nominal h
  exact ⟨keeps.origin horigin, keeps.phis hphis⟩

/-- The parameters of an OF slot after a REF_SET (R26). -/
theorem setRefParts_of {s : State} {i : Slot} {j : Port} {v : RefSetParts} {b : OfSlot}
    (hb : b = (s.setRefParts i v).ofs[j]) (hm : v.badParams i = false) (hj : i.val = j.val + 4) :
    b.params.noiseLimit = v.noiseLimit.getD (s.ofs[j]).params.noiseLimit ∧
    (b.params.minQuality : Int) = v.minQuality.getD (s.ofs[j]).params.minQuality := by
  obtain ⟨-, -, -, -, hquality⟩ := badParams_ranges hm
  rw [hb, (setRefParts_params s i v).ofs j, setParams_of hj]
  exact ⟨rfl, natPart_getD hquality (by decide) _⟩

/-- An enable takes a record that is not enabled to ABSENT with its counts at 0 (R49). -/
theorem setRefParts_enable {s : State} {i : Slot} {v : RefSetParts} {b : RefRecord}
    (hb : b = (s.setRefParts i v).refs[i]) (hv : v.enable = some 1) (he : (s.refs[i]).enabled = false) :
    b.enabled = true ∧ b.state = .absent ∧ b.goodCount = 0 ∧ b.badCount = 0 := by
  have h : switchedRecord (v.record s.refs[i]) v.enable = (v.record s.refs[i]).enable := by
    rw [hv]
    exact switchedRecord_enable he
  obtain ⟨c, hc⟩ := setRefParts_ref_inactive h (.inr rfl)
  rw [hb, hc]
  exact ⟨rfl, rfl, rfl, rfl⟩

/-- A disable takes a record that is enabled to DISABLED with score, streak and step at 0 (R49). -/
theorem setRefParts_disable {s : State} {i : Slot} {v : RefSetParts} {b : RefRecord}
    (hb : b = (s.setRefParts i v).refs[i]) (hv : v.enable = some 0) (he : (s.refs[i]).enabled = true) :
    b.enabled = false ∧ b.state = .disabled ∧ b.score = 0 ∧ b.streak = 0 ∧ b.k = 0 := by
  have h : switchedRecord (v.record s.refs[i]) v.enable = (v.record s.refs[i]).disable := by
    rw [hv]
    exact switchedRecord_disable he
  obtain ⟨c, hc⟩ := setRefParts_ref_inactive h (.inl rfl)
  rw [hb, hc]
  exact ⟨rfl, rfl, rfl, rfl, rfl⟩

/-- Without the part the record stays enabled or not, as it was (R49). -/
theorem setRefParts_enabled {s : State} {i : Slot} {v : RefSetParts} (hv : v.enable = none) :
    ((s.setRefParts i v).refs[i]).enabled = (s.refs[i]).enabled := by
  obtain ⟨st, k, h, q, c, hr⟩ := setRefParts_ref s i v
  rw [hr, hv]
  rfl

/-- Settles O49: each request sets its parts, and the re-evaluation after it leaves what was set. -/
theorem referenceRequestsTakeEffect : Obligations.ReferenceRequestsTakeEffect := by
  unfold Obligations.ReferenceRequestsTakeEffect
  refine ⟨fun p s r q v i h hv hh hi hr hp hm => ?_, fun p s r q mode wtr h hh hbody => ?_,
    fun p s r q h hb hh => ?_, fun p s r q i h hb hh hi => ?_⟩
  · refine ⟨_, exec_refSet h hv hh hi hr hp hm, answered_reply .done [] ?_, ?_⟩
    · rw [syncAlarms_ports, setRefParts_ports]
    have frame : OnlyChanges (touches (.refSet p)) s
        (((s.setPort p q).setRefParts i v).syncAlarms.reply p r .done []) := by
      simp [touches, Field.selecting]
    rw [reply_ta, syncAlarms_ta, reply_fq, syncAlarms_fq, reply_ofs, syncAlarms_ofs, reply_refs, syncAlarms_refs]
    obtain ⟨⟨hpri, hth, hqt, hwin⟩, hpartner, hpair⟩ := setRefParts_recordParts (s := s.setPort p q) rfl hr
    refine ⟨hpri, hth, hqt, hwin, fun hn => ?_, fun hn => ?_, fun j hn => ?_, hpair,
      fun j hj => setRefParts_ta (s := s.setPort p q) rfl hm hj,
      fun j hj => setRefParts_fq (s := s.setPort p q) rfl hm hj,
      fun j hj => setRefParts_of (s := s.setPort p q) rfl hm hj,
      fun hn he => setRefParts_enable (s := s.setPort p q) rfl hn he,
      fun hn he => setRefParts_disable (s := s.setPort p q) rfl hn he, fun hn => setRefParts_enabled hn,
      fun j hj => ?_, frame⟩
    · rw [hpartner, hn]
      rfl
    · rw [hpartner, hn]
      rfl
    · rw [hpartner, hn]
      exact indexOf_slot j
    · obtain ⟨c, hc⟩ := setRefParts_ref_other (s.setPort p q) v hj
      rw [hc]
      exact ⟨rfl, rfl, rfl⟩
  · obtain ⟨v, hv, hm, hw, hset⟩ := selectSet_body hbody
    obtain ⟨a, ha⟩ := selectorSet_sel (s.setPort p q) (s.sel.setMode v)
    refine ⟨_, exec_selectSet h hh hv hm hw, answered_reply .done [] (selectorSet_ports _ _), ?_, ?_, ?_,
      selectorSet_only s _ p r q⟩
    all_goals rw [reply_sel, ha, hset]
  · obtain ⟨a, ha⟩ := selectorSet_sel (s.setPort p q) { s.sel with force := none }
    refine ⟨_, exec_selectForce h hh (v := .clear) (by rw [hb]; decide) rfl,
      answered_reply .done [] (selectorSet_ports _ _), ?_, ?_, ?_, selectorSet_only s _ p r q⟩
    all_goals rw [reply_sel, ha]
  · obtain ⟨a, ha⟩ := selectorSet_sel (s.setPort p q) { s.sel with force := some i }
    refine ⟨_, exec_selectForce h hh (by rw [hb]; exact parseSelectForce_slot i) (forceOf_slot i hi),
      answered_reply .done [] (selectorSet_ports _ _), ?_, ?_, ?_, selectorSet_only s _ p r q⟩
    · rw [reply_sel, ha]
    · rw [reply_sel, ha]
      exact choosePhase_forced (s := (s.setPort p q).setSel { s.sel with force := some i }) rfl
    · rw [reply_sel, ha]

end Sys2Proof.Machine.ReferenceInputs
end

section
/-! Counts in range (O8): the invariant record by record, and the operations that leave every count alone. -/

namespace Sys2Proof.Machine

/-- Fault score, hold-off step and streak of a record lie in their ranges (R47). -/
structure RefRecord.countsInRange (r : RefRecord) : Prop where
  score : r.score ≤ 32
  k : r.k ≤ 4
  streak : r.streak ≤ 65535

/-- Lock and loss run lie in their ranges (R71). -/
structure Loop.runsInRange (l : Loop) : Prop where
  lock : l.lockRun ≤ 8
  loss : l.lossRun ≤ 3

/-- Backlog, ring, failure run and announcement counter of a drop lie in their ranges (R128, R146). -/
structure DropRec.countsInRange (r : DropRec) : Prop where
  backlog : r.backlog ≤ 15
  ring : r.ring.length ≤ 8
  failRun : r.failRun ≤ 255
  annCounter : r.annCounter ≤ 254

theorem RefRecord.countsInRange_iff (r : RefRecord) :
    r.countsInRange ↔ r.score ≤ 32 ∧ r.k ≤ 4 ∧ r.streak ≤ 65535 :=
  ⟨fun h => ⟨h.score, h.k, h.streak⟩, fun ⟨score, k, streak⟩ => ⟨score, k, streak⟩⟩

theorem Loop.runsInRange_iff (l : Loop) : l.runsInRange ↔ l.lockRun ≤ 8 ∧ l.lossRun ≤ 3 :=
  ⟨fun h => ⟨h.lock, h.loss⟩, fun ⟨lock, loss⟩ => ⟨lock, loss⟩⟩

theorem DropRec.countsInRange_iff (r : DropRec) :
    r.countsInRange ↔ r.backlog ≤ 15 ∧ r.ring.length ≤ 8 ∧ r.failRun ≤ 255 ∧ r.annCounter ≤ 254 :=
  ⟨fun h => ⟨h.backlog, h.ring, h.failRun, h.annCounter⟩,
    fun ⟨backlog, ring, failRun, annCounter⟩ => ⟨backlog, ring, failRun, annCounter⟩⟩

/-! The counts of a record together. A record that differs in other fields holds the same. -/

def RefRecord.counts (r : RefRecord) : Nat × Nat × Nat := (r.score, r.k, r.streak)
def Loop.runs (l : Loop) : Nat × Nat := (l.lockRun, l.lossRun)
def DropRec.counts (r : DropRec) : Nat × List Int × Nat × Nat := (r.backlog, r.ring, r.failRun, r.annCounter)
def Scheduler.spent (x : Scheduler) : Nat × Nat × Vector Nat 8 × Vector Nat 8 :=
  (x.unitsNow, x.unitsNext, x.itemsNow, x.itemsNext)

theorem RefRecord.countsInRange.same {r q : RefRecord} (h : r.countsInRange) (hq : q.counts = r.counts) :
    q.countsInRange := by
  simp only [RefRecord.counts, Prod.mk.injEq] at hq
  obtain ⟨score, k, streak⟩ := hq
  exact ⟨score ▸ h.score, k ▸ h.k, streak ▸ h.streak⟩

theorem Loop.runsInRange.same {l m : Loop} (h : l.runsInRange) (hm : m.runs = l.runs) : m.runsInRange := by
  simp only [Loop.runs, Prod.mk.injEq] at hm
  obtain ⟨lock, loss⟩ := hm
  exact ⟨lock ▸ h.lock, loss ▸ h.loss⟩

theorem DropRec.countsInRange.same {r q : DropRec} (h : r.countsInRange) (hq : q.counts = r.counts) :
    q.countsInRange := by
  simp only [DropRec.counts, Prod.mk.injEq] at hq
  obtain ⟨backlog, ring, failRun, annCounter⟩ := hq
  exact ⟨backlog ▸ h.backlog, ring ▸ h.ring, failRun ▸ h.failRun, annCounter ▸ h.annCounter⟩

theorem Scheduler.spentInBudget.same {x y : Scheduler} (h : x.spentInBudget) (hy : y.spent = x.spent) :
    y.spentInBudget := by
  simp only [Scheduler.spent, Prod.mk.injEq] at hy
  obtain ⟨unitsNow, unitsNext, itemsNow, itemsNext⟩ := hy
  unfold Scheduler.spentInBudget
  rw [unitsNow, unitsNext, itemsNow, itemsNext]
  exact h

/-- The invariant, block by block. -/
theorem State.countsInRange_iff (s : State) :
    s.countsInRange ↔ s.sched.spentInBudget ∧ (∀ i : Slot, (s.refs[i]).countsInRange) ∧
      (∀ k : Fin 64, (s.conflicts[k]).run ≤ 3) ∧ s.loop.runsInRange ∧
      ∀ d : DropIx, (s.drops[d]).countsInRange := by
  simp only [State.countsInRange, RefRecord.countsInRange_iff, Loop.runsInRange_iff, DropRec.countsInRange_iff,
    and_assoc]

/-- The fields that hold the counts of the invariant. -/
def Field.counted : List Field := [.sched, .refs, .conflicts, .loop, .drops]

namespace State.countsInRange

variable {s t : State}

/-! ### One block read, one block set -/

theorem sched (h : s.countsInRange) : s.sched.spentInBudget := ((countsInRange_iff s).mp h).1
theorem refs (h : s.countsInRange) (i : Slot) : (s.refs[i]).countsInRange := ((countsInRange_iff s).mp h).2.1 i
theorem conflicts (h : s.countsInRange) (k : Fin 64) : (s.conflicts[k]).run ≤ 3 :=
  ((countsInRange_iff s).mp h).2.2.1 k
theorem loop (h : s.countsInRange) : s.loop.runsInRange := ((countsInRange_iff s).mp h).2.2.2.1
theorem drops (h : s.countsInRange) (d : DropIx) : (s.drops[d]).countsInRange :=
  ((countsInRange_iff s).mp h).2.2.2.2 d

/-- What changes none of the blocks that hold counts keeps the invariant. -/
theorem frame (h : s.countsInRange) (fs : List Field) (k : OnlyChanges fs s t)
    (hfs : ∀ f ∈ Field.counted, f ∉ fs) : t.countsInRange := by
  have hsched : t.sched = s.sched := k .sched (hfs _ (by decide))
  have hrefs : t.refs = s.refs := k .refs (hfs _ (by decide))
  have hconflicts : t.conflicts = s.conflicts := k .conflicts (hfs _ (by decide))
  have hloop : t.loop = s.loop := k .loop (hfs _ (by decide))
  have hdrops : t.drops = s.drops := k .drops (hfs _ (by decide))
  unfold State.countsInRange
  rw [hsched, hrefs, hconflicts, hloop, hdrops]
  exact h

theorem setSched (h : s.countsInRange) {x : Scheduler} (hx : x.spentInBudget) : (s.setSched x).countsInRange :=
  (countsInRange_iff _).mpr ⟨hx, h.refs, h.conflicts, h.loop, h.drops⟩

theorem setLoop (h : s.countsInRange) {x : Loop} (hx : x.runsInRange) : (s.setLoop x).countsInRange :=
  (countsInRange_iff _).mpr ⟨h.sched, h.refs, h.conflicts, hx, h.drops⟩

theorem withRefs (h : s.countsInRange) {v : Vector RefRecord 8} (hv : ∀ i : Slot, (v[i]).countsInRange) :
    { s with refs := v }.countsInRange :=
  (countsInRange_iff _).mpr ⟨h.sched, hv, h.conflicts, h.loop, h.drops⟩

theorem withConflicts (h : s.countsInRange) {v : Vector PairConflict 64} (hv : ∀ k : Fin 64, (v[k]).run ≤ 3) :
    { s with conflicts := v }.countsInRange :=
  (countsInRange_iff _).mpr ⟨h.sched, h.refs, hv, h.loop, h.drops⟩

theorem withDrops (h : s.countsInRange) {v : Vector DropRec 8} (hv : ∀ d : DropIx, (v[d]).countsInRange) :
    { s with drops := v }.countsInRange :=
  (countsInRange_iff _).mpr ⟨h.sched, h.refs, h.conflicts, h.loop, hv⟩

theorem setRef (h : s.countsInRange) {i : Slot} {r : RefRecord} (hr : r.countsInRange) :
    (s.setRef i r).countsInRange :=
  h.withRefs fun j => by
    by_cases hj : j = i
    · subst hj
      simpa using hr
    · simpa [Fin.val_inj, Ne.symm hj] using h.refs j

theorem setDrop (h : s.countsInRange) {d : DropIx} {r : DropRec} (hr : r.countsInRange) :
    (s.setDrop d r).countsInRange :=
  h.withDrops fun j => by
    by_cases hj : j = d
    · subst hj
      simpa using hr
    · simpa [Fin.val_inj, Ne.symm hj] using h.drops j

theorem setConflict (h : s.countsInRange) {k : Fin 64} {c : PairConflict} (hc : c.run ≤ 3) :
    { s with conflicts := s.conflicts.set k c }.countsInRange :=
  h.withConflicts fun j => by
    by_cases hj : j = k
    · subst hj
      simpa using hc
    · simpa [Fin.val_inj, Ne.symm hj] using h.conflicts j

/-! ### What leaves every count alone -/

theorem setOsc (h : s.countsInRange) {x : OscMonitor} : (s.setOsc x).countsInRange := h
theorem setTb (h : s.countsInRange) {x : Timebase} : (s.setTb x).countsInRange := h
theorem setHold (h : s.countsInRange) {x : Holdover} : (s.setHold x).countsInRange := h
theorem setSel (h : s.countsInRange) {x : Selector} : (s.setSel x).countsInRange := h
theorem setTa (h : s.countsInRange) {i : InputIx} {x : TaInput} : (s.setTa i x).countsInRange := h
theorem setFq (h : s.countsInRange) {i : InputIx} {x : FqInput} : (s.setFq i x).countsInRange := h
theorem setOf (h : s.countsInRange) {p : Port} {x : OfSlot} : (s.setOf p x).countsInRange := h
theorem setPending (h : s.countsInRange) {q : List Instr} : (s.setPending q).countsInRange := h
theorem setPort (h : s.countsInRange) {p : Port} {q : PortRec} : (s.setPort p q).countsInRange := h
theorem disturb (h : s.countsInRange) : s.disturb.countsInRange := h
theorem disturbNext (h : s.countsInRange) : s.disturbNext.countsInRange := h
theorem emptyStaging (h : s.countsInRange) : s.emptyStaging.countsInRange := h
theorem steerByLoop (h : s.countsInRange) : s.steerByLoop.countsInRange := h
theorem makeStep (h : s.countsInRange) {a : Int} {o : StepOrigin} : (s.makeStep a o).countsInRange := h
theorem reachMonitor (h : s.countsInRange) {t : Nat} : (s.reachMonitor t).countsInRange := h
theorem reachInstant (h : s.countsInRange) {i : Nat} : (s.reachInstant i).countsInRange :=
  h.frame [.counter, .secondOwed, .msOwed] (by simp) (by decide)
theorem pass (h : s.countsInRange) {e : Elapsed} : (s.pass e).countsInRange :=
  h.frame [.counter, .secondOwed, .msOwed, .osc] (by simp) (by decide)
theorem runCounter (h : s.countsInRange) {d : Nat} : (s.runCounter d).countsInRange :=
  h.frame [.counter, .secondOwed, .msOwed] (by simp) (by decide)
theorem notifyAll (h : s.countsInRange) {n : Notice} : (s.notifyAll n).countsInRange := h.frame [.views] (by simp) (by decide)
theorem notifyOwner (h : s.countsInRange) {o : Option Port} {n : Notice} : (s.notifyOwner o n).countsInRange :=
  h.frame [.views] (by simp) (by decide)
theorem syncAlarms (h : s.countsInRange) : s.syncAlarms.countsInRange := h.frame [.alarms, .views] (by simp) (by decide)
theorem closeEpisode (h : s.countsInRange) {c : TbState} : (s.closeEpisode c).countsInRange := h.frame [.tb, .hold] (by simp) (by decide)
theorem beginEpisode (h : s.countsInRange) : s.beginEpisode.countsInRange := h.frame [.tb, .hold] (by simp) (by decide)
theorem setTbState (h : s.countsInRange) {x : TbState} : (s.setTbState x).countsInRange := h.frame [.tb, .views] (by simp) (by decide)
theorem regrade (h : s.countsInRange) : s.regrade.countsInRange := h.frame [.tb, .views] (by simp) (by decide)
theorem dropLoopStep (h : s.countsInRange) : s.dropLoopStep.countsInRange := h.frame [.tb] (by simp) (by decide)
theorem changeEntry (h : s.countsInRange) {i : EntryIx} {f : Entry → Entry} : (s.changeEntry i f).countsInRange :=
  h.frame [.entries] (by simp) (by decide)

/-- A loop keeps the invariant when each of its turns does. -/
theorem forEach {n : Nat} {f : Fin n → State → State} (h : s.countsInRange)
    (hf : ∀ i u, u.countsInRange → (f i u).countsInRange) : (Machine.forEach n s f).countsInRange :=
  forEach_invariant n s f State.countsInRange hf h

end State.countsInRange

end Sys2Proof.Machine
end

section
/-! Counts in range (O8): the timebase, the discipline loop, and a change of selection. -/

namespace Sys2Proof.Machine

namespace State.countsInRange

variable {s : State}

/-! ### States of the timebase left and entered -/

theorem leaveState (h : s.countsInRange) : s.leaveState.countsInRange := by
  unfold State.leaveState
  split
  case h_1 => exact .setHold (.setLoop h (h.loop.same rfl))
  case h_2 => exact .dropLoopStep (.setTb h)
  case h_3 => exact .setLoop h (h.loop.same rfl)
  all_goals exact h

theorem loopReleased (h : s.countsInRange) : s.loopReleased.countsInRange := .setLoop h (h.loop.same rfl)

theorem loadLoop (h : s.countsInRange) : s.loadLoop.countsInRange := by
  unfold State.loadLoop
  split
  · exact .setLoop h (h.loop.same rfl)
  · exact h

theorem setClass (h : s.countsInRange) {c : Nat} : (s.setClass c).countsInRange := by
  unfold State.setClass
  split
  · exact h
  · exact .disturb (.setLoop h (h.loop.same rfl))

theorem enterFreerun (h : s.countsInRange) : s.enterFreerun.countsInRange :=
  .regrade (.setTbState (.setTb h.leaveState.loopReleased))

/-- Each entry to a steered state starts the lock run afresh (R83). -/
theorem setLockRunZero (h : s.countsInRange) : (s.setLoop { s.loop with lockRun := 0 }).countsInRange :=
  .setLoop h ⟨Nat.zero_le _, h.loop.loss⟩

theorem reacquire (h : s.countsInRange) : s.reacquire.countsInRange :=
  .regrade (.setTbState (.emptyStaging (.setTb h.leaveState.setLockRunZero)))

theorem acquire (h : s.countsInRange) : s.acquire.countsInRange :=
  .regrade (.setTbState (.steerByLoop (.setTb (.setLockRunZero (.emptyStaging
    (.setClass (.closeEpisode h.loadLoop.leaveState)))))))

theorem enterLocked (h : s.countsInRange) : s.enterLocked.countsInRange :=
  .regrade (.setTbState (.setTb (.setLoop h.leaveState ⟨Nat.zero_le _, Nat.zero_le _⟩)))

/-- A phase origin given up takes no run with it (R82). -/
theorem dropPhaseOrigin (h : s.countsInRange) :
    (s.setLoop { s.loop with phi0 := none, minuteHeld := false }).countsInRange := .setLoop h (h.loop.same rfl)

theorem enterAssisted (h : s.countsInRange) : s.enterAssisted.countsInRange :=
  .regrade (.setTbState (.steerByLoop h.beginEpisode.loadLoop.leaveState.emptyStaging.dropPhaseOrigin))

theorem enterHoldover (h : s.countsInRange) : s.enterHoldover.countsInRange :=
  .regrade (.setTbState (.setTb h.beginEpisode.leaveState.loopReleased))

/-! ### Reports that move the timebase -/

theorem phaseGone (h : s.countsInRange) : s.phaseGone.countsInRange := by
  unfold State.phaseGone
  split
  · split
    · exact h.enterAssisted
    · split
      · exact h.enterHoldover
      · exact h.enterFreerun
  · exact h

theorem freerunTests (h : s.countsInRange) : s.freerunTests.countsInRange := by
  unfold State.freerunTests
  split
  · split
    · exact h.acquire
    · split
      · exact h.enterAssisted
      · exact h
  · exact h

theorem phaseSelected (h : s.countsInRange) : s.phaseSelected.countsInRange := by
  unfold State.phaseSelected
  split
  · exact h.acquire
  · exact h

theorem phaseSwitched (h : s.countsInRange) : s.phaseSwitched.countsInRange := by
  unfold State.phaseSwitched
  split
  · exact h.reacquire
  · split
    · exact h.setLockRunZero
    · exact h

theorem assistAppeared (h : s.countsInRange) : s.assistAppeared.countsInRange := by
  unfold State.assistAppeared
  split
  · exact h.enterAssisted
  · exact h.freerunTests

theorem assistLost (h : s.countsInRange) : s.assistLost.countsInRange := by
  unfold State.assistLost
  split
  · exact h.enterHoldover
  · exact h

theorem assistChanged (h : s.countsInRange) : s.assistChanged.countsInRange := by
  unfold State.assistChanged
  split
  · exact .setLoop h (h.loop.same rfl)
  · exact h

theorem setForce (h : s.countsInRange) {on : Bool} : (s.setForce on).countsInRange := by
  unfold State.setForce
  split
  · exact h
  · split
    · exact .phaseGone (.dropLoopStep (.setTb h))
    · split
      · exact .phaseSelected (.setTb h)
      · exact .setTb h

theorem warmupEnds (h : s.countsInRange) : s.warmupEnds.countsInRange := .freerunTests (.enterFreerun (.setOsc h))

/-! ### The loop -/

theorem loopUpdate (h : s.countsInRange) {cls : Nat} {u : Int} : (s.loopUpdate cls u).countsInRange := by
  have ht : (s.setLoop (s.loop.updated s.lp.yMax cls u)).steerByLoop.countsInRange :=
    .steerByLoop (.setLoop h (h.loop.same rfl))
  unfold State.loopUpdate
  dsimp only
  split
  · exact ht.disturb
  · exact ht

theorem phaseUpdate (h : s.countsInRange) {u : Int} : (s.phaseUpdate u).countsInRange :=
  .setLoop h.loopUpdate (h.loopUpdate.loop.same rfl)

/-- The eighth small update ends the lock run (R79). -/
theorem countLock (h : s.countsInRange) {u : Int} : (s.countLock u).countsInRange := by
  unfold State.countLock
  split
  · split
    · exact h.enterLocked
    · next hrun => exact .setLoop h ⟨by dsimp only; omega, h.loop.loss⟩
  · exact h.setLockRunZero

/-- The third large update ends the loss run (R80). -/
theorem countLoss (h : s.countsInRange) {u : Int} : (s.countLoss u).countsInRange := by
  have hzero : (s.setLoop { s.loop with lossRun := 0 }).countsInRange := .setLoop h ⟨h.loop.lock, Nat.zero_le _⟩
  unfold State.countLoss
  split
  · split
    · exact hzero.reacquire
    · next hrun => exact .setLoop h ⟨h.loop.lock, by dsimp only; omega⟩
  · exact hzero

theorem descend (h : s.countsInRange) : s.descend.countsInRange := by
  have hstep : (s.setLoop { s.loop with cls := s.loop.cls + 1 }).disturbNext.countsInRange :=
    .disturbNext (.setLoop h (h.loop.same rfl))
  unfold State.descend
  dsimp only
  split
  · exact .setLoop hstep (hstep.loop.same rfl)
  · exact .setLoop h (h.loop.same rfl)

theorem loopUse (h : s.countsInRange) {good : Bool} {u : Int} : (s.loopUse good u).countsInRange := by
  unfold State.loopUse
  split
  · exact h
  · split
    · split
      · split
        · exact .makeStep h.setLockRunZero
        · exact h.phaseUpdate.countLock
      · exact h.setLockRunZero
    · split
      · split
        · exact h.phaseUpdate.countLoss
        · exact h
      · exact h

theorem takePhase (h : s.countsInRange) {m : Measurement} : (s.takePhase m).countsInRange := by
  unfold State.takePhase
  split
  · exact h
  · exact (h.loopUse (good := m.causes.isEmpty) (u := m.u.getD 0)).frame [.tb, .aligned] (by simp) (by decide)

theorem takeAssist (h : s.countsInRange) {m : Measurement} : (s.takeAssist m).countsInRange := by
  unfold State.takeAssist
  split
  · split
    · exact h
    · split
      · exact .setLoop h (h.loop.same rfl)
      · exact h.loopUpdate
  · exact h

/-! ### Selection -/

theorem changePhase (h : s.countsInRange) {new : Option Slot} : (s.changePhase new).countsInRange := by
  have ht : ((((s.setSel { s.sel with phase := new }).disturb).dropLoopStep).notifyAll
      (s.notice .refSwitched 0 (slotCode s.sel.phase) (slotCode new))).countsInRange :=
    .notifyAll (.dropLoopStep (.disturb (.setSel h)))
  unfold State.changePhase
  split
  · exact h
  · dsimp only
    split
    · exact ht.phaseSelected
    · exact ht.phaseSwitched
    · exact ht.phaseGone
    · exact ht

theorem changeAssist (h : s.countsInRange) {new : Option Slot} : (s.changeAssist new).countsInRange := by
  have ht : ((s.setSel { s.sel with assist := new }).notifyAll
      (s.notice .refSwitched 1 (slotCode s.sel.assist) (slotCode new))).countsInRange :=
    .notifyAll (.setSel h)
  unfold State.changeAssist
  split
  · exact h
  · dsimp only
    split
    · exact ht.assistAppeared
    · exact ht.assistChanged
    · exact ht.assistLost
    · exact ht

theorem refreshCandidates (h : s.countsInRange) : s.refreshCandidates.countsInRange :=
  h.withRefs fun i => by
    rw [mapAll_get]
    split
    · split
      · exact h.refs i
      · exact (h.refs i).same rfl
    · exact (h.refs i).same rfl

theorem reevaluate (h : s.countsInRange) : s.reevaluate.countsInRange :=
  h.refreshCandidates.changePhase.changeAssist

/-! ### Requests of the loop -/

theorem freeSteer (h : s.countsInRange) : s.freeSteer.countsInRange := h.frame [.tb] (by simp) (by decide)

theorem setLoopParts (h : s.countsInRange) {v : LoopSetParts} : (s.setLoopParts v).countsInRange := by
  have hfall {t : State} (ht : t.countsInRange) : t.fallToTracking.countsInRange := by
    unfold State.fallToTracking
    split
    · exact ht.setClass
    · exact ht
  have hparams {t : State} (ht : t.countsInRange) :
      State.countsInRange { t with lp := v.loopParams s.lp, hp := v.holdParams s.hp } := ht
  have hlower {y : Int} : (s.lowerYMax y).countsInRange := .setTb (.setLoop h (h.loop.same rfl))
  unfold State.setLoopParts
  dsimp only
  split
  · exact .regrade (hfall (.freeSteer (hparams hlower)))
  · exact .regrade (hfall (.freeSteer (hparams h)))

end State.countsInRange

end Sys2Proof.Machine
end

section
/-! Counts in range (O8): the qualifier, and the reference front end that hands it measurements. -/

namespace Sys2Proof.Machine

/-- The hold-off step after a disqualification ends at 4 (R53). -/
theorem State.backoff_le (s : State) (r : RefRecord) : s.backoff r ≤ 4 := by
  unfold State.backoff
  split
  · split
    · exact Nat.min_le_left _ _
    · exact Nat.zero_le _
  · exact Nat.min_le_left _ _

/-- The run of a pair ends at 3 (R67). -/
theorem PairConflict.count_run_le (c : PairConflict) (sec : Nat) (agree : Bool) : (c.count sec agree).run ≤ 3 := by
  rw [PairConflict.count_run]
  split
  · exact Nat.zero_le _
  · exact Nat.min_le_left _ _

namespace RefRecord.countsInRange

variable {r : RefRecord}

theorem scoreGood (h : r.countsInRange) {q : Option Nat} : (r.scoreGood q).countsInRange :=
  ⟨Nat.le_trans (Nat.sub_le _ _) h.score, h.k, countUp_le _ _⟩

theorem scoreBad (h : r.countsInRange) : r.scoreBad.countsInRange :=
  ⟨Nat.min_le_left _ _, h.k, Nat.zero_le _⟩

/-- A streak that begins afresh leaves the other counts (R51, R54). -/
theorem streakZero {q : RefRecord} (h : r.countsInRange) (score : q.score = r.score)
    (k : q.k = r.k) (streak : q.streak = 0) : q.countsInRange :=
  ⟨score ▸ h.score, k ▸ h.k, streak ▸ Nat.zero_le _⟩

theorem charged (h : r.countsInRange) {n : Nat} :
    { r with score := min 32 (r.score + 4), streak := 0, conflictCount := n }.countsInRange :=
  ⟨Nat.min_le_left _ _, h.k, Nat.zero_le _⟩

theorem withParts (h : r.countsInRange) {v : RefSetParts} : (v.record r).countsInRange := h.same rfl

theorem disable : r.disable.countsInRange := ⟨Nat.zero_le _, Nat.zero_le _, Nat.zero_le _⟩

end RefRecord.countsInRange

namespace State.countsInRange

variable {s : State}

/-! ### Scores -/

theorem clearPair (h : s.countsInRange) {i j : Slot} : (s.clearPair i j).countsInRange :=
  h.setConflict (Nat.zero_le 3)

theorem moveRef (h : s.countsInRange) {i : Slot} {r : RefRecord} (hr : r.countsInRange) :
    (s.moveRef i r).countsInRange := by
  unfold State.moveRef
  split
  · exact .forEach (.setRef h hr) fun j u hu => hu.clearPair
  · exact .setRef h hr

theorem testQualified (h : s.countsInRange) {i : Slot} : (s.testQualified i).countsInRange := by
  unfold State.testQualified
  split
  · exact .moveRef h ⟨(h.refs i).score, s.backoff_le _, (h.refs i).streak⟩
  · exact h

theorem testQualifying (h : s.countsInRange) {i : Slot} : (s.testQualifying i).countsInRange := by
  unfold State.testQualifying
  split
  · exact .setRef h ((h.refs i).same rfl)
  · exact h

theorem score (h : s.countsInRange) {m : Measurement} : (s.score m).countsInRange := by
  have hkept : { s.refs[m.slot] with latest := some m }.countsInRange := (h.refs m.slot).same rfl
  unfold State.score
  dsimp only
  split
  · split
    · exact .testQualifying (.setRef h hkept.scoreGood)
    · exact .testQualified (.setRef h hkept.scoreBad)
  · exact .setRef h hkept

/-! ### Pairing and label conflict -/

theorem comparePair (h : s.countsInRange) {i j : Slot} : (s.comparePair i j).countsInRange := by
  unfold State.comparePair
  split
  · split
    · split
      · exact .setRef h ((h.refs i).same rfl)
      · exact h
    · exact h
  · exact h

theorem pairingStep (h : s.countsInRange) {m : Measurement} : (s.pairingStep m).countsInRange := by
  unfold State.pairingStep
  split
  · split
    · refine .forEach (.setRef h ((h.refs m.slot).same rfl)) fun j u hu => ?_
      split
      · exact hu
      · exact hu.comparePair.comparePair
    · exact h
  · exact h

theorem charge (h : s.countsInRange) {i : Slot} : (s.charge i).countsInRange :=
  .testQualified (.setRef h (h.refs i).charged)

theorem compareLabels (h : s.countsInRange) {i j : Slot} {sec : Nat} {agree : Bool} :
    (s.compareLabels i j sec agree).countsInRange := by
  have hcount := h.setConflict (k := pairIndex i j) (PairConflict.count_run_le s.conflicts[pairIndex i j] sec agree)
  unfold State.compareLabels
  dsimp only
  split
  · exact h
  · split
    · exact hcount.charge
    · exact hcount

theorem labelStep (h : s.countsInRange) {m : Measurement} : (s.labelStep m).countsInRange := by
  unfold State.labelStep
  split
  · split
    · refine .forEach (.setRef h ((h.refs m.slot).same rfl)) fun j u hu => ?_
      split
      · split
        · split
          · exact hu.compareLabels
          · exact hu
        · exact hu
      · exact hu
    · exact h
  · exact h

/-! ### Measurements and activity -/

theorem handOn (h : s.countsInRange) {m : Measurement} : (s.handOn m).countsInRange := by
  unfold State.handOn
  split
  · exact h.takePhase
  · split
    · exact h.takeAssist
    · exact h

theorem takeMeasurement (h : s.countsInRange) {m : Measurement} : (s.takeMeasurement m).countsInRange := by
  unfold State.takeMeasurement
  split
  · exact h.score.pairingStep.labelStep.reevaluate.handOn
  · exact h

theorem activityLost (h : s.countsInRange) {i : Slot} : (s.activityLost i).countsInRange := by
  unfold State.activityLost
  split
  case h_1 => exact h
  case h_2 => exact h
  all_goals exact .reevaluate (.moveRef h ((h.refs i).streakZero rfl rfl rfl))

theorem activityPresent (h : s.countsInRange) {i : Slot} : (s.activityPresent i).countsInRange := by
  unfold State.activityPresent
  split
  · exact .reevaluate (.setRef h ((h.refs i).streakZero rfl rfl rfl))
  · exact h

theorem holdoffEnds (h : s.countsInRange) {i : Slot} : (s.holdoffEnds i).countsInRange := by
  unfold State.holdoffEnds
  split
  · exact .reevaluate (.setRef h ((h.refs i).streakZero rfl rfl rfl))
  · exact h

theorem refsAtStep (h : s.countsInRange) : s.refsAtStep.countsInRange :=
  (h.withRefs (v := mapAll s.refs fun _ r => { r with pairSample := none, labelSample := none }) fun i => by
    rw [mapAll_get]
    exact (h.refs i).same rfl).withConflicts fun k => by
    rw [mapAll_get]
    exact h.conflicts k

theorem refsAtFault (h : s.countsInRange) : s.refsAtFault.countsInRange :=
  (h.withRefs (v := mapAll s.refs fun _ r => { r with pairSample := none, labelSample := none, pairResult := none })
    fun i => by
      rw [mapAll_get]
      exact (h.refs i).same rfl).withConflicts fun k => by
    rw [mapAll_get]
    exact Nat.zero_le 3

/-! ### REF_SET -/

theorem enableSlot (h : s.countsInRange) {i : Slot} : (s.enableSlot i).countsInRange := by
  have hr : (s.setRef i (s.refs[i]).enable).countsInRange := .setRef h ((h.refs i).same rfl)
  unfold State.enableSlot
  split
  · exact h
  · exact hr.frame [.ta, .fq, .ofs] (by simp) (by decide)

theorem disableSlot (h : s.countsInRange) {i : Slot} : (s.disableSlot i).countsInRange := by
  have hr : (s.moveRef i (s.refs[i]).disable).countsInRange := .moveRef h .disable
  unfold State.disableSlot
  split
  · exact hr.frame [.ta, .fq, .ofs] (by simp) (by decide)
  · exact h

theorem switchSlot (h : s.countsInRange) {i : Slot} {v : Option Int} : (s.switchSlot i v).countsInRange := by
  unfold State.switchSlot
  split
  · split
    · exact h.enableSlot
    · exact h.disableSlot
  · exact h

theorem retest (h : s.countsInRange) {i : Slot} {old : RefRecord} : (s.retest i old).countsInRange := by
  have hthreshold {t : State} (ht : t.countsInRange) :
      (if (t.refs[i]).threshold < old.threshold then t.testQualified i else t).countsInRange := by
    split
    · exact ht.testQualified
    · exact ht
  unfold State.retest
  dsimp only
  split
  · exact hthreshold h.testQualifying
  · exact hthreshold h

theorem setRefParts (h : s.countsInRange) {i : Slot} {v : RefSetParts} : (s.setRefParts i v).countsInRange := by
  have hparams : (s.setParams i v).countsInRange := h.frame [.ta, .fq, .ofs] (by simp) (by decide)
  have hparts : ((s.setParams i v).setRef i (v.record s.refs[i])).countsInRange :=
    .setRef hparams (h.refs i).withParts
  exact .reevaluate (.retest (.switchSlot hparts))

/-! ### TA inputs -/

theorem judgePeriod (h : s.countsInRange) {i : InputIx} {p : TaPeriod} : (s.judgePeriod i p).countsInRange :=
  .takeMeasurement (.setTa h)

theorem judgeIfWhole (h : s.countsInRange) {i : InputIx} : (s.judgeIfWhole i).countsInRange := by
  unfold State.judgeIfWhole
  split
  · split
    · exact h.judgePeriod
    · exact h
  · exact h

theorem judgeAtClose (h : s.countsInRange) {i : InputIx} : (s.judgeAtClose i).countsInRange := by
  unfold State.judgeAtClose
  split
  · split
    · exact h
    · exact h.judgePeriod
  · exact h

theorem taActivity (h : s.countsInRange) {i : InputIx} : (s.taActivity i).countsInRange := by
  unfold State.taActivity
  dsimp only
  split
  · exact .setTa h
  · exact .activityPresent (.setTa h)

theorem taEdge (h : s.countsInRange) {i : InputIx} : (s.taEdge i).countsInRange := by
  unfold State.taEdge
  dsimp only
  split
  · exact h
  · split
    · exact h.taActivity
    · split
      · exact .setTa h.taActivity
      · split
        · exact (h.taActivity (i := i)).frame [.ta] (by simp) (by decide)
        · exact .setTa h.taActivity.judgeAtClose

theorem taTrailing (h : s.countsInRange) {i : InputIx} : (s.taTrailing i).countsInRange := by
  unfold State.taTrailing
  split
  · exact h
  · split
    · split
      · exact .judgeIfWhole (.setTa h)
      · exact h
    · exact h

theorem taWindowClose (h : s.countsInRange) {i : InputIx} : (s.taWindowClose i).countsInRange := by
  unfold State.taWindowClose
  split
  · split
    · exact h
    · exact h.reachInstant.judgeAtClose
  · exact h

theorem taGuardEnd (h : s.countsInRange) {i : InputIx} : (s.taGuardEnd i).countsInRange := by
  unfold State.taGuardEnd
  split
  · exact .setTa h.reachInstant.judgeAtClose
  · exact h

theorem taTimeout (h : s.countsInRange) {i : InputIx} : (s.taTimeout i).countsInRange := by
  unfold State.taTimeout
  split
  · exact h
  · dsimp only
    split
    · exact .activityLost (.setTa h.reachMonitor)
    · exact .setTa h.reachMonitor

/-! ### Labels -/

theorem placeLabel (h : s.countsInRange) {i : InputIx} {l : HeldLabel} : (s.placeLabel i l).countsInRange := by
  unfold State.placeLabel
  split
  · split
    · exact .judgeIfWhole (.setTa h)
    · exact .setTa h
  · exact .setTa h

theorem heldBytes (h : s.countsInRange) {i : InputIx} {b : Byte} : (s.heldBytes i b).countsInRange := by
  unfold State.heldBytes
  split
  · split
    · exact .setTa h
    · exact h
  · split
    · exact .placeLabel (.setTa h)
    · exact .setTa h

theorem labelByte (h : s.countsInRange) {i : InputIx} {b : Byte} : (s.labelByte i b).countsInRange := by
  unfold State.labelByte
  split
  · exact h
  · split
    · exact .heldBytes (.setTa h)
    · exact h.heldBytes

theorem labelBytes (h : s.countsInRange) {i : InputIx} {l : List Byte} : (s.labelBytes i l).countsInRange := by
  unfold State.labelBytes
  induction l generalizing s with
  | nil => exact h
  | cons b l ih => exact ih h.labelByte

/-! ### FQ inputs and OF slots -/

theorem originTaken (h : s.countsInRange) {i : InputIx} {b : Bool} : (s.originTaken i b).countsInRange := by
  unfold State.originTaken
  split
  · exact .setLoop h (h.loop.same rfl)
  · exact h

theorem closeFqSecond (h : s.countsInRange) {i : InputIx} : (s.closeFqSecond i).countsInRange := by
  unfold State.closeFqSecond
  dsimp only
  split
  · exact h
  · split
    case h_1 => exact h
    case h_2 => exact .setFq h
    case h_3 =>
      split
      · exact .setFq h
      · split
        · exact .originTaken (.setFq h)
        · exact .activityPresent (.originTaken (.setFq h))
    case h_4 =>
      split
      · exact .takeMeasurement (.setFq h)
      · exact .setFq h

theorem fqTimeout (h : s.countsInRange) {i : InputIx} : (s.fqTimeout i).countsInRange := by
  unfold State.fqTimeout
  split
  · exact h
  · dsimp only
    split
    · exact .activityLost (.setFq h.reachMonitor)
    · exact .setFq h.reachMonitor

theorem takeReport (h : s.countsInRange) {p : Port} {e whole : Int} {interval quality noise : Nat} :
    (s.takeReport p e whole interval quality noise).countsInRange := by
  have hmeasured {u : State} (hu : u.countsInRange) :
      (if u.tb.state = .fault then u
        else u.takeMeasurement (u.ofMeasurement p e whole interval quality noise)).countsInRange := by
    split
    · exact hu
    · exact hu.takeMeasurement
  unfold State.takeReport
  dsimp only
  split
  · exact hmeasured (.setOf h)
  · exact hmeasured (.activityPresent (.setOf h))

theorem ofTimeout (h : s.countsInRange) {p : Port} : (s.ofTimeout p).countsInRange := by
  unfold State.ofTimeout
  split
  · exact h
  · dsimp only
    split
    · exact .activityLost (.setOf h.reachMonitor)
    · exact .setOf h.reachMonitor

end State.countsInRange

end Sys2Proof.Machine
end

section
/-! Counts in range (O8): the drop controllers and the emission scheduler. -/

namespace Sys2Proof.Machine

namespace DropRec.countsInRange

variable {r : DropRec}

theorem toSeeking : r.toSeeking.countsInRange :=
  ⟨Nat.zero_le _, Nat.zero_le _, Nat.zero_le _, Nat.zero_le _⟩

theorem toDisabled : r.toDisabled.countsInRange := ⟨Nat.zero_le _, Nat.zero_le _, Nat.zero_le _, Nat.zero_le _⟩

theorem toServing (h : r.countsInRange) {p : Profile} : (r.toServing p).countsInRange :=
  ⟨h.backlog, h.ring, Nat.zero_le _, h.annCounter⟩

theorem turnBack (h : r.countsInRange) : r.turnBack.countsInRange := h.same rfl

theorem countFailure (h : r.countsInRange) {c : FailCause} : (r.countFailure c).countsInRange := by
  cases c <;> exact h.same rfl

/-- The failure run goes up to 255 (R143). -/
theorem failed (h : r.countsInRange) : { r with failRun := countUp 255 r.failRun }.countsInRange :=
  ⟨h.backlog, h.ring, countUp_le _ _, h.annCounter⟩

/-- The ring holds the newest eight results (R128). -/
theorem joined (h : r.countsInRange) {x : Int} :
    { r with ring := pushBounded Config.ringMax r.ring x, failRun := 0 }.countsInRange :=
  ⟨h.backlog, pushBounded_length _ _ _ (by decide), Nat.zero_le _, h.annCounter⟩

/-- A stopped announcement is owed again, up to 15 (R146, R150). -/
theorem backlogBack_le (h : r.countsInRange) : r.backlogBack ≤ 15 := by
  unfold DropRec.backlogBack
  split
  · exact Nat.min_le_left _ _
  · exact h.backlog

theorem stopMessage (h : r.countsInRange) {k : SentKind} : (r.stopMessage k).countsInRange := by
  have hback {a : Announcement} : { r.unsentAnnouncement a with backlog := r.backlogBack }.countsInRange :=
    ⟨h.backlogBack_le, h.ring, h.failRun, h.annCounter⟩
  cases k with
  | mark => exact h
  | announce a prior =>
    unfold DropRec.stopMessage
    dsimp only
    split
    · exact (hback (a := a)).same rfl
    · exact (hback (a := a)).same rfl
  | probe dueSince timer prior =>
    unfold DropRec.stopMessage
    dsimp only
    split <;> exact h.same rfl
  | offer timer prior =>
    unfold DropRec.stopMessage
    dsimp only
    split <;> exact h.same rfl

theorem recordPlaced (h : r.countsInRange) {a : Announcement} : (r.recordPlaced a).countsInRange := by
  unfold DropRec.recordPlaced
  split
  · exact ⟨h.backlog, h.ring, h.failRun, Nat.zero_le _⟩
  · exact ⟨h.backlog, h.ring, h.failRun, Nat.min_le_left _ _⟩

theorem released (h : r.countsInRange) {k : SoftKind} : (r.released k).countsInRange := by
  cases k <;> exact h.same rfl

theorem sendAnnouncement (h : r.countsInRange) {a : Announcement} {n : Nat} :
    (r.sendAnnouncement a n).countsInRange :=
  ⟨Nat.le_trans (Nat.sub_le _ _) h.backlog, h.ring, h.failRun, h.annCounter⟩

end DropRec.countsInRange

namespace State.countsInRange

variable {s : State} {d : DropIx}

/-! ### States of a drop -/

theorem reformDelay (h : s.countsInRange) : (s.reformDelay d).countsInRange := by
  unfold State.reformDelay
  dsimp only
  split
  · refine .notifyOwner (.setDrop h ?_)
    exact (h.drops d).same rfl
  · exact .setDrop h ((h.drops d).same rfl)

theorem moveDrop (h : s.countsInRange) {r : DropRec} (hr : r.countsInRange) : (s.moveDrop d r).countsInRange := by
  unfold State.moveDrop
  split
  · exact .setDrop h hr
  · exact .notifyOwner (.setDrop h hr)

theorem enterSeeking (h : s.countsInRange) : (s.enterSeeking d).countsInRange :=
  .reformDelay (.moveDrop h .toSeeking)

theorem disableDrop (h : s.countsInRange) : (s.disableDrop d).countsInRange := by
  unfold State.disableDrop
  split
  · exact h
  · exact .reformDelay (.moveDrop h .toDisabled)

theorem enableDrop (h : s.countsInRange) : (s.enableDrop d).countsInRange := by
  unfold State.enableDrop
  split
  · exact h
  · exact .enterSeeking (.setDrop h ((h.drops d).same rfl))

/-! ### Exchanges -/

theorem failExchange (h : s.countsInRange) {c : FailCause} : (s.failExchange d c).countsInRange := by
  have hr : ((s.drops[d]).countFailure c).countsInRange := (h.drops d).countFailure
  unfold State.failExchange
  dsimp only
  split
  · exact .setDrop h hr
  · split
    · exact .enterSeeking (.setDrop h hr.failed)
    · exact .setDrop h hr.failed

theorem joinRing (h : s.countsInRange) {r : Int} : (s.joinRing d r).countsInRange := by
  have ht : ((s.setDrop d
      { s.drops[d] with ring := pushBounded Config.ringMax (s.drops[d]).ring r, failRun := 0 }).reformDelay
        d).countsInRange := .reformDelay (.setDrop h (h.drops d).joined)
  unfold State.joinRing
  dsimp only
  split
  · exact ht.moveDrop (ht.drops d).toServing
  · exact ht

theorem takeEcho (h : s.countsInRange) {t1 t4 : Nat} {maxRtt : Int} {t2 t3 : Nat} {st : UnitStatus} :
    (s.takeEcho d t1 t4 maxRtt t2 t3 st).countsInRange := by
  have hanswered {valid : Bool} {t : State} (ht : t.countsInRange) {r : Int} :
      (if st = .restarting then t.enterSeeking d
        else if valid then t.joinRing d r else t.failExchange d .range).countsInRange := by
    split
    · exact ht.enterSeeking
    · split
      · exact ht.joinRing
      · exact ht.failExchange
  unfold State.takeEcho
  refine hanswered (.setDrop h ?_)
  split
  · exact (h.drops d).same rfl
  · exact (h.drops d).same rfl

theorem takeJoin (h : s.countsInRange) {identity : Nat} {compact : Bool} {st : UnitStatus} :
    (s.takeJoin d identity compact st).countsInRange := by
  unfold State.takeJoin
  dsimp only
  split
  · split
    · exact .setDrop h ((h.drops d).same rfl)
    · exact .moveDrop h ((h.drops d).same rfl)
  · exact h

theorem handTurnOut (h : s.countsInRange) : (s.handTurnOut d).countsInRange := by
  unfold State.handTurnOut
  split
  · split
    case h_1 => exact .setDrop h ((h.drops d).same rfl)
    case h_2 => exact .setDrop h ((h.drops d).same rfl)
    all_goals exact h
  · exact h

theorem turnLimitPasses (h : s.countsInRange) : (s.turnLimitPasses d).countsInRange := by
  unfold State.turnLimitPasses
  split
  · exact h
  · dsimp only
    split
    · exact .failExchange (.setDrop h (h.drops d).turnBack)
    · exact .setDrop h (h.drops d).turnBack

theorem settleLine (h : s.countsInRange) : (s.settleLine d).countsInRange := by
  have hturn {t : State} (ht : t.countsInRange) : State.countsInRange (match (t.drops[d]).turn with
      | .isIn => t
      | .out start _ limit _ _ =>
        if limit < elapsed start t.counter.instant then t.turnLimitPasses d else t) := by
    split
    · exact ht
    · split
      · exact ht.turnLimitPasses
      · exact ht
  unfold State.settleLine
  apply hturn
  split
  · split
    · exact h.handTurnOut
    · exact h
  · exact h

/-! ### Contention and arrivals -/

theorem contend (h : s.countsInRange) : (s.contend d).countsInRange := by
  have hfail {r : DropRec} (hr : r.countsInRange) :
      (if r.state = .calibrating ∨ r.state = .serving then (s.setDrop d r).failExchange d .contention
        else s.setDrop d r).countsInRange := by
    split
    · exact .failExchange (.setDrop h hr)
    · exact .setDrop h hr
  unfold State.contend
  apply hfail
  split
  · apply DropRec.countsInRange.stopMessage
    exact (h.drops d).same rfl
  · exact (h.drops d).same rfl

theorem activityBegins (h : s.countsInRange) : (s.activityBegins d).countsInRange := by
  unfold State.activityBegins
  dsimp only
  split
  · exact h.settleLine
  · exact h.settleLine.contend

theorem unitFirstByte (h : s.countsInRange) : (s.unitFirstByte d).countsInRange := by
  have ht : (s.settleLine d).countsInRange := h.settleLine
  unfold State.unitFirstByte
  dsimp only
  split
  · exact ht.activityBegins
  · split
    · exact ht
    · exact .setDrop ht ((ht.drops d).same rfl)

theorem unitMessage (h : s.countsInRange) {bytes : List Byte} : (s.unitMessage d bytes).countsInRange := by
  have ht : (s.settleLine d).countsInRange := h.settleLine
  have hu : ((s.settleLine d).setDrop d ((s.settleLine d).drops[d]).turnBack).countsInRange :=
    .setDrop ht (ht.drops d).turnBack
  unfold State.unitMessage
  dsimp only
  split
  · split
    · exact hu.failExchange
    · exact hu.failExchange
    · exact hu.takeEcho
    · exact hu.takeJoin
    · exact hu
    · exact hu
  · exact ht

theorem lineIdle (h : s.countsInRange) : (s.lineIdle d).countsInRange :=
  .setDrop h.settleLine ((h.settleLine.drops d).same rfl)

/-! ### Boundaries, steps and faults -/

theorem tickDrops (h : s.countsInRange) : s.tickDrops.countsInRange :=
  h.withDrops fun j => by
    rw [mapAll_get]
    exact (h.drops j).same rfl

theorem dropsAtStep (h : s.countsInRange) {amount : Int} : (s.dropsAtStep amount).countsInRange :=
  h.withDrops fun j => by
    rw [mapAll_get]
    exact (h.drops j).same rfl

theorem dropAtFault (h : s.countsInRange) : (s.dropAtFault d).countsInRange := by
  have ht : (s.setDrop d (s.drops[d]).turnBack).countsInRange := .setDrop h (h.drops d).turnBack
  unfold State.dropAtFault
  dsimp only
  split
  · exact ht.enterSeeking
  · exact ht

theorem dropsAtFault (h : s.countsInRange) : s.dropsAtFault.countsInRange := h.forEach fun _ _ hu => hu.dropAtFault

end State.countsInRange

end Sys2Proof.Machine
end

section
/-! Counts in range (O8): what a planning spends, and the release of what it has placed. -/

namespace Sys2Proof.Machine

/-- The units and the items of each drop lie within the budget of a window (R120). -/
structure Budget.inRange (b : Budget) : Prop where
  units : b.units ≤ 24
  items : ∀ d : DropIx, b.items[d] ≤ 4

/-- A planning under way keeps the counts of its state and the budget of its window. -/
structure Planning.countsInRange (p : Planning) : Prop where
  state : p.s.countsInRange
  budget : p.budget.inRange

namespace Budget.inRange

theorem fresh : Budget.fresh.inRange := ⟨Nat.zero_le _, fun d => by simp [Budget.fresh]⟩

theorem spentNow {x : Scheduler} (h : x.spentInBudget) : x.spentNow.inRange := ⟨h.1, fun d => (h.2.2 d).1⟩

theorem spentNext {x : Scheduler} (h : x.spentInBudget) : x.spentNext.inRange := ⟨h.2.1, fun d => (h.2.2 d).2⟩

/-- What fits a budget may be spent from it (R120). -/
theorem spend {b : Budget} (h : b.inRange) {units : Nat} {o : Output} (hfits : b.fits units o = true) :
    (b.spend units o).inRange := by
  cases o with
  | px x =>
    simp only [Budget.fits, Bool.and_true, decide_eq_true_eq] at hfits
    exact ⟨hfits, h.items⟩
  | drop d =>
    simp only [Budget.fits, Bool.and_eq_true, decide_eq_true_eq] at hfits
    obtain ⟨hunits, hitems⟩ := hfits
    refine ⟨hunits, fun j => ?_⟩
    by_cases hj : j = d
    · subst hj
      have hitem : b.items[j] + 1 ≤ 4 := hitems
      simpa [Budget.spend] using hitem
    · simpa [Budget.spend, Fin.val_inj, Ne.symm hj] using h.items j

end Budget.inRange

namespace Planning.countsInRange

variable {p : Planning}

theorem hard (h : p.countsInRange) {g : Gathered} : (p.hard g).countsInRange := by
  unfold Planning.hard
  split
  · exact ⟨h.state.changeEntry, h.budget⟩
  · split
    · next hfits => exact ⟨.setSched h.state (h.state.sched.same rfl), h.budget.spend hfits⟩
    · exact ⟨.setSched h.state.changeEntry (h.state.sched.same rfl), h.budget⟩

theorem placeSoft (h : p.countsInRange) {d : DropIx} {units : Nat} {k : SoftKind}
    (hfits : p.budget.fits units (.drop d) = true) : (p.placeSoft d units k).countsInRange :=
  ⟨.setSched h.state (h.state.sched.same rfl), h.budget.spend hfits⟩

theorem placeAnnouncement (h : p.countsInRange) {d : DropIx} {a : Announcement}
    (hfits : p.budget.fits a.units (.drop d) = true) : (p.placeAnnouncement d a).countsInRange :=
  have hq : (p.placeSoft d a.units (.announce a)).countsInRange := h.placeSoft hfits
  ⟨.setDrop hq.state (hq.state.drops d).recordPlaced, hq.budget⟩

/-- An urgent announcement is a full one, of two units (R120, R148). -/
theorem urgent_units (p : Planning) (d : DropIx) : (p.choose d true).units = 2 := by
  simp [Planning.choose, State.announcement, Announcement.units]

theorem urgent (h : p.countsInRange) {d : DropIx} : (p.urgent d).countsInRange := by
  unfold Planning.urgent
  split
  · split
    · next hfits => exact h.placeAnnouncement (by rw [urgent_units]; exact hfits)
    · exact ⟨h.state, h.budget⟩
  · exact h

theorem trickle (h : p.countsInRange) {d : DropIx} : (p.trickle d).countsInRange := by
  unfold Planning.trickle
  split
  · split
    · next hfits => exact h.placeAnnouncement hfits
    · exact h
  · exact h

theorem exchange (h : p.countsInRange) {d : DropIx} : (p.exchange d).countsInRange := by
  unfold Planning.exchange
  split
  · split
    · next hfits => exact h.placeSoft (Bool.and_eq_true_iff.mp hfits).1
    · exact h
  · exact h

/-- A pass keeps the invariant when each of its turns does. -/
theorem foldl {α : Type} {f : Planning → α → Planning} (hf : ∀ q a, q.countsInRange → (f q a).countsInRange)
    (l : List α) (h : p.countsInRange) : (l.foldl f p).countsInRange := by
  induction l generalizing p with
  | nil => exact h
  | cons a l ih => exact ih (hf p a h)

theorem pass {f : Planning → DropIx → Planning} (h : p.countsInRange)
    (hf : ∀ q d, q.countsInRange → (f q d).countsInRange) : (p.pass f).countsInRange := h.foldl hf _

end Planning.countsInRange

namespace State.countsInRange

variable {s : State}

/-! ### A planning whole -/

theorem raiseHorizons (h : s.countsInRange) {stop : Int} : (s.raiseHorizons stop).countsInRange :=
  .setSched h (h.sched.same rfl)

theorem plan (h : s.countsInRange) {ahead : Nat} {spent : Budget} (hspent : spent.inRange) :
    (s.plan ahead spent).countsInRange := by
  have hraised := h.raiseHorizons (stop := s.windowStart ahead + Config.psPerMs)
  have hbegin : (s.beginPlanning (s.windowStart ahead) spent).countsInRange :=
    ⟨.setSched hraised (hraised.sched.same rfl), hspent⟩
  refine .pass (.pass (.pass (.foldl ?_ _ hbegin) ?_) ?_) ?_
  · exact fun _ _ hq => hq.hard
  · exact fun _ _ hq => hq.urgent
  · exact fun _ _ hq => hq.trickle
  · exact fun _ _ hq => hq.exchange

theorem setSpent (h : s.countsInRange) {now next : Budget} (hnow : now.inRange) (hnext : next.inRange) :
    (s.setSpent now next).countsInRange :=
  .setSched h ⟨hnow.units, hnext.units, fun d => ⟨hnow.items d, hnext.items d⟩⟩

theorem planNext (h : s.countsInRange) : s.planNext.countsInRange :=
  have hp := h.plan (ahead := 1) .fresh
  hp.state.setSpent (.spentNext h.sched) hp.budget

theorem planAtOnce (h : s.countsInRange) {spent : Budget} (hspent : spent.inRange) :
    (s.planAtOnce spent).countsInRange :=
  have hp := h.plan (ahead := 0) hspent
  have hq := hp.state.plan (ahead := 1) .fresh
  hq.state.setSpent hp.budget hq.budget

theorem spentAtReturn_inRange (h : s.countsInRange) : s.spentAtReturn.inRange := by
  unfold State.spentAtReturn
  split
  · exact .spentNow h.sched
  · exact .spentNext h.sched
  · exact .fresh

theorem replanAtReturn (h : s.countsInRange) : s.replanAtReturn.countsInRange :=
  .planAtOnce (h.frame [.msOwed] (t := { s with msOwed := s.msOwed.allPlanned }) (by simp) (by decide)) h.spentAtReturn_inRange

theorem replanAtStep (h : s.countsInRange) : s.replanAtStep.countsInRange := by
  refine .planAtOnce (.setSched h ?_) .fresh
  exact h.sched.same rfl

/-! ### Withdrawal and discarding -/

theorem countWithdrawn (h : s.countsInRange) {l : List HardItem} : (s.countWithdrawn l).countsInRange :=
  h.frame [.entries] (by simp) (by decide)

theorem withdraw (h : s.countsInRange) {p : EntryIx → Bool} : (s.withdraw p).countsInRange :=
  .setSched h.countWithdrawn (h.sched.same rfl)

theorem unplace (h : s.countsInRange) {x : SoftItem} : (s.unplace x).countsInRange := by
  unfold State.unplace
  split
  · exact .setDrop h ((h.drops x.drop).same rfl)
  · exact h
  · exact h

theorem unplaceAll (h : s.countsInRange) {l : List SoftItem} : (l.foldl State.unplace s).countsInRange := by
  induction l generalizing s with
  | nil => exact h
  | cons x l ih => exact ih h.unplace

theorem discardPlans (h : s.countsInRange) : s.discardPlans.countsInRange :=
  have ht : (s.sched.softPlan.foldl State.unplace (s.countWithdrawn s.sched.hardPlan)).countsInRange :=
    h.countWithdrawn.unplaceAll
  .setSched ht (ht.sched.same rfl)

/-! ### Release -/

theorem putOnLine (h : s.countsInRange) {d : DropIx} {m : LineMessage} : (s.putOnLine d m).countsInRange :=
  .setDrop h ((h.drops d).same rfl)

theorem emit (h : s.countsInRange) {x : HardItem} : (s.emit x).countsInRange := by
  unfold State.emit
  split
  · exact h.putOnLine
  · exact h.frame [.px] (by simp) (by decide)

theorem settleTarget (h : s.countsInRange) {o : Output} : (s.settleTarget o).countsInRange := by
  cases o with
  | drop d => exact h.settleLine
  | px x => exact h

theorem releaseItem (h : s.countsInRange) {x : HardItem} : (s.releaseItem x).countsInRange := by
  unfold State.releaseItem
  split
  · exact h.changeEntry
  · exact h.emit.changeEntry

theorem releaseHard (h : s.countsInRange) {n : EntryIx} : (s.releaseHard n).countsInRange := by
  unfold State.releaseHard
  split
  · refine .releaseItem (.settleTarget (.reachInstant (.setSched h ?_)))
    exact h.sched.same rfl
  · exact h

theorem releaseSoftItem (h : s.countsInRange) {x : SoftItem} : (s.releaseSoftItem x).countsInRange := by
  have hr : ((s.drops[x.drop]).released x.kind).countsInRange := (h.drops x.drop).released
  unfold State.releaseSoftItem
  dsimp only
  split
  · split
    · exact .setDrop h hr.sendAnnouncement
    · exact .setDrop h (hr.same rfl)
    · exact .setDrop h (hr.same rfl)
  · split <;> exact .setDrop h (hr.same rfl)

theorem releaseSoft (h : s.countsInRange) {d : DropIx} : (s.releaseSoft d).countsInRange := by
  unfold State.releaseSoft
  split
  · refine .releaseSoftItem (.settleLine (.reachInstant (.setSched h ?_)))
    exact h.sched.same rfl
  · exact h

end State.countsInRange

end Sys2Proof.Machine
end

section
/-! Counts in range (O8): entry to FAULT and the return from it, the boundaries of the counter, and reset. -/

namespace Sys2Proof.Machine

namespace State.countsInRange

variable {s : State}

/-! ### FAULT (R13, R14) -/

theorem loopAtFault (h : s.countsInRange) : s.loopAtFault.countsInRange :=
  .setLoop h ⟨Nat.zero_le _, Nat.zero_le _⟩

theorem timebaseAtFault (h : s.countsInRange) : s.timebaseAtFault.countsInRange := by
  have hosc : (s.setOsc { s.osc with warmup := none }).countsInRange := .setOsc h
  exact .regrade (.setTbState (.setTb (.closeEpisode hosc.leaveState.loopAtFault.emptyStaging)))

theorem frontEndAtFault (h : s.countsInRange) : s.frontEndAtFault.countsInRange := h
theorem pulsesAtFault (h : s.countsInRange) : s.pulsesAtFault.countsInRange := h

theorem enterFault (h : s.countsInRange) : s.enterFault.countsInRange := by
  unfold State.enterFault
  split
  · exact h
  · exact h.timebaseAtFault.frontEndAtFault.refsAtFault.reevaluate.pulsesAtFault.discardPlans.dropsAtFault

theorem returnToWarmup (h : s.countsInRange) : s.returnToWarmup.countsInRange := by
  unfold State.returnToWarmup
  split
  · have hload : s.loadWarmup.countsInRange := .setOsc h
    have hgraded : State.countsInRange ((s.loadWarmup.loopReleased.setTb
        { s.loadWarmup.loopReleased.tb with
          traced := false
          steer := clampTo s.loadWarmup.loopReleased.lp.yMax s.loadWarmup.loopReleased.tb.yFree }).setTbState
            .warmup).regrade :=
      .regrade (.setTbState (.setTb hload.loopReleased))
    exact .replanAtReturn (hgraded.frame [.fq] (by simp) (by decide))
  · exact h

theorem judgeLost (h : s.countsInRange) : s.judgeLost.countsInRange := .enterFault (.setOsc h)
theorem judgeGood (h : s.countsInRange) : s.judgeGood.countsInRange := .returnToWarmup (.setOsc h)

theorem gateEnds (h : s.countsInRange) {edges : Nat} : (s.gateEnds edges).countsInRange := by
  have hgate : ((s.reachMonitor s.osc.gateEnd).setOsc
      (s.reachMonitor s.osc.gateEnd).osc.nextGate).countsInRange := .setOsc h.reachMonitor
  unfold State.gateEnds
  dsimp only
  split
  · split
    · exact hgate
    · exact hgate.judgeLost
  · split
    · split
      · exact hgate.judgeGood
      · exact .setOsc hgate
    · exact .setOsc hgate

theorem edgeGap (h : s.countsInRange) : s.edgeGap.countsInRange := by
  unfold State.edgeGap
  dsimp only
  split
  · exact .judgeLost (.setOsc h)
  · exact .setOsc h

/-! ### A step application (R19) -/

theorem jump (h : s.countsInRange) {amount : Int} : (s.jump amount).countsInRange := h

theorem frontEndAtStep (h : s.countsInRange) {amount : Int} {o : StepOrigin} :
    (s.frontEndAtStep amount o).countsInRange := h

theorem pulsesAtStep (h : s.countsInRange) {amount : Int} : (s.pulsesAtStep amount).countsInRange := h

theorem leapAtStep (h : s.countsInRange) {before : Nat} : (s.leapAtStep before).countsInRange :=
  h.frame [.tb] (by simp) (by decide)

theorem entriesAtStep (h : s.countsInRange) {before : Nat} : (s.entriesAtStep before).countsInRange :=
  h.frame [.entries, .views] (by simp) (by decide)

theorem applyStep (h : s.countsInRange) {p : PendingStep} : (s.applyStep p).countsInRange := by
  have hjump : (s.discardPlans.jump p.amount).disturb.countsInRange := h.discardPlans.jump.disturb
  have hmoved := (hjump.dropsAtStep (amount := p.amount)).frontEndAtStep (amount := p.amount) (o := p.origin)
  have hpulses := hmoved.refsAtStep.pulsesAtStep (amount := p.amount)
  exact .replanAtStep (.entriesAtStep (.leapAtStep hpulses.notifyAll))

/-! ### A counter second (R1) -/

theorem reachSecond (h : s.countsInRange) : s.reachSecond.countsInRange :=
  h.frame [.counter, .msOwed] (by simp) (by decide)

theorem resume (h : s.countsInRange) {o : Overshoot} : (s.resume o).countsInRange :=
  h.frame [.counter, .secondOwed] (by simp) (by decide)

theorem beforeStep (h : s.countsInRange) {o : Overshoot} : (s.beforeStep o).countsInRange :=
  h.frame [.secondOwed, .msOwed] (by simp) (by decide)

theorem rerun (h : s.countsInRange) {o : Overshoot} : (s.rerun o).countsInRange :=
  h.frame [.counter, .secondOwed, .msOwed] (by simp) (by decide)

theorem minuteBoundary (h : s.countsInRange) : s.minuteBoundary.countsInRange :=
  .regrade (h.descend.frame [.tb, .hold] (by simp) (by decide))

theorem sampleAndMinute (h : s.countsInRange) : s.sampleAndMinute.countsInRange := by
  have hsample : s.sampleSecond.countsInRange := h
  unfold State.sampleAndMinute
  dsimp only
  split
  · exact hsample.minuteBoundary
  · exact hsample

theorem leapAtSecond (h : s.countsInRange) : s.leapAtSecond.countsInRange := h.frame [.tb] (by simp) (by decide)

theorem entriesAtSecond (h : s.countsInRange) : s.entriesAtSecond.countsInRange :=
  h.frame [.entries, .views] (by simp) (by decide)

theorem secondWork (h : s.countsInRange) : s.secondWork.countsInRange :=
  (h.sampleAndMinute.syncAlarms.closeFqSecond (i := 0)).syncAlarms.closeFqSecond.syncAlarms.leapAtSecond
    |>.syncAlarms.entriesAtSecond.syncAlarms

theorem secondEnds (h : s.countsInRange) {o : Overshoot} : (s.secondEnds o).countsInRange := by
  unfold State.secondEnds
  split
  · split
    · exact h.beforeStep.applyStep.syncAlarms.rerun
    · exact h.resume
  · exact h.resume

theorem secondBoundary (h : s.countsInRange) : s.secondBoundary.countsInRange := by
  unfold State.secondBoundary
  split
  · exact h
  · exact h.reachSecond.secondWork.secondEnds

/-! ### A counter millisecond (R117) -/

theorem withCounter (h : s.countsInRange) {c : Reading} : State.countsInRange { s with counter := c } := h

theorem atBoundary (h : s.countsInRange) {c : Reading} {m : MsOwed} :
    State.countsInRange { s with counter := c, msOwed := m } := h

theorem reachMillisecond (h : s.countsInRange) : s.reachMillisecond.countsInRange := by
  unfold State.reachMillisecond
  split
  · exact h.runCounter.withCounter
  · exact h

theorem takeMillisecond (h : s.countsInRange) : s.takeMillisecond.countsInRange := by
  have hticked := (h.atBoundary (c := Reading.at s.oldestMillisecond 0)
    (m := { boundaries := s.msOwed.boundaries - 1, planned := s.msOwed.planned - 1 })).tickDrops
  unfold State.takeMillisecond
  apply withCounter
  split
  · exact hticked.planNext.syncAlarms
  · exact hticked.syncAlarms

theorem millisecondBoundary (h : s.countsInRange) : s.millisecondBoundary.countsInRange := by
  unfold State.millisecondBoundary
  split
  · exact h
  · exact h.reachMillisecond.takeMillisecond

/-! ### Reset -/

theorem released (authSel : Fin 8) (warmSel : Fin 4) : (State.released authSel warmSel).countsInRange := by
  refine (countsInRange_iff _).mpr ⟨?_, fun i => ?_, fun k => ?_, ⟨Nat.zero_le _, Nat.zero_le _⟩, fun d => ?_⟩
  · exact ⟨Nat.zero_le _, Nat.zero_le _, fun d => by simp [State.released, Scheduler.powerOn]⟩
  · have hr : (State.released authSel warmSel).refs[i] = RefRecord.powerOn := by simp [State.released]
    rw [hr]
    exact ⟨Nat.zero_le _, Nat.zero_le _, Nat.zero_le _⟩
  · simp [State.released]
  · have hr : (State.released authSel warmSel).drops[d] = DropRec.powerOn := by simp [State.released]
    rw [hr]
    exact ⟨Nat.zero_le _, Nat.zero_le _, Nat.zero_le _, Nat.zero_le _⟩

end State.countsInRange

end Sys2Proof.Machine
end

section
/-! Counts in range (O8): the requests, every command, and the step. -/

namespace Sys2Proof.Machine

/-! ### Requests -/

/-- The state that a verdict leaves keeps its counts. -/
def Verdict.countsInRange : Verdict → Prop
  | .refuse _ => True
  | .accept _ _ u => u.countsInRange

namespace Verdict.countsInRange

variable {v : Verdict}

theorem refuse {st : Status} : (Verdict.refuse st).countsInRange := trivial

theorem accept {st : Status} {b : List Byte} {u : State} (h : u.countsInRange) :
    (Verdict.accept st b u).countsInRange := h

theorem parsed {α : Type} {o : Option α} {f : α → Verdict} (h : ∀ a, (f a).countsInRange) :
    (Machine.parsed o f).countsInRange := by
  cases o with
  | none => exact .refuse
  | some a => exact h a

theorem refuseIf {b : Bool} {st : Status} (h : v.countsInRange) : (Machine.refuseIf b st v).countsInRange := by
  cases b with
  | false => exact h
  | true => exact .refuse

theorem checkEntry {s : State} {p : Port} {v : Int} {f : EntryIx → Entry → Verdict}
    (hf : ∀ i e, (f i e).countsInRange) : (s.checkEntry p v f).countsInRange := by
  unfold State.checkEntry
  split
  · exact .refuse
  · split
    · exact .refuse
    · exact .refuseIf (hf _ _)

/-- A reply changes no count. -/
theorem conclude {t : State} (h : v.countsInRange) (ht : t.countsInRange) {p : Port} {r : Request} :
    (t.conclude p r v).countsInRange := by
  cases v with
  | refuse st => exact .setPort ht
  | accept st b u => exact .setPort h

end Verdict.countsInRange

namespace State.countsInRange

variable {s : State}

theorem execute (h : s.countsInRange) {p : Port} {mine : Nat → Bool} {f : Request → State → Verdict}
    (hf : ∀ r t, t.countsInRange → (f r t).countsInRange) : (s.execute p mine f).countsInRange := by
  unfold State.execute
  split
  · next r q _ =>
    have hq : (s.setPort p q).countsInRange := h.setPort
    split
    · exact (hf r _ hq).conclude hq
    · exact h
  · exact h

theorem answer (h : s.countsInRange) {p : Port} {code : Nat} {f : List Byte → State → Verdict}
    (hf : ∀ b t, t.countsInRange → (f b t).countsInRange) : (s.answer p code f).countsInRange :=
  h.execute fun r t ht => hf r.body t ht

theorem setEntry (h : s.countsInRange) {i : EntryIx} {e : Option Entry} : (s.setEntry i e).countsInRange := h
theorem setView (h : s.countsInRange) {p : Port} {v : View} : (s.setView p v).countsInRange := h

/-! ### Outputs, profiles and drops -/

theorem withEntries (h : s.countsInRange) {v : Vector (Option Entry) 64} :
    State.countsInRange { s with entries := v } := h

theorem freeReclaimed (h : s.countsInRange) {o : Output} : (s.freeReclaimed o).countsInRange :=
  h.withdraw.withEntries

theorem assign (h : s.countsInRange) {o : Output} {owner : Option Port} {cable : Option Int} :
    (s.assign o owner cable).countsInRange := by
  have howner {t : State} (ht : t.countsInRange) : ((t.setOwner o owner).setCable o cable).countsInRange := by
    cases o with
    | drop d => exact .setDrop ht ((ht.drops d).same rfl)
    | px x => exact ht.frame [.px] (by simp [State.setOwner]) (by decide)
  unfold State.assign
  dsimp only
  split
  · exact howner h.freeReclaimed
  · exact howner h

theorem setProfileParts (h : s.countsInRange) {i : ProfileIx} {v : ProfileSetParts} :
    (s.setProfileParts i v).countsInRange := by
  have hset : (s.setProfile i (v.profileFrom s.profiles[i])).countsInRange := h
  unfold State.setProfileParts
  dsimp only
  split
  · exact hset
  · refine hset.forEach fun d u hu => ?_
    split
    · exact hu.reformDelay
    · exact hu

theorem chooseProfile (h : s.countsInRange) {d : DropIx} {v : Option Int} :
    (s.chooseProfile d v).countsInRange := by
  unfold State.chooseProfile
  split
  · split
    · exact h
    · exact .reformDelay (.setDrop h ((h.drops d).same rfl))
  · exact h

theorem expectIdentity (h : s.countsInRange) {d : DropIx} {v : Option IdentityPart} :
    (s.expectIdentity d v).countsInRange := by
  unfold State.expectIdentity
  split
  · exact .setDrop h ((h.drops d).same rfl)
  · exact .setDrop h ((h.drops d).same rfl)
  · exact h

theorem switchDrop (h : s.countsInRange) {d : DropIx} {v : Option Int} : (s.switchDrop d v).countsInRange := by
  unfold State.switchDrop
  split
  · split
    · exact h.enableDrop
    · exact h.disableDrop
  · exact h

end State.countsInRange

end Sys2Proof.Machine
end

section
/-! Counts in range (O8): the verdict of each request, every command, and the step. -/

namespace Sys2Proof.Machine

namespace Verdict.countsInRange

variable {s : State} {p : Port} {b : List Byte}

/-! ### The verdict of each request -/

theorem stepTime (h : s.countsInRange) : (stepTime p b s).countsInRange :=
  .parsed fun _ => .refuseIf (.refuseIf (.refuseIf (.refuseIf (.accept h.makeStep))))

theorem setLeap (h : s.countsInRange) : (setLeap p b s).countsInRange :=
  .parsed fun _ => .refuseIf (.refuseIf (.accept h.setTb))

theorem reportOffset (h : s.countsInRange) : (reportOffset p b s).countsInRange :=
  .parsed fun _ => .refuseIf (.refuseIf (.accept h.takeReport.syncAlarms))

theorem setRefRequest (h : s.countsInRange) : (setRefRequest p b s).countsInRange := by
  refine .parsed fun v => .refuseIf ?_
  split
  · exact .refuse
  · exact .refuseIf (.accept h.setRefParts.syncAlarms)

theorem readRefs (h : s.countsInRange) : (readRefs b s).countsInRange := by
  refine .parsed fun v => ?_
  split
  · exact .accept h
  · split
    · exact .accept h
    · exact .refuse

theorem setSelection (h : s.countsInRange) : (setSelection p b s).countsInRange :=
  .parsed fun _ => .refuseIf (.refuseIf (.accept h.setSel.reevaluate.syncAlarms))

theorem forceSelection (h : s.countsInRange) : (forceSelection p b s).countsInRange := by
  refine .parsed fun v => .refuseIf ?_
  split
  · exact .refuse
  · exact .accept h.setSel.reevaluate.syncAlarms

theorem setLoopRequest (h : s.countsInRange) : (setLoopRequest p b s).countsInRange :=
  .parsed fun _ => .refuseIf (.refuseIf (.refuseIf (.accept h.setLoopParts.syncAlarms)))

theorem restoreHistory (h : s.countsInRange) : (restoreHistory p b s).countsInRange :=
  .refuseIf (.parsed fun _ =>
    .refuseIf (.refuseIf (.accept (h.frame [.tb, .hold] (by simp) (by decide)))))

theorem forceHoldover (h : s.countsInRange) : (forceHoldover p b s).countsInRange :=
  .refuseIf (.parsed fun _ => .accept h.setForce.syncAlarms)

theorem assignOutput (h : s.countsInRange) : (assignOutput p b s).countsInRange := by
  refine .parsed fun v => .refuseIf ?_
  split
  · exact .refuseIf (.refuseIf (.accept h.assign.syncAlarms))
  · exact .refuse

/-- The checks on the parts of an entry answer nothing but refusals of their own (R111). -/
theorem checkParts {v : EntryParts} {i : Option EntryIx} {f : EntryFields → Verdict}
    (hf : ∀ x, (f x).countsInRange) : (s.checkParts p v i f).countsInRange := by
  refine .refuseIf (.refuseIf (.refuseIf ?_))
  split
  · exact .refuse
  · exact hf _

theorem defineEntry (h : s.countsInRange) : (defineEntry p b s).countsInRange := by
  refine .parsed fun v => .checkParts fun x => ?_
  split
  · exact .refuse
  · exact .accept h.setEntry

theorem changeEntryRequest (h : s.countsInRange) : (changeEntryRequest p b s).countsInRange := by
  refine .parsed fun v => .checkEntry fun i e => .refuseIf (.checkParts fun x => ?_)
  unfold State.checkRelatives
  split
  · exact .refuseIf (.accept h.setEntry)
  · exact .refuseIf (.accept h.setEntry)

theorem startEntry (h : s.countsInRange) : (startEntry p b s).countsInRange := by
  refine .parsed fun v => .checkEntry fun i e => .refuseIf ?_
  unfold State.start
  split
  · exact .refuseIf (.accept h.setEntry)
  · split
    · exact .refuseIf (.accept h.setEntry)
    · exact .refuse

theorem stopEntry (h : s.countsInRange) : (stopEntry p b s).countsInRange :=
  .parsed fun _ => .checkEntry fun _ _ => .accept (h.frame [.entries] (by simp) (by decide))

theorem freeEntry (h : s.countsInRange) : (freeEntry p b s).countsInRange :=
  .parsed fun _ => .checkEntry fun _ _ => .refuseIf (.refuseIf (.accept h.withdraw.setEntry))

theorem readEntries (h : s.countsInRange) : (readEntries b s).countsInRange := by
  refine .parsed fun v => ?_
  split
  · exact .accept h
  · split
    · exact .accept h
    · exact .refuse

theorem setProfileRequest (h : s.countsInRange) : (setProfileRequest p b s).countsInRange := by
  refine .parsed fun v => .refuseIf ?_
  split
  · exact .refuse
  · exact .refuseIf (.accept h.setProfileParts)

theorem setDropRequest (h : s.countsInRange) : (setDropRequest p b s).countsInRange := by
  refine .parsed fun v => ?_
  split
  · exact .refuse
  · exact .refuseIf (.refuseIf (.accept h.chooseProfile.expectIdentity.switchDrop.syncAlarms))

theorem readDrops (h : s.countsInRange) : (readDrops b s).countsInRange := by
  refine .parsed fun v => ?_
  split
  · exact .accept h
  · split
    · exact .accept h
    · exact .refuse

theorem setSeverity (h : s.countsInRange) : (setSeverity p b s).countsInRange := by
  refine .parsed fun v => .refuseIf ?_
  split
  · exact .refuse
  · exact .refuseIf (.accept (h.frame [.alarms] (by simp) (by decide)))

theorem takeAuth (h : s.countsInRange) : (takeAuth p b s).countsInRange :=
  .parsed fun _ => .refuseIf (.accept (.syncAlarms
    (h.frame [.hold, .views, .holder, .waitList] (by simp) (by decide))))

theorem releaseAuth (h : s.countsInRange) : (releaseAuth p b s).countsInRange :=
  .parsed fun _ => .accept (.syncAlarms (h.frame [.hold, .views, .holder, .waitList] (by simp) (by decide)))

end Verdict.countsInRange

/-! ### Every command -/

/-- The state that an outcome goes on from keeps its counts. -/
def outcomeCountsInRange (r : Result) : Prop := ∀ t, r = .next t → t.countsInRange

namespace State.countsInRange

variable {s : State}

theorem next (h : s.countsInRange) : outcomeCountsInRange (.next s) := fun t ht => by
  cases ht
  exact h

theorem finish (h : s.countsInRange) : outcomeCountsInRange (Machine.finish s) := h.syncAlarms.next

theorem warmupExpiry (h : s.countsInRange) : outcomeCountsInRange (execWarmupExpiry s) := by
  unfold execWarmupExpiry
  split
  · split
    · exact h.reachMonitor.warmupEnds.finish
    · exact h.next
  · exact h.next

theorem holdoffExpiry (h : s.countsInRange) {i : Slot} : outcomeCountsInRange (execHoldoffExpiry i s) := by
  unfold execHoldoffExpiry
  split
  · exact h.reachMonitor.holdoffEnds.finish
  · exact h.next

theorem qualifiedHour (h : s.countsInRange) {i : Slot} : outcomeCountsInRange (execQualifiedHour i s) := by
  have hr : { s.refs[i] with k := 0 }.countsInRange := ⟨(h.refs i).score, Nat.zero_le _, (h.refs i).streak⟩
  unfold execQualifiedHour
  split
  · exact (h.reachMonitor.setRef hr).next
  · exact h.next

theorem revertiveWaitExpiry (h : s.countsInRange) {i : Slot} :
    outcomeCountsInRange (execRevertiveWaitExpiry i s) := by
  unfold execRevertiveWaitExpiry
  split
  · split
    · exact h.reachMonitor.reevaluate.finish
    · exact h.next
  · exact h.next

theorem emitOverrunHoldExpiry (h : s.countsInRange) : outcomeCountsInRange (execEmitOverrunHoldExpiry s) := by
  have hs : { s.sched with overrunHold := none }.spentInBudget := h.sched.same rfl
  unfold execEmitOverrunHoldExpiry
  split
  · exact (h.reachMonitor.setSched hs).finish
  · exact h.next

theorem turnOut (h : s.countsInRange) {d : DropIx} : outcomeCountsInRange (execTurnOut d s) := by
  unfold execTurnOut
  split
  · split
    case h_1 => exact h.reachInstant.handTurnOut.next
    case h_2 => exact h.reachInstant.handTurnOut.next
    all_goals exact h.next
  · exact h.next

theorem turnLimitExpiry (h : s.countsInRange) {d : DropIx} : outcomeCountsInRange (execTurnLimitExpiry d s) := by
  unfold execTurnLimitExpiry
  split
  · exact h.reachInstant.turnLimitPasses.finish
  · exact h.next

theorem offerTimerExpiry (h : s.countsInRange) {d : DropIx} : outcomeCountsInRange (execOfferTimerExpiry d s) := by
  unfold execOfferTimerExpiry
  split
  · apply next
    exact .setDrop h ((h.drops d).same rfl)
  · exact h.next

theorem probeTimerExpiry (h : s.countsInRange) {d : DropIx} : outcomeCountsInRange (execProbeTimerExpiry d s) := by
  unfold execProbeTimerExpiry
  split
  · apply next
    exact .setDrop h ((h.drops d).same rfl)
  · exact h.next

/-- The backlog goes up to 15 (R146). -/
theorem announcementTimerExpiry (h : s.countsInRange) {d : DropIx} :
    outcomeCountsInRange (execAnnouncementTimerExpiry d s) := by
  have hbacklog : s.backlogAfter s.drops[d] ≤ 15 := by
    unfold State.backlogAfter
    split
    · exact (h.drops d).backlog
    · exact Nat.min_le_left _ _
  unfold execAnnouncementTimerExpiry
  split
  · apply finish
    exact .setDrop h ⟨hbacklog, (h.drops d).ring, (h.drops d).failRun, (h.drops d).annCounter⟩
  · exact h.next

theorem alarmPersistenceExpiry (h : s.countsInRange) {a : AlarmIx} :
    outcomeCountsInRange (execAlarmPersistenceExpiry a s) := by
  unfold execAlarmPersistenceExpiry
  split
  · exact (h.frame [.osc, .alarms, .views] (by simp) (by decide)).next
  · exact h.next

/-- A transaction changes what time changes, its port and what its port sees. -/
theorem portEvent (h : s.countsInRange) {t : State}
    (ht : OnlyChanges [.counter, .secondOwed, .msOwed, .osc, .ports, .alarms, .views] s t) : t.countsInRange :=
  h.frame _ ht (by decide)

/-- Every command keeps the counts in range. -/
theorem exec (h : s.countsInRange) (c : Instr) : outcomeCountsInRange (Machine.exec c s) := by
  cases c with
  | resetRelease a w => exact (released a w).setPending.next
  | counterSecondBoundary => exact h.secondBoundary.finish
  | counterMillisecondBoundary => exact h.millisecondBoundary.finish
  | monitorGateEnd edges => exact h.gateEnds.finish
  | loInGap e => exact h.pass.edgeGap.finish
  | warmupExpiry => exact h.warmupExpiry
  | taActiveEdge e i => exact h.pass.taEdge.finish
  | taTrailingEdge e i => exact h.pass.taTrailing.finish
  | taLabelComplete e i bytes => exact h.pass.labelBytes.finish
  | labelByteGap i => exact (h.frame [.osc, .ta] (by simp) (by decide)).next
  | labelFramingError e i => exact h.pass.setTa.next
  | taLabelWindowClose i => exact h.taWindowClose.finish
  | taGlitchGuardEnd i => exact h.taGuardEnd.finish
  | taActivityTimeout i => exact h.taTimeout.finish
  | fqEdge e i n => exact (h.frame [.counter, .secondOwed, .msOwed, .osc, .fq] (by simp) (by decide)).next
  | fqActivityTimeout i => exact h.fqTimeout.finish
  | ofActivityTimeout p => exact h.ofTimeout.finish
  | holdoffExpiry i => exact h.holdoffExpiry
  | qualifiedHour i => exact h.qualifiedHour
  | revertiveWaitExpiry i => exact h.revertiveWaitExpiry
  | hardInstanceRelease n => exact h.releaseHard.finish
  | pulseEnd x => exact (h.frame [.counter, .secondOwed, .msOwed, .px] (by simp) (by decide)).next
  | emitOverrunHoldExpiry => exact h.emitOverrunHoldExpiry
  | softItemRelease d => exact h.releaseSoft.finish
  | turnOut d => exact h.turnOut
  | turnLimitExpiry d => exact h.turnLimitExpiry
  | dropMessageComplete e d bytes => exact h.pass.unitMessage.finish
  | dropContention e d => exact h.pass.activityBegins.finish
  | dropLineIdle e d => exact h.pass.lineIdle.finish
  | offerTimerExpiry d => exact h.offerTimerExpiry
  | probeTimerExpiry d => exact h.probeTimerExpiry
  | announcementTimerExpiry d => exact h.announcementTimerExpiry
  | alarmPersistenceExpiry a => exact h.alarmPersistenceExpiry
  | peek e p => exact (h.portEvent (by simp)).next
  | push e p => exact (h.portEvent (by simp)).finish
  | requestArrival e p code tag body => exact (h.portEvent (by simp)).next
  | transactionCutShort e p => exact (h.portEvent (by simp)).next
  | pull e p => exact (h.portEvent (by simp)).next
  | segmentPulled e p => exact (h.portEvent (by simp)).next
  | unknownTransactionType e p => exact (h.portEvent (by simp)).next
  | silenceTimerExpiry p =>
    exact (h.frame [.osc, .hold, .views, .ports, .holder, .waitList] (by simp) (by decide)).finish
  | timeRead p => exact (h.answer fun _ _ ht => .parsed fun _ => .accept ht).next
  | stateRead p => exact (h.answer fun _ _ ht => .parsed fun _ => .accept ht).next
  | timeStep p => exact (h.answer fun _ _ ht => .stepTime ht).next
  | leapSet p => exact (h.answer fun _ _ ht => .setLeap ht).next
  | offsetReport p => exact (h.answer fun _ _ ht => .reportOffset ht).next
  | refSet p => exact (h.answer fun _ _ ht => .setRefRequest ht).next
  | refRead p => exact (h.answer fun _ _ ht => .readRefs ht).next
  | selectSet p => exact (h.answer fun _ _ ht => .setSelection ht).next
  | selectForce p => exact (h.answer fun _ _ ht => .forceSelection ht).next
  | loopSet p => exact (h.answer fun _ _ ht => .setLoopRequest ht).next
  | historyRead p => exact (h.answer fun _ _ ht => .parsed fun _ => .refuseIf (.accept ht)).next
  | historyRestore p => exact (h.answer fun _ _ ht => .restoreHistory ht).next
  | holdoverForce p => exact (h.answer fun _ _ ht => .forceHoldover ht).next
  | outputAssign p => exact (h.answer fun _ _ ht => .assignOutput ht).next
  | entryDefine p => exact (h.answer fun _ _ ht => .defineEntry ht).next
  | entryChange p => exact (h.answer fun _ _ ht => .changeEntryRequest ht).next
  | entryStart p => exact (h.answer fun _ _ ht => .startEntry ht).next
  | entryStop p => exact (h.answer fun _ _ ht => .stopEntry ht).next
  | entryFree p => exact (h.answer fun _ _ ht => .freeEntry ht).next
  | entryRead p => exact (h.answer fun _ _ ht => .readEntries ht).next
  | profileSet p => exact (h.answer fun _ _ ht => .setProfileRequest ht).next
  | dropSet p => exact (h.answer fun _ _ ht => .setDropRequest ht).next
  | dropRead p => exact (h.answer fun _ _ ht => .readDrops ht).next
  | alarmSeverity p => exact (h.answer fun _ _ ht => .setSeverity ht).next
  | alarmRead p => exact (h.answer fun _ _ ht => .parsed fun _ => .refuseIf (.accept ht)).next
  | alarmSeen p => exact (h.answer fun _ _ ht => .refuseIf (.accept ht.setView)).next
  | alarmMask p => exact (h.answer fun _ _ ht => .parsed fun _ => .refuseIf (.accept ht.setView)).next
  | noticeRead p => exact (h.answer fun _ _ ht => .parsed fun _ => .refuseIf (.accept ht.setView)).next
  | authTake p => exact (h.answer fun _ _ ht => .takeAuth ht).next
  | authRelease p => exact (h.answer fun _ _ ht => .releaseAuth ht).next
  | portSet p => exact (h.answer fun _ _ ht => .parsed fun _ => .refuseIf (.accept ht.setPort)).next
  | portReset p =>
    exact (h.frame [.hold, .alarms, .views, .ports, .holder, .waitList] (by simp) (by decide)).next
  | unknownRequest p => exact (h.execute fun _ _ _ => .refuse).next
  | labelStartByte e i => exact h.pass.labelByte.finish
  | unitMessageFirstByte e d => exact h.pass.unitFirstByte.finish

theorem idle (h : s.countsInRange) : s.idle.countsInRange :=
  h.frame [.counter, .residue, .secondOwed, .msOwed, .loCycles, .osc, .pending] (by simp) (by decide)

end State.countsInRange

/-- Settles O8: every operation of the model keeps each of its counts in range, and so does every command. -/
theorem countsStayInRange : Obligations.CountsStayInRange := by
  intro s t h hstep
  unfold step at hstep
  split at hstep
  · exact h.setPending.exec _ t hstep
  · exact h.idle.next t hstep

end Sys2Proof.Machine
end

section
/-! Ranking and selection (R56): the two orders are strict and total, and the search over the slots finds the one
candidate that no other ranks before. -/

namespace Sys2Proof.Machine

/-- R56, the keys of the phase ranking. -/
theorem State.ranksBefore_iff (s : State) (i j : Slot) : s.ranksBefore i j = true ↔
    (s.refs[i]).rankQuality < (s.refs[j]).rankQuality ∨
      (s.refs[i]).rankQuality = (s.refs[j]).rankQuality ∧ ((s.refs[i]).priority < (s.refs[j]).priority ∨
        (s.refs[i]).priority = (s.refs[j]).priority ∧ i.val < j.val) := by
  simp only [State.ranksBefore, Bool.or_eq_true, Bool.and_eq_true, decide_eq_true_eq]

/-- R56, the keys among FQ records. -/
theorem State.assistBefore_iff (s : State) (i j : Slot) : s.assistBefore i j = true ↔
    (s.refs[i]).priority < (s.refs[j]).priority ∨
      (s.refs[i]).priority = (s.refs[j]).priority ∧ i.val < j.val := by
  simp only [State.assistBefore, Bool.or_eq_true, Bool.and_eq_true, decide_eq_true_eq]

/-- A strict order in which of two slots one comes before the other. -/
structure RanksStrictly (before : Slot → Slot → Bool) : Prop where
  total : ∀ i j : Slot, i ≠ j → (before i j = true ↔ before j i = false)
  trans : ∀ i j k : Slot, before i j = true → before j k = true → before i k = true

theorem State.ranksBefore_strict (s : State) : RanksStrictly s.ranksBefore where
  total i j hij := by
    have : i.val ≠ j.val := fun h => hij (Fin.ext h)
    rw [← Bool.not_eq_true, State.ranksBefore_iff, State.ranksBefore_iff]
    omega
  trans i j k := by
    simp only [State.ranksBefore_iff]
    omega

theorem State.assistBefore_strict (s : State) : RanksStrictly s.assistBefore where
  total i j hij := by
    have : i.val ≠ j.val := fun h => hij (Fin.ext h)
    rw [← Bool.not_eq_true, State.assistBefore_iff, State.assistBefore_iff]
    omega
  trans i j k := by
    simp only [State.assistBefore_iff]
    omega

/-- What a search over these slots has found: nothing where none satisfies `p`, or a slot that satisfies it and ranks
before each other one that does. -/
def BestAmong (before : Slot → Slot → Bool) (p : Slot → Bool) (l : List Slot) : Option Slot → Prop
  | none => ∀ j ∈ l, p j = false
  | some i => p i = true ∧ ∀ j ∈ l, p j = true → j ≠ i → before i j = true

/-- A fold keeps a relation between the part of the list it has read and its value. -/
theorem foldl_of_read {α β : Type} {motive : List α → β → Prop} (op : β → α → β) (b : β) (l : List α)
    (start : motive [] b) (step : ∀ read a c, motive read c → motive (read ++ [a]) (op c a)) :
    motive l (l.foldl op b) := by
  induction l using List.reverseRecOn with
  | nil => exact start
  | append_singleton read a ih =>
    rw [List.foldl_append]
    exact step read a _ ih

variable {before : Slot → Slot → Bool} {p : Slot → Bool}

theorem bestSlot_bestAmong (hb : RanksStrictly before) :
    BestAmong before p (List.finRange 8) (bestSlot before p) := by
  refine foldl_of_read (motive := BestAmong before p) _ _ _ (by simp [BestAmong]) fun read a best h => ?_
  cases best with
  | none =>
    have none_fits : ∀ j ∈ read, p j = false := h
    by_cases ha : p a = true
    · have a_first : BestAmong before p (read ++ [a]) (some a) :=
        ⟨ha, by grind⟩
      simpa [ha] using a_first
    · have still_none : BestAmong before p (read ++ [a]) none := by
        grind [BestAmong]
      simpa [ha] using still_none
  | some b =>
    obtain ⟨hpb, b_first⟩ : p b = true ∧ ∀ j ∈ read, p j = true → j ≠ b → before b j = true := h
    by_cases hab : p a = true ∧ before a b = true
    · have a_first : BestAmong before p (read ++ [a]) (some a) :=
        ⟨hab.1, by grind [hb.trans a b]⟩
      simpa [hab] using a_first
    · have b_stays : BestAmong before p (read ++ [a]) (some b) :=
        ⟨hpb, by grind [hb.total b a]⟩
      grind

/-- The search finds a slot exactly when it satisfies `p` and ranks before each other one that does. -/
theorem bestSlot_eq_some_iff (hb : RanksStrictly before) (i : Slot) :
    bestSlot before p = some i ↔ p i = true ∧ ∀ j, p j = true → j ≠ i → before i j = true := by
  have found := bestSlot_bestAmong (p := p) hb
  constructor
  · intro h
    rw [h] at found
    exact ⟨found.1, fun j => found.2 j (List.mem_finRange j)⟩
  · rintro ⟨hpi, i_first⟩
    cases h : bestSlot before p with
    | none =>
      rw [h] at found
      exact absurd hpi (by simp [found i (List.mem_finRange i)])
    | some k =>
      rw [h] at found
      by_contra hne
      have hik : i ≠ k := fun e => hne (congrArg some e.symm)
      have k_before := found.2 i (List.mem_finRange i) hpi hik
      have i_before := i_first k found.1 hik.symm
      simp [(hb.total i k hik).1 i_before] at k_before

theorem bestSlot_eq_none_iff (hb : RanksStrictly before) :
    bestSlot before p = none ↔ ∀ j, p j = false := by
  have found := bestSlot_bestAmong (p := p) hb
  cases h : bestSlot before p with
  | none =>
    rw [h] at found
    exact ⟨fun _ j => found j (List.mem_finRange j), fun _ => rfl⟩
  | some k =>
    rw [h] at found
    exact ⟨nofun, fun none_fits => absurd found.1 (by simp [none_fits k])⟩

theorem State.chooseAssist_of_none {s : State} (h : s.sel.assist = none) :
    s.chooseAssist = bestSlot s.assistBefore s.assistCandidate := by
  simp [State.chooseAssist, h]

theorem State.chargedOf_unselected {s : State} {i j : Slot} (hi : s.sel.phase ≠ some i) (hj : s.sel.phase ≠ some j) :
    s.chargedOf i j = if s.ranksBefore i j then j else i := by
  rw [State.chargedOf, if_neg hi, if_neg hj]

end Sys2Proof.Machine
end

section
/-! The best candidate (R56). -/

namespace Sys2Proof.Machine

/-- Settles O33: both rankings are strict total orders, in which the search finds the first candidate. -/
theorem bestCandidateRanksFirst : Obligations.BestCandidateRanksFirst := by
  intro s
  refine ⟨s.ranksBefore_iff, s.assistBefore_iff, fun i j hij => ⟨s.ranksBefore_strict.total i j hij,
    s.assistBefore_strict.total i j hij⟩, bestSlot_eq_some_iff s.ranksBefore_strict,
    bestSlot_eq_none_iff s.ranksBefore_strict, fun no_assist i => ?_, fun i j => State.chargedOf_unselected⟩
  rw [State.chooseAssist_of_none no_assist]
  exact bestSlot_eq_some_iff s.assistBefore_strict i

end Sys2Proof.Machine
end

section
/-! Scoring (R50, R52, R53): what a record becomes when a measurement is scored in it and its state is tested. -/

namespace Sys2Proof.Machine
open ReferenceInputs

/-- A record after the test of QUALIFYING (R52). -/
def RefRecord.qualifiedAt (r : RefRecord) (now : Nat) : RefRecord :=
  if r.state = .qualifying ∧ r.score = 0 ∧ r.qualifyTime ≤ r.streak then
    { r with state := .qualified, qualifiedSince := some now }
  else r

/-- A record of a state after the test of QUALIFIED (R53). -/
def State.disqualified (s : State) (r : RefRecord) : RefRecord :=
  if r.state = .qualified ∧ r.threshold ≤ r.score then
    { r with
      state := .holdoff, k := s.backoff r, holdoff := some (s.monitorIn (holdoffSeconds (s.backoff r)))
      qualifiedSince := none, candidateSince := none }
  else r

theorem State.moveRef_self (s : State) (i : Slot) (r : RefRecord) : (s.moveRef i r).refs[i] = r := by
  simp only [moveRef_refs]
  exact State.setRef_self ..

theorem State.moveRef_other (s : State) {i j : Slot} (r : RefRecord) (h : j ≠ i) :
    (s.moveRef i r).refs[j] = s.refs[j] := by
  simp only [moveRef_refs]
  exact State.setRef_other _ _ _ _ h

theorem State.testQualifying_self (s : State) (i : Slot) :
    (s.testQualifying i).refs[i] = (s.refs[i]).qualifiedAt s.osc.now := by
  unfold State.testQualifying RefRecord.qualifiedAt
  split
  · exact State.setRef_self ..
  · rfl

theorem State.testQualifying_other (s : State) {i j : Slot} (h : j ≠ i) :
    (s.testQualifying i).refs[j] = s.refs[j] := by
  unfold State.testQualifying
  split
  · exact State.setRef_other _ _ _ _ h
  · rfl

theorem State.testQualified_self (s : State) (i : Slot) :
    (s.testQualified i).refs[i] = s.disqualified s.refs[i] := by
  unfold State.testQualified State.disqualified
  split
  · exact State.moveRef_self ..
  · rfl

theorem State.testQualified_other (s : State) {i j : Slot} (h : j ≠ i) :
    (s.testQualified i).refs[j] = s.refs[j] := by
  unfold State.testQualified
  split
  · exact State.moveRef_other _ _ h
  · rfl

/-- The test of QUALIFIED reads the records at its slot alone, so the write before it does not matter to it. -/
theorem State.disqualified_setRef (s : State) (i : Slot) (x r : RefRecord) :
    (s.setRef i x).disqualified r = s.disqualified r := rfl

/-! ### What a measurement leaves in the record of its slot (R50) -/

section
variable {s : State} {m : Measurement} {r : RefRecord}

/-- DISABLED and ABSENT are the states that are not scored. -/
theorem RefRecord.scored_iff (r : RefRecord) : r.scored = true ↔ r.state ≠ .disabled ∧ r.state ≠ .absent := by
  simp [RefRecord.scored]

theorem State.score_unscored (h : (s.refs[m.slot]).state = .disabled ∨ (s.refs[m.slot]).state = .absent) :
    (s.score m).refs[m.slot] = { s.refs[m.slot] with latest := some m } := by
  have unscored : ¬ RefRecord.scored { s.refs[m.slot] with latest := some m } = true := by
    rw [RefRecord.scored_iff]
    exact fun ⟨not_disabled, not_absent⟩ => h.elim not_disabled not_absent
  unfold State.score
  rw [if_neg unscored]
  exact State.setRef_self ..

theorem State.score_good (hs : (s.refs[m.slot]).scored = true) (hm : m.causes = []) :
    (s.score m).refs[m.slot] = (scoredRecord s.refs[m.slot] m).qualifiedAt s.osc.now := by
  unfold State.score
  rw [scoredRecord_good hs hm, if_pos (show RefRecord.scored { s.refs[m.slot] with latest := some m } = true from hs),
    if_pos hm, State.testQualifying_self, State.setRef_self, State.setRef_osc]

theorem State.score_bad (hs : (s.refs[m.slot]).scored = true) (hm : m.causes ≠ []) :
    (s.score m).refs[m.slot] = s.disqualified (scoredRecord s.refs[m.slot] m) := by
  unfold State.score
  rw [scoredRecord_bad hs hm, if_pos (show RefRecord.scored { s.refs[m.slot] with latest := some m } = true from hs),
    if_neg hm, State.testQualified_self, State.setRef_self, State.disqualified_setRef]

theorem State.score_other {j : Slot} (h : j ≠ m.slot) : (s.score m).refs[j] = s.refs[j] := by
  unfold State.score
  dsimp only
  split
  · split
    · rw [State.testQualifying_other _ h, State.setRef_other _ _ _ _ h]
    · rw [State.testQualified_other _ h, State.setRef_other _ _ _ _ h]
  · exact State.setRef_other _ _ _ _ h

/-! ### The fields of a tested record -/

theorem RefRecord.qualifiedAt_keeps (r : RefRecord) (now : Nat) :
    (r.qualifiedAt now).latest = r.latest ∧ (r.qualifiedAt now).score = r.score ∧
      (r.qualifiedAt now).streak = r.streak ∧ (r.qualifiedAt now).goodCount = r.goodCount ∧
      (r.qualifiedAt now).badCount = r.badCount ∧ (r.qualifiedAt now).rankQuality = r.rankQuality := by
  unfold RefRecord.qualifiedAt
  split <;> exact ⟨rfl, rfl, rfl, rfl, rfl, rfl⟩

theorem RefRecord.qualifiedAt_state (r : RefRecord) (now : Nat) : (r.qualifiedAt now).state =
    if r.state = .qualifying ∧ r.score = 0 ∧ r.qualifyTime ≤ r.streak then .qualified else r.state := by
  unfold RefRecord.qualifiedAt
  split <;> rfl

theorem State.disqualified_keeps (s : State) (r : RefRecord) :
    (s.disqualified r).latest = r.latest ∧ (s.disqualified r).score = r.score ∧
      (s.disqualified r).streak = r.streak ∧ (s.disqualified r).goodCount = r.goodCount ∧
      (s.disqualified r).badCount = r.badCount ∧ (s.disqualified r).rankQuality = r.rankQuality := by
  unfold State.disqualified
  split <;> exact ⟨rfl, rfl, rfl, rfl, rfl, rfl⟩

theorem State.disqualified_of_kept (h : r.state ≠ .qualified ∨ r.score < r.threshold) : s.disqualified r = r :=
  if_neg fun ⟨qualified, reached⟩ => h.elim (· qualified) (Nat.not_lt.mpr reached)

theorem State.disqualified_of_reached (hq : r.state = .qualified) (h : r.threshold ≤ r.score) :
    s.disqualified r = { r with
      state := .holdoff, k := s.backoff r, holdoff := some (s.monitorIn (holdoffSeconds (s.backoff r)))
      qualifiedSince := none, candidateSince := none } :=
  if_pos ⟨hq, h⟩

/-- The hold-off step that a disqualification gives, by the time that the record was QUALIFIED (R53, R54). -/
theorem State.backoff_of_since {t : Nat} (h : r.qualifiedSince = some t) :
    s.backoff r = if (s.osc.now - t) / 1000000000 < 3600 then min 4 (r.k + 1) else 0 := by
  unfold State.backoff
  rw [h]
  rfl

/-- Every measurement is the latest of its record. -/
theorem State.score_latest (s : State) (m : Measurement) : ((s.score m).refs[m.slot]).latest = some m := by
  by_cases hs : (s.refs[m.slot]).scored = true
  · by_cases hm : m.causes = []
    · rw [State.score_good hs hm, (RefRecord.qualifiedAt_keeps _ _).1, scoredRecord_latest]
    · rw [State.score_bad hs hm, (State.disqualified_keeps _ _).1, scoredRecord_latest]
  · have unscored : (s.refs[m.slot]).state = .disabled ∨ (s.refs[m.slot]).state = .absent := by
      rwa [RefRecord.scored_iff, not_and_or, not_not, not_not] at hs
    rw [State.score_unscored unscored]

theorem countUp_eq_min (limit n : Nat) : countUp limit n = min limit (n + 1) := Nat.min_comm ..

end

end Sys2Proof.Machine
end

section
/-! A measurement at the record of its slot (R50, R52 to R54). -/

namespace Sys2Proof.Machine
open ReferenceInputs

/-- Settles O31: the record holds what the score of a GOOD or a BAD measurement gives, tested for QUALIFYING or for
QUALIFIED. -/
theorem measurementMovesScore : Obligations.MeasurementMovesScore := by
  intro s m r hr _
  subst hr
  refine ⟨s.score_latest m, fun j => State.score_other, by simp, State.score_unscored,
    fun not_disabled not_absent good => ?_, fun not_disabled not_absent bad => ?_⟩
  · have scored := (RefRecord.scored_iff _).2 ⟨not_disabled, not_absent⟩
    obtain ⟨-, score, streak, goodCount, badCount, rank⟩ :=
      RefRecord.qualifiedAt_keeps (scoredRecord s.refs[m.slot] m) s.osc.now
    have state := RefRecord.qualifiedAt_state (scoredRecord s.refs[m.slot] m) s.osc.now
    have zero_iff : (s.refs[m.slot]).score - 1 = 0 ↔ (s.refs[m.slot]).score ≤ 1 := Nat.sub_eq_zero_iff_le
    rw [State.score_good scored good, score, streak, goodCount, badCount, rank, state, scoredRecord_good scored good]
    refine ⟨rfl, countUp_eq_min .., countUp_eq_min .., rfl, rfl, ?_⟩
    simp only [RefRecord.scoreGood, countUp_eq_min, zero_iff]
    rfl
  · have scored := (RefRecord.scored_iff _).2 ⟨not_disabled, not_absent⟩
    obtain ⟨-, score, streak, goodCount, badCount, rank⟩ :=
      State.disqualified_keeps s (scoredRecord s.refs[m.slot] m)
    have record := scoredRecord_bad scored bad
    refine ⟨?_, ?_, ?_, ?_, ?_, fun kept => ?_, fun t qualified reached since k hk => ?_⟩ <;>
      rw [State.score_bad scored bad]
    · rw [score, record, RefRecord.scoreBad]
    · rw [streak, record, RefRecord.scoreBad]
    · rw [badCount, record, RefRecord.scoreBad, countUp_eq_min]
      rfl
    · rw [goodCount, record, RefRecord.scoreBad]
    · rw [rank, record, RefRecord.scoreBad]
    · rw [record, State.disqualified_of_kept (by exact kept)]
      exact ⟨rfl, rfl⟩
    · have hk' : s.backoff (RefRecord.scoreBad { s.refs[m.slot] with latest := some m }) = k := by
        rw [hk]
        exact State.backoff_of_since since
      rw [record, State.disqualified_of_reached (by exact qualified) (by exact reached), hk']
      exact ⟨rfl, rfl, rfl, rfl⟩

end Sys2Proof.Machine
end

section
/-! Notices (R167, R168): what a run of notices leaves in a port's queue, and the notices of a switch of the selection
among those of the reports that follow it. -/

namespace Sys2Proof.Machine

/-- The notices of a kind that wait in a view. -/
def View.ofKind (v : View) (k : NoticeKind) : List Notice := v.notices.filter fun n => n.kind = k

/-- The part of a view that a notice reads and moves: all but the unseen flags. -/
def View.queued (v : View) : View := { v with unseen := 0 }

/-- A notice is blocked, queued, or lost (R168). -/
theorem View.receive_cases (v : View) (n : Notice) :
    (v.eventMask.getLsbD n.kind.code = false ∧ v.receive n = v) ∨
      (v.notices.length < 16 ∧ v.receive n = { v with notices := v.notices ++ [n] }) ∨
      (16 ≤ v.notices.length ∧ v.receive n = { v with overflow := true }) := by
  unfold View.receive
  split
  · split
    · next room => exact .inr (.inl ⟨room, rfl⟩)
    · next full => exact .inr (.inr ⟨Nat.not_lt.mp full, rfl⟩)
  · next blocked => exact .inl ⟨Bool.not_eq_true _ ▸ blocked, rfl⟩

theorem View.queued_receive (v : View) (n : Notice) : (v.receive n).queued = v.queued.receive n := by
  unfold View.receive View.queued
  dsimp only
  split
  · split <;> rfl
  · rfl

/-- What a run of notices leaves of a kind that the event mask passes: each of the kind is queued, or some are lost at a
full queue, which the overflow flag shows. -/
def View.tookOf (v w : View) (k : NoticeKind) (ns : List Notice) : Prop :=
  w.eventMask = v.eventMask ∧
    (w.ofKind k = v.ofKind k ++ ns.filter (fun n => n.kind = k) ∨
      (w.overflow = true ∧ 16 ≤ w.notices.length ∧ ∃ c < (ns.filter fun n => n.kind = k).length,
        w.ofKind k = v.ofKind k ++ (ns.filter fun n => n.kind = k).take c))

/-- One more notice, of another kind or of a kind that passes, extends what a run of notices leaves. -/
theorem View.tookOf.receive {v w : View} {k : NoticeKind} {ns : List Notice} (h : v.tookOf w k ns)
    (passes : v.eventMask.getLsbD k.code = true) (n : Notice) : v.tookOf (w.receive n) k (ns ++ [n]) := by
  obtain ⟨mask, kept⟩ := h
  by_cases hk : n.kind = k
  · have filter_append : (ns ++ [n]).filter (fun n => n.kind = k) = ns.filter (fun n => n.kind = k) ++ [n] := by
      simp [hk]
    rw [View.tookOf, filter_append]
    rcases w.receive_cases n with ⟨blocked, -⟩ | ⟨room, queued⟩ | ⟨full, lost⟩
    · rw [mask, hk, passes] at blocked
      cases blocked
    · rw [queued]
      refine ⟨mask, .inl ?_⟩
      rcases kept with all | ⟨-, full, -⟩
      · rw [View.ofKind] at all ⊢
        simp [all, hk]
      · omega
    · rw [lost]
      refine ⟨mask, .inr ⟨rfl, full, ?_⟩⟩
      rcases kept with all | ⟨-, -, c, hc, some_lost⟩
      · exact ⟨(ns.filter fun n => n.kind = k).length, by simp, by rw [List.take_left]; exact all⟩
      · refine ⟨c, by simp; omega, ?_⟩
        rw [List.take_append_of_le_length (Nat.le_of_lt hc)]
        exact some_lost
  · have filter_append : (ns ++ [n]).filter (fun n => n.kind = k) = ns.filter (fun n => n.kind = k) := by simp [hk]
    rw [View.tookOf, filter_append]
    rcases w.receive_cases n with ⟨-, same⟩ | ⟨-, queued⟩ | ⟨full, lost⟩
    · rw [same]
      exact ⟨mask, kept⟩
    · have ofKind_same : (w.receive n).ofKind k = w.ofKind k := by simp [queued, View.ofKind, hk]
      rw [ofKind_same, queued]
      exact ⟨mask, kept.imp_right fun ⟨flag, full, lost⟩ => ⟨flag, by simp; omega, lost⟩⟩
    · rw [lost]
      exact ⟨mask, kept.imp_right fun ⟨_, _, some_lost⟩ => ⟨rfl, full, some_lost⟩⟩

theorem View.tookOf_foldl (v : View) {k : NoticeKind} (passes : v.eventMask.getLsbD k.code = true) (ns : List Notice) :
    v.tookOf (ns.foldl View.receive v) k ns := by
  induction ns using List.reverseRecOn with
  | nil => exact ⟨rfl, .inl (by simp)⟩
  | append_singleton ns n ih =>
    rw [List.foldl_append]
    exact ih.receive passes n

/-- A kind that the event mask blocks leaves nothing (R168). -/
theorem View.ofKind_foldl_of_blocked (v : View) {k : NoticeKind} (blocked : v.eventMask.getLsbD k.code = false)
    (ns : List Notice) :
    (ns.foldl View.receive v).eventMask = v.eventMask ∧ (ns.foldl View.receive v).ofKind k = v.ofKind k := by
  induction ns using List.reverseRecOn with
  | nil => exact ⟨rfl, rfl⟩
  | append_singleton ns n ih =>
    obtain ⟨mask, same⟩ := ih
    rw [List.foldl_append, List.foldl_cons, List.foldl_nil]
    rcases (ns.foldl View.receive v).receive_cases n with ⟨-, unmoved⟩ | ⟨-, queued⟩ | ⟨-, lost⟩
    · rw [unmoved]
      exact ⟨mask, same⟩
    · by_cases hk : n.kind = k
      · rw [View.receive, mask, hk, blocked]
        exact ⟨mask, same⟩
      · rw [queued]
        refine ⟨mask, ?_⟩
        rw [← same]
        simp [View.ofKind, hk]
    · rw [lost]
      exact ⟨mask, same⟩

/-! ### Notices handed to a port -/

/-- From one state to the next a port is handed these notices, and none unless it is ONLINE (R167). -/
def State.hands (s t : State) (p : Port) (ns : List Notice) : Prop :=
  (t.views[p]).queued = (if (s.ports[p]).online then ns else []).foldl View.receive (s.views[p]).queued

theorem State.hands.given {s t : State} {p : Port} {ns : List Notice} (h : s.hands t p ns) (k : NoticeKind) :
    s.given t p k (ns.filter fun n => n.kind = k) := by
  unfold State.hands at h
  have overflow : (t.views[p]).overflow = ((t.views[p]).queued).overflow := rfl
  have noticesOf : t.noticesOf p k = ((t.views[p]).queued).ofKind k := rfl
  rw [State.given, overflow, noticesOf, h]
  by_cases online : (s.ports[p]).online = true
  · rw [if_pos online]
    by_cases passes : (s.views[p]).eventMask.getLsbD k.code = true
    · rw [if_pos ⟨online, passes⟩]
      obtain ⟨-, all | ⟨flag, -, c, hc, some_lost⟩⟩ := View.tookOf_foldl (s.views[p]).queued passes ns
      · exact .inl all
      · exact .inr ⟨flag, c, List.mem_range.mpr hc, some_lost⟩
    · rw [if_neg fun both => passes both.2]
      exact (View.ofKind_foldl_of_blocked (s.views[p]).queued (Bool.not_eq_true _ ▸ passes) ns).2
  · rw [if_neg fun both => online both.1, if_neg online]
    rfl

theorem State.notifyPort_self (s : State) (p : Port) (n : Notice) :
    (s.notifyPort p n).views[p] = if (s.ports[p]).online then (s.views[p]).receive n else s.views[p] := by
  unfold State.notifyPort
  split
  · exact State.setView_self ..
  · rfl

theorem State.notifyPort_other (s : State) {p q : Port} (n : Notice) (h : q ≠ p) :
    (s.notifyPort p n).views[q] = s.views[q] := by
  unfold State.notifyPort
  split
  · exact State.setView_other _ _ _ _ h
  · rfl

/-- What only the step of one index moves, all the steps together move as that one does. -/
theorem forEach_once {σ τ : Type} {n : Nat} (s : σ) (f : Fin n → σ → σ) (p : Fin n) (read : σ → τ) (op : τ → τ)
    (self : ∀ t, read (f p t) = op (read t)) (other : ∀ j t, j ≠ p → read (f j t) = read t) :
    read (forEach n s f) = op (read s) := by
  have fold : ∀ (l : List (Fin n)) (t : σ), l.Nodup →
      read (l.foldl (fun t i => f i t) t) = if p ∈ l then op (read t) else read t := fun l => by
    induction l with
    | nil => simp
    | cons j l ih =>
      intro t hl
      obtain ⟨hj, hl⟩ := List.nodup_cons.mp hl
      rw [List.foldl_cons, ih _ hl]
      by_cases hp : j = p
      · subst hp
        simp [hj, self]
      · simp [other j t hp, Ne.symm hp]
  have all := fold (List.finRange n) s (List.nodup_finRange n)
  rwa [if_pos (List.mem_finRange p)] at all

/-- Every ONLINE port receives a notice for all of them, once (R167). -/
theorem State.notifyAll_view (s : State) (n : Notice) (p : Port) :
    (s.notifyAll n).views[p] = if (s.ports[p]).online then (s.views[p]).receive n else s.views[p] := by
  have once := forEach_once s (fun q t => t.notifyPort q n) p (fun t => (t.ports, t.views[p]))
    (fun x => (x.1, if (x.1[p]).online then x.2.receive n else x.2))
    (fun t => Prod.ext (ReferenceInputs.same_of_frame (s := t) (fs := [.views]) (by simp) .ports)
      (t.notifyPort_self p n))
    (fun j t hj => Prod.ext (ReferenceInputs.same_of_frame (s := t) (fs := [.views]) (by simp) .ports)
      (t.notifyPort_other n hj.symm))
  exact congrArg Prod.snd once

end Sys2Proof.Machine
end

section
/-! A switch of the phase selection: what every report and alarm that follows it leaves to be seen of it, the notices
given and the disturbed minute (R65, R87, R167). -/

namespace Sys2Proof.Machine

/-- From one state to the next every port is handed these notices of a switch, among others, and the running minute is
disturbed (R65, R167). -/
structure SwitchReported (s : State) (l : List Notice) (t : State) : Prop where
  ports : t.ports = s.ports
  handed : ∀ p : Port, ∃ ns, ns.filter (fun n => n.kind = .refSwitched) = l ∧ s.hands t p ns
  disturbed : t.hold.acc.disturbed = true

/-- The notice of a change of the assist reference (R65). -/
def State.assistNotices (s : State) (new : Option Slot) : List Notice :=
  if new = s.sel.assist then [] else [s.notice .refSwitched 1 (slotCode s.sel.assist) (slotCode new)]

namespace SwitchReported

variable {s t : State} {l : List Notice}

theorem given (h : SwitchReported s l t) (p : Port) : s.given t p .refSwitched l := by
  obtain ⟨ns, rfl, hands⟩ := h.handed p
  exact hands.given _

/-- What moves neither the ports nor what notices do to the views, nor opens a minute, leaves it. -/
theorem same {u : State} (h : SwitchReported s l t) (hports : u.ports = t.ports)
    (hviews : ∀ p : Port, (u.views[p]).queued = (t.views[p]).queued)
    (hdisturbed : t.hold.acc.disturbed = true → u.hold.acc.disturbed = true) : SwitchReported s l u where
  ports := hports.trans h.ports
  handed p := by
    obtain ⟨ns, kind, hands⟩ := h.handed p
    exact ⟨ns, kind, (hviews p).trans hands⟩
  disturbed := hdisturbed h.disturbed

/-- The report reads the ports and the views alone of the state it starts from. -/
theorem of_start {u : State} (h : SwitchReported u l t) (hports : u.ports = s.ports) (hviews : u.views = s.views) :
    SwitchReported s l t where
  ports := h.ports.trans hports
  handed p := by
    obtain ⟨ns, kind, hands⟩ := h.handed p
    refine ⟨ns, kind, ?_⟩
    rwa [State.hands, hports, hviews] at hands
  disturbed := h.disturbed

/-! ### Notices -/

theorem notifyPort (h : SwitchReported s l t) (p : Port) {n : Notice} (hn : n.kind ≠ .refSwitched) :
    SwitchReported s l (t.notifyPort p n) where
  ports := (ReferenceInputs.same_of_frame (s := t) (fs := [.views]) (by simp) .ports).trans h.ports
  handed q := by
    obtain ⟨ns, kind, hands⟩ := h.handed q
    by_cases hq : q = p
    · subst hq
      refine ⟨ns ++ [n], by simp [kind, hn], ?_⟩
      unfold State.hands at hands ⊢
      rw [t.notifyPort_self, h.ports]
      split
      · next online =>
        rw [View.queued_receive, hands, if_pos online, List.foldl_append]
        rfl
      · next offline => rw [hands, if_neg offline]
    · refine ⟨ns, kind, ?_⟩
      unfold State.hands at hands ⊢
      rw [t.notifyPort_other n hq, hands]
  disturbed := by
    have hold : (t.notifyPort p n).hold = t.hold :=
      ReferenceInputs.same_of_frame (s := t) (fs := [.views]) (by simp) .hold
    rw [hold]
    exact h.disturbed

theorem forEach {n : Nat} {f : Fin n → State → State} (h : SwitchReported s l t)
    (hf : ∀ i u, SwitchReported s l u → SwitchReported s l (f i u)) : SwitchReported s l (Machine.forEach n t f) :=
  forEach_invariant n t f (SwitchReported s l) hf h

theorem notifyAll (h : SwitchReported s l t) {n : Notice} (hn : n.kind ≠ .refSwitched) :
    SwitchReported s l (t.notifyAll n) :=
  h.forEach fun p _ hu => hu.notifyPort p hn

/-- A notice of the kind, given to all, is the next of those handed. -/
theorem notifyAll_switch (h : SwitchReported s l t) {n : Notice} (hn : n.kind = .refSwitched) :
    SwitchReported s (l ++ [n]) (t.notifyAll n) where
  ports := (ReferenceInputs.same_of_frame (ReferenceInputs.notifyAll_frame t n) .ports).trans h.ports
  handed p := by
    obtain ⟨ns, kind, hands⟩ := h.handed p
    refine ⟨ns ++ [n], by simp [kind, hn], ?_⟩
    unfold State.hands at hands ⊢
    rw [t.notifyAll_view, h.ports]
    split
    · next online =>
      rw [View.queued_receive, hands, if_pos online, List.foldl_append]
      rfl
    · next offline => rw [hands, if_neg offline]
  disturbed := by
    rw [ReferenceInputs.same_of_frame (ReferenceInputs.notifyAll_frame t n) .hold]
    exact h.disturbed

/-! ### The steps of the timebase's reports -/

theorem setTb (h : SwitchReported s l t) (x : Timebase) : SwitchReported s l (t.setTb x) :=
  h.same rfl (fun _ => rfl) id

theorem setLoop (h : SwitchReported s l t) (x : Loop) : SwitchReported s l (t.setLoop x) :=
  h.same rfl (fun _ => rfl) id

theorem setSel (h : SwitchReported s l t) (x : Selector) : SwitchReported s l (t.setSel x) :=
  h.same rfl (fun _ => rfl) id

theorem setHold (h : SwitchReported s l t) {x : Holdover} (hx : x.acc.disturbed = true) :
    SwitchReported s l (t.setHold x) :=
  h.same rfl (fun _ => rfl) fun _ => hx

theorem setTbState (h : SwitchReported s l t) (x : TbState) : SwitchReported s l (t.setTbState x) := by
  unfold State.setTbState
  split
  · exact h
  · exact (h.setTb _).notifyAll nofun

theorem regrade (h : SwitchReported s l t) : SwitchReported s l t.regrade := by
  unfold State.regrade
  split
  · exact h
  · exact (h.setTb _).notifyAll nofun

theorem dropLoopStep (h : SwitchReported s l t) : SwitchReported s l t.dropLoopStep := by
  unfold State.dropLoopStep
  split
  · split
    · exact h
    · exact h.setTb _
  · exact h

theorem leaveState (h : SwitchReported s l t) : SwitchReported s l t.leaveState := by
  unfold State.leaveState
  split
  case h_1 => exact (h.setLoop _).setHold h.disturbed
  case h_2 => exact (h.setTb _).dropLoopStep
  case h_3 => exact h.setLoop _
  all_goals exact h

theorem emptyStaging (h : SwitchReported s l t) : SwitchReported s l t.emptyStaging := h.setHold h.disturbed

theorem loadLoop (h : SwitchReported s l t) : SwitchReported s l t.loadLoop := by
  unfold State.loadLoop
  split
  · exact h.setLoop _
  · exact h

theorem setClass (h : SwitchReported s l t) (c : Nat) : SwitchReported s l (t.setClass c) := by
  unfold State.setClass
  split
  · exact h
  · exact (h.setLoop _).setHold rfl

theorem closeEpisode (h : SwitchReported s l t) (c : TbState) : SwitchReported s l (t.closeEpisode c) := by
  unfold State.closeEpisode
  split
  · split
    · exact (h.setHold (by exact h.disturbed)).setTb _
    · exact h.setTb _
  · exact h.setTb _

theorem beginEpisode (h : SwitchReported s l t) : SwitchReported s l t.beginEpisode := by
  unfold State.beginEpisode
  split
  · exact h
  · split
    · exact (h.setHold (by exact h.disturbed)).setTb _
    · exact h.setTb _

theorem reacquire (h : SwitchReported s l t) : SwitchReported s l t.reacquire :=
  ((((h.leaveState.setLoop _).setTb _).emptyStaging).setTbState _).regrade

theorem acquire (h : SwitchReported s l t) : SwitchReported s l t.acquire :=
  ((((((h.loadLoop.leaveState.closeEpisode _).setClass 0).emptyStaging).setLoop _).setTb _).setTb _
    |>.setTbState _).regrade

theorem enterAssisted (h : SwitchReported s l t) : SwitchReported s l t.enterAssisted :=
  (((h.beginEpisode.loadLoop.leaveState.emptyStaging).setLoop _).setTb _ |>.setTbState _).regrade

theorem enterHoldover (h : SwitchReported s l t) : SwitchReported s l t.enterHoldover :=
  (((h.beginEpisode.leaveState.setLoop _).setTb _).setTbState _).regrade

/-! ### The reports -/

theorem phaseSwitched (h : SwitchReported s l t) : SwitchReported s l t.phaseSwitched := by
  unfold State.phaseSwitched
  split
  · exact h.reacquire
  · split
    · exact h.setLoop _
    · exact h

theorem freerunTests (h : SwitchReported s l t) : SwitchReported s l t.freerunTests := by
  unfold State.freerunTests
  split
  · split
    · exact h.acquire
    · split
      · exact h.enterAssisted
      · exact h
  · exact h

theorem assistAppeared (h : SwitchReported s l t) : SwitchReported s l t.assistAppeared := by
  unfold State.assistAppeared
  split
  · exact h.enterAssisted
  · exact h.freerunTests

theorem assistLost (h : SwitchReported s l t) : SwitchReported s l t.assistLost := by
  unfold State.assistLost
  split
  · exact h.enterHoldover
  · exact h

theorem assistChanged (h : SwitchReported s l t) : SwitchReported s l t.assistChanged := by
  unfold State.assistChanged
  split
  · exact h.setLoop _
  · exact h

theorem changeAssist (h : SwitchReported s l t) (new : Option Slot) :
    SwitchReported s (l ++ t.assistNotices new) (t.changeAssist new) := by
  unfold State.changeAssist State.assistNotices
  by_cases kept : t.sel.assist = new
  · rw [if_pos kept, if_pos kept.symm, List.append_nil]
    exact h
  · rw [if_neg kept, if_neg (Ne.symm kept)]
    have told := (h.setSel { t.sel with assist := new }).notifyAll_switch
      (n := t.notice .refSwitched 1 (slotCode t.sel.assist) (slotCode new)) rfl
    dsimp only
    split
    · exact told.assistAppeared
    · exact told.assistChanged
    · exact told.assistLost
    · exact told

/-! ### The alarms after it -/

theorem setAlarm (h : SwitchReported s l t) (i : AlarmIx) (a : AlarmRec) : SwitchReported s l (t.setAlarm i a) :=
  h.same rfl (fun _ => rfl) id

/-- An unseen flag is no part of what notices move. -/
theorem setView (h : SwitchReported s l t) {p : Port} {v : View} (hv : v.queued = (t.views[p]).queued) :
    SwitchReported s l (t.setView p v) := by
  refine h.same rfl (fun q => ?_) id
  by_cases hq : q = p
  · subst hq
    rw [State.setView_self]
    exact hv
  · rw [State.setView_other _ _ _ _ hq]

theorem showTransition (h : SwitchReported s l t) (i : AlarmIx) {n : Notice} (hn : n.kind ≠ .refSwitched) (p : Port) :
    SwitchReported s l (t.showTransition i n p) := by
  unfold State.showTransition
  split
  · refine (h.setView ?_).notifyPort p hn
    rfl
  · exact h

theorem raiseAlarm (h : SwitchReported s l t) (i : AlarmIx) : SwitchReported s l (t.raiseAlarm i) :=
  (h.setAlarm i _).forEach fun p _ hu => hu.showTransition i (by exact nofun) p

theorem clearAlarm (h : SwitchReported s l t) (i : AlarmIx) : SwitchReported s l (t.clearAlarm i) :=
  (h.setAlarm i _).forEach fun p _ hu => hu.showTransition i (by exact nofun) p

theorem conditionAppears (h : SwitchReported s l t) (i : AlarmIx) : SwitchReported s l (t.conditionAppears i) := by
  unfold State.conditionAppears
  split
  case h_1 =>
    split
    · exact (h.setAlarm i _).raiseAlarm i
    · exact h.setAlarm i _
  all_goals exact h.setAlarm i _

theorem conditionGoes (h : SwitchReported s l t) (i : AlarmIx) : SwitchReported s l (t.conditionGoes i) := by
  unfold State.conditionGoes
  split
  case h_2 =>
    split
    · exact (h.setAlarm i _).clearAlarm i
    · exact h.setAlarm i _
  all_goals exact h.setAlarm i _

theorem setCondition (h : SwitchReported s l t) (i : AlarmIx) (present : Bool) :
    SwitchReported s l (t.setCondition i present) := by
  unfold State.setCondition
  split
  · exact h
  · split
    · exact h.conditionAppears i
    · exact h.conditionGoes i

theorem syncAlarms (h : SwitchReported s l t) : SwitchReported s l t.syncAlarms :=
  h.forEach fun i _ hu => hu.setCondition i _

end SwitchReported

end Sys2Proof.Machine
end

section
/-! The timers of a record run out (R53, R54, R60): the end of HOLDOFF, the hour in QUALIFIED, and the switch to the best
candidate after the wait-to-restore time. -/

namespace Sys2Proof.Machine
open ReferenceInputs

/-! ### HOLDOFF and QUALIFIED (R54) -/

theorem State.holdoffEnds_of_holdoff {s : State} {i : Slot} (h : (s.refs[i]).state = .holdoff) :
    s.holdoffEnds i =
      (s.setRef i { s.refs[i] with state := .qualifying, holdoff := none, streak := 0 }).reevaluate := if_pos h

theorem exec_holdoffExpiry {s : State} {i : Slot} {d : Nat} (h : (s.refs[i]).holdoff = some d) :
    exec (.holdoffExpiry i) s = .next ((s.reachMonitor d).holdoffEnds i).syncAlarms := by
  show execHoldoffExpiry i s = _
  unfold execHoldoffExpiry
  rw [h]
  rfl

theorem exec_qualifiedHour {s : State} {i : Slot} {d : Nat} (h : (s.refs[i]).qualifiedSince = some d) :
    exec (.qualifiedHour i) s =
      .next ((s.reachMonitor (d + 3600000000000)).setRef i { s.refs[i] with k := 0 }) := by
  show execQualifiedHour i s = _
  unfold execQualifiedHour
  rw [h]
  rfl

/-- A re-evaluation and the alarms after it leave of each record all but its candidate time. -/
theorem reevaluated_ref (s : State) (i : Slot) :
    ∃ c, (s.reevaluate.syncAlarms).refs[i] = { s.refs[i] with candidateSince := c } := by
  simpa only [syncAlarms_refs] using reevaluate_ref s i

theorem holdoffExpiry_toQualifying {s : State} {i : Slot} {d : Nat} (hs : (s.refs[i]).state = .holdoff)
    (hd : (s.refs[i]).holdoff = some d) :
    ∃ t, exec (.holdoffExpiry i) s = .next t ∧ t.osc.now = max s.osc.now d ∧ (t.refs[i]).state = .qualifying ∧
      (t.refs[i]).streak = 0 ∧ (t.refs[i]).holdoff = none ∧ (t.refs[i]).score = (s.refs[i]).score ∧
      (t.refs[i]).k = (s.refs[i]).k ∧ ∀ j : Slot, j ≠ i → (t.refs[j]).state = (s.refs[j]).state := by
  have refs := reachMonitor_refs s d
  refine ⟨_, exec_holdoffExpiry hd, ?_⟩
  rw [State.holdoffEnds_of_holdoff (by rw [refs]; exact hs)]
  obtain ⟨c, own⟩ := reevaluated_ref ((s.reachMonitor d).setRef i
    { (s.reachMonitor d).refs[i] with state := .qualifying, holdoff := none, streak := 0 }) i
  rw [State.setRef_self] at own
  refine ⟨?_, ?_, ?_, ?_, ?_, ?_, fun j hj => ?_⟩
  · rw [syncAlarms_osc, reevaluate_osc, State.setRef_osc, State.reachMonitor_now]
  · rw [own]
  · rw [own]
  · rw [own]
  · rw [own, refs]
  · rw [own, refs]
  · obtain ⟨c, other⟩ := reevaluated_ref ((s.reachMonitor d).setRef i
      { (s.reachMonitor d).refs[i] with state := .qualifying, holdoff := none, streak := 0 }) j
    rw [other, State.setRef_other _ _ _ _ hj, refs]

theorem qualifiedHour_clearsStep {s : State} {i : Slot} {d : Nat} (hd : (s.refs[i]).qualifiedSince = some d) :
    ∃ t, exec (.qualifiedHour i) s = .next t ∧ t.osc.now = max s.osc.now (d + 3600000000000) ∧
      t.refs = s.refs.set i { s.refs[i] with k := 0 } ∧ OnlyChanges [.osc, .refs] s t :=
  ⟨_, exec_qualifiedHour hd, by rw [State.setRef_osc, State.reachMonitor_now],
    by rw [State.setRef_refs, reachMonitor_refs], by simp⟩

/-! ### The best candidate after its wait (R60) -/

/-- The refresh of the candidate times moves nothing else of a record. -/
theorem refreshCandidates_ref (s : State) (i : Slot) :
    ∃ c, s.refreshCandidates.refs[i] = { s.refs[i] with candidateSince := c } := by
  rw [State.refreshCandidates, mapAll_get]
  split
  · split
    · exact ⟨_, rfl⟩
    · exact ⟨_, rfl⟩
  · exact ⟨_, rfl⟩

theorem refreshCandidates_ranksBefore (s : State) (i j : Slot) :
    s.refreshCandidates.ranksBefore i j = s.ranksBefore i j := by
  obtain ⟨ci, hi⟩ := refreshCandidates_ref s i
  obtain ⟨cj, hj⟩ := refreshCandidates_ref s j
  unfold State.ranksBefore
  rw [hi, hj]

theorem refreshCandidates_phaseCandidate (s : State) (i : Slot) :
    s.refreshCandidates.phaseCandidate i = s.phaseCandidate i := by
  obtain ⟨c, hi⟩ := refreshCandidates_ref s i
  unfold State.phaseCandidate
  rw [hi]
  cases (s.refs[i]).partner with
  | none => rfl
  | some q =>
    obtain ⟨c', hq⟩ := refreshCandidates_ref s q
    dsimp only
    rw [hq]

/-- A candidate keeps the time since which it is one (R57). -/
theorem refreshCandidates_of_since {s : State} {i : Slot} {d : Nat} (hc : s.phaseCandidate i = true)
    (hd : (s.refs[i]).candidateSince = some d) : s.refreshCandidates.refs[i] = s.refs[i] := by
  have candidate : s.candidate i = true := by rw [State.candidate, hc, Bool.true_or]
  rw [State.refreshCandidates, mapAll_get, if_pos candidate, hd]

/-- The best candidate, once it has waited, is chosen in place of a selected one that it ranks before (R60). -/
theorem choosePhase_of_waited {s : State} {i p : Slot} (hm : s.sel.mode = .revertive) (hf : s.sel.force = none)
    (hp : s.sel.phase = some p) (hcp : s.phaseCandidate p = true) (hci : s.phaseCandidate i = true)
    (hw : s.waited i = true) (hip : i ≠ p)
    (first : ∀ j : Slot, s.phaseCandidate j = true → j ≠ i → s.ranksBefore i j = true) :
    s.choosePhase = some i := by
  have best : bestSlot s.ranksBefore (fun j => s.phaseCandidate j && s.ranksBefore j p && s.waited j) = some i := by
    rw [bestSlot_eq_some_iff s.ranksBefore_strict]
    refine ⟨by simp [hci, hw, first p hcp hip.symm], fun j hj hji => first j ?_ hji⟩
    simp only [Bool.and_eq_true] at hj
    exact hj.1.1
  simp only [State.choosePhase, hf, hp, hcp, hm, best, if_true]

/-- The switch of a re-evaluation that finds the best candidate waited for (R60). -/
theorem refreshCandidates_choosePhase {s : State} {i p : Slot} {d : Nat} (hm : s.sel.mode = .revertive)
    (hf : s.sel.force = none) (hp : s.sel.phase = some p) (hcp : s.phaseCandidate p = true)
    (hci : s.phaseCandidate i = true) (hd : (s.refs[i]).candidateSince = some d)
    (hw : d + s.sel.wtr * 1000000000 ≤ s.osc.now) (hip : i ≠ p)
    (first : ∀ j : Slot, s.phaseCandidate j = true → j ≠ i → s.ranksBefore i j = true) :
    s.refreshCandidates.choosePhase = some i := by
  have waited : s.refreshCandidates.waited i = true := by
    unfold State.waited
    rw [refreshCandidates_of_since hci hd, hd]
    have whole : s.sel.wtr ≤ (s.osc.now - d) / 1000000000 := by omega
    exact decide_eq_true whole
  refine choosePhase_of_waited hm hf hp ?_ ?_ waited hip fun j hj hji => ?_
  · rwa [refreshCandidates_phaseCandidate]
  · rwa [refreshCandidates_phaseCandidate]
  · rw [refreshCandidates_phaseCandidate] at hj
    rw [refreshCandidates_ranksBefore]
    exact first j hj hji

theorem exec_revertiveWaitExpiry {s : State} {i : Slot} {d : Nat} (hd : (s.refs[i]).candidateSince = some d)
    (hw : s.waitsToReplace i = true) : exec (.revertiveWaitExpiry i) s =
      .next ((s.reachMonitor (d + s.sel.wtr * 1000000000)).reevaluate).syncAlarms := by
  show execRevertiveWaitExpiry i s = _
  unfold execRevertiveWaitExpiry
  rw [hd]
  exact if_pos hw

/-! ### The switch and its reports (R65) -/

theorem changePhase_of_switch {s : State} {i p : Slot} (hp : s.sel.phase = some p) (hip : i ≠ p) :
    s.changePhase (some i) = ((((s.setSel { s.sel with phase := some i }).disturb).dropLoopStep).notifyAll
      (s.notice .refSwitched 0 p.val i.val)).phaseSwitched := by
  unfold State.changePhase
  rw [if_neg (by rw [hp]; exact fun h => hip (Option.some.inj h).symm), hp]
  rfl

/-- The switch is reported to every port, and disturbs the minute (R65, R87). -/
theorem changePhase_reported {s : State} {i p : Slot} (hp : s.sel.phase = some p) (hip : i ≠ p) :
    SwitchReported s [s.notice .refSwitched 0 p.val i.val] (s.changePhase (some i)) := by
  have begun : SwitchReported s [] (s.setSel { s.sel with phase := some i }).disturb :=
    { ports := rfl
      handed := fun q => ⟨[], rfl, by rw [State.hands, ite_self]; rfl⟩
      disturbed := rfl }
  rw [changePhase_of_switch hp hip]
  exact (begun.dropLoopStep.notifyAll_switch rfl).phaseSwitched

theorem dropLoopStep_state (s : State) : s.dropLoopStep.tb.state = s.tb.state := by
  unfold State.dropLoopStep
  split
  · split <;> rfl
  · rfl

theorem dropLoopStep_loop (s : State) : s.dropLoopStep.loop = s.loop :=
  same_of_frame (fs := [.tb]) (by simp) .loop

/-- A switch in LOCKED reacquires at grade LOCK, the loop class kept (R9, R83). -/
theorem changePhase_of_locked {s : State} {i p : Slot} (hp : s.sel.phase = some p) (hip : i ≠ p)
    (hl : s.tb.state = .locked) :
    (s.changePhase (some i)).tb.state = .acquiring ∧ (s.changePhase (some i)).tb.heldGrade = some .lock ∧
      (s.changePhase (some i)).loop.cls = s.loop.cls := by
  have locked : ((((s.setSel { s.sel with phase := some i }).disturb).dropLoopStep).notifyAll
      (s.notice .refSwitched 0 p.val i.val)).tb.state = .locked := by
    rw [notifyAll_tb, dropLoopStep_state]
    exact hl
  obtain ⟨loop, tb⟩ := reacquire_of_locked locked
  rw [changePhase_of_switch hp hip, State.phaseSwitched, if_pos locked, loop, tb, notifyAll_loop, dropLoopStep_loop]
  exact ⟨rfl, rfl, rfl⟩

/-- In ACQUIRING no report of the assist reference moves anything (R11). -/
theorem assistReports_of_acquiring {s : State} (h : s.tb.state = .acquiring) :
    s.assistAppeared = s ∧ s.assistChanged = s ∧ s.assistLost = s := by
  simp [State.assistAppeared, State.freerunTests, State.assistChanged, State.assistLost, h]

theorem changeAssist_of_acquiring {s : State} (h : s.tb.state = .acquiring) (new : Option Slot) :
    (s.changeAssist new).tb = s.tb ∧ (s.changeAssist new).loop = s.loop := by
  unfold State.changeAssist
  split
  · exact ⟨rfl, rfl⟩
  · have told : ((s.setSel { s.sel with assist := new }).notifyAll
        (s.notice .refSwitched 1 (slotCode s.sel.assist) (slotCode new))).tb.state = .acquiring := by
      rw [notifyAll_tb]
      exact h
    obtain ⟨appeared, changed, lost⟩ := assistReports_of_acquiring told
    dsimp only
    split
    · rw [appeared, notifyAll_tb, notifyAll_loop]
      exact ⟨rfl, rfl⟩
    · rw [changed, notifyAll_tb, notifyAll_loop]
      exact ⟨rfl, rfl⟩
    · rw [lost, notifyAll_tb, notifyAll_loop]
      exact ⟨rfl, rfl⟩
    · rw [notifyAll_tb, notifyAll_loop]
      exact ⟨rfl, rfl⟩

theorem changePhase_counter (s : State) (new : Option Slot) : (s.changePhase new).counter = s.counter :=
  same_of_frame (fs := [.tb, .loop, .hold, .sel, .views]) (by simp) .counter

/-- A re-evaluation that chooses another phase reference: the two changes in their order (R58). -/
theorem reevaluate_of_choice {s : State} {i : Slot} (choice : s.refreshCandidates.choosePhase = some i) :
    s.reevaluate = (s.refreshCandidates.changePhase (some i)).changeAssist
      (s.refreshCandidates.changePhase (some i)).chooseAssist := by
  rw [State.reevaluate, choice]

theorem reevaluate_switched_sel {s : State} {i : Slot} (choice : s.refreshCandidates.choosePhase = some i) :
    s.reevaluate.sel.phase = some i ∧ s.reevaluate.sel.mode = s.sel.mode := by
  obtain ⟨a, sel⟩ := reevaluate_sel s
  rw [sel, choice]
  exact ⟨rfl, rfl⟩

section
variable {s : State} {i p : Slot} (hp : s.sel.phase = some p) (hip : i ≠ p)
  (choice : s.refreshCandidates.choosePhase = some i)
include hp hip choice

/-- The notices of the switch, and of a change of the assist reference after it (R65, R167). -/
theorem reevaluate_reported : SwitchReported s
    (s.notice .refSwitched 0 p.val i.val :: s.assistNotices s.reevaluate.sel.assist) s.reevaluate := by
  have switched : SwitchReported s.refreshCandidates [s.notice .refSwitched 0 p.val i.val]
      (s.refreshCandidates.changePhase (some i)) := changePhase_reported (s := s.refreshCandidates) hp hip
  have assist_sel : (s.refreshCandidates.changePhase (some i)).sel.assist = s.sel.assist := by
    rw [changePhase_sel]
    rfl
  have counter : (s.refreshCandidates.changePhase (some i)).counter = s.counter := changePhase_counter _ _
  have same_notices (new : Option Slot) :
      (s.refreshCandidates.changePhase (some i)).assistNotices new = s.assistNotices new := by
    unfold State.assistNotices State.notice
    rw [assist_sel, counter]
  have reported := switched.changeAssist (s.refreshCandidates.changePhase (some i)).chooseAssist
  rw [same_notices] at reported
  rw [reevaluate_of_choice choice, changeAssist_sel]
  exact reported.of_start rfl rfl

/-- In LOCKED the switch takes the timebase to ACQUIRING (R9). -/
theorem reevaluate_switched_locked (hl : s.tb.state = .locked) :
    s.reevaluate.tb.state = .acquiring ∧ s.reevaluate.tb.heldGrade = some .lock ∧
      s.reevaluate.loop.cls = s.loop.cls := by
  obtain ⟨state, grade, cls⟩ := changePhase_of_locked (s := s.refreshCandidates) hp hip hl
  obtain ⟨tb, loop⟩ := changeAssist_of_acquiring state (s.refreshCandidates.changePhase (some i)).chooseAssist
  rw [reevaluate_of_choice choice, tb, loop]
  exact ⟨state, grade, cls⟩

end

theorem State.waitsToReplace_of_first {s : State} {i p : Slot} (hm : s.sel.mode = .revertive) (hf : s.sel.force = none)
    (hp : s.sel.phase = some p) (hcp : s.phaseCandidate p = true) (hci : s.phaseCandidate i = true)
    (hr : s.ranksBefore i p = true) : s.waitsToReplace i = true := by
  simp [State.waitsToReplace, hm, hf, hp, hcp, hci, hr]

/-- The best candidate, its wait over, becomes the selection, with its reports (R60, R65). -/
theorem revertiveWaitExpiry_switches {i p : Slot} {s : State} {d : Nat} (hm : s.sel.mode = .revertive)
    (hf : s.sel.force = none) (hp : s.sel.phase = some p) (hcp : s.phaseCandidate p = true)
    (hci : s.phaseCandidate i = true) (hd : (s.refs[i]).candidateSince = some d) (hip : i ≠ p)
    (first : ∀ j : Slot, s.phaseCandidate j = true → j ≠ i → s.ranksBefore i j = true) :
    ∃ t, exec (.revertiveWaitExpiry i) s = .next t ∧ t.osc.now = max s.osc.now (d + s.sel.wtr * 1000000000) ∧
      t.sel.phase = some i ∧ t.sel.mode = .revertive ∧
      SwitchReported s (s.notice .refSwitched 0 p.val i.val :: s.assistNotices t.sel.assist) t ∧
      (s.tb.state = .locked → t.tb.state = .acquiring ∧ t.tb.heldGrade = some .lock ∧ t.loop.cls = s.loop.cls) := by
  refine ⟨_, exec_revertiveWaitExpiry hd
    (State.waitsToReplace_of_first hm hf hp hcp hci (first p hcp hip.symm)), ?_⟩
  have now : (s.reachMonitor (d + s.sel.wtr * 1000000000)).osc.now = max s.osc.now (d + s.sel.wtr * 1000000000) :=
    State.reachMonitor_now ..
  have same_start : OnlyChanges [.osc] s (s.reachMonitor (d + s.sel.wtr * 1000000000)) := by simp
  have refs := reachMonitor_refs s (d + s.sel.wtr * 1000000000)
  generalize s.reachMonitor (d + s.sel.wtr * 1000000000) = u at now same_start refs ⊢
  have sel : u.sel = s.sel := same_of_frame same_start .sel
  have candidates (j : Slot) : u.phaseCandidate j = s.phaseCandidate j := by
    unfold State.phaseCandidate
    rw [refs]
  have ranks (j : Slot) : u.ranksBefore i j = s.ranksBefore i j := by
    unfold State.ranksBefore
    rw [refs]
  have choice : u.refreshCandidates.choosePhase = some i := by
    refine refreshCandidates_choosePhase (p := p) (d := d) ?_ ?_ ?_ ?_ ?_ ?_ ?_ hip fun j hj hji => ?_
    · rwa [sel]
    · rwa [sel]
    · rwa [sel]
    · rwa [candidates]
    · rwa [candidates]
    · rwa [refs]
    · rw [sel, now]
      exact Nat.le_max_right ..
    · rw [candidates] at hj
      rw [ranks]
      exact first j hj hji
  have hup : u.sel.phase = some p := by rwa [sel]
  obtain ⟨phase, mode⟩ := reevaluate_switched_sel choice
  have reported := ((reevaluate_reported hup hip choice).syncAlarms).of_start
    (same_of_frame same_start .ports) (same_of_frame same_start .views)
  have counter : u.counter = s.counter := same_of_frame same_start .counter
  rw [syncAlarms_osc, syncAlarms_sel, syncAlarms_tb, syncAlarms_loop, reevaluate_osc]
  refine ⟨now, phase, by rw [mode, sel, hm], ?_, fun hl => ?_⟩
  · simpa only [State.notice, State.assistNotices, counter, sel] using reported
  · have tb : u.tb = s.tb := same_of_frame same_start .tb
    have loop : u.loop = s.loop := same_of_frame same_start .loop
    rw [← loop]
    exact reevaluate_switched_locked hup hip choice (by rwa [tb])

end Sys2Proof.Machine
end

section
/-! The timers of the records (R53, R54, R60). -/

namespace Sys2Proof.Machine

/-- Settles O32: the three timers, the last of them with its reports. -/
theorem recordTimersRunOut : Obligations.RecordTimersRunOut := by
  refine ⟨fun i s d => holdoffExpiry_toQualifying, fun i s d => qualifiedHour_clearsStep,
    fun i p s d hm hf hp hcp hci hd hip first => ?_⟩
  obtain ⟨t, next, now, phase, mode, reported, locked⟩ :=
    revertiveWaitExpiry_switches hm hf hp hcp hci hd hip first
  exact ⟨t, next, now, phase, mode, fun x => reported.given x, locked, reported.disturbed⟩

end Sys2Proof.Machine
end

section
/-! The counter minute boundary (R3, R78, R88): the descent, the record of the minute that closes, and the second
boundary at which it stands, with no edge held and no step due. -/

namespace Sys2Proof.Machine
open ReferenceInputs

/-! ### Descent (R78) -/

section
variable {s : State}

/-- After a minute that was held the class rises by one, and the minute that opens is marked (R78, R87). -/
theorem descend_of_held (hm : s.loop.minuteHeld = true) (hc : s.loop.cls < s.lp.trackingClass) :
    s.descend = (s.setLoop
      { s.loop with cls := s.loop.cls + 1, minuteHeld := decide (s.tb.state = .locked) }).disturbNext := by
  simp only [State.descend, hm, hc, decide_true, Bool.and_self, if_true]
  rfl

/-- Otherwise, or at the tracking class, the class stays. -/
theorem descend_of_steady (h : s.loop.minuteHeld = false ∨ s.lp.trackingClass ≤ s.loop.cls) :
    s.descend = s.setLoop { s.loop with minuteHeld := decide (s.tb.state = .locked) } := by
  have hno : (s.loop.minuteHeld && decide (s.loop.cls < s.lp.trackingClass)) = false := by
    rcases h with h | h
    · rw [h, Bool.false_and]
    · rw [decide_eq_false (by omega), Bool.and_false]
  rw [State.descend, hno]
  rfl

end

/-- The flag of the minute that opens follows the timebase (R78). -/
theorem descend_minuteHeld (s : State) : s.descend.loop.minuteHeld = decide (s.tb.state = .locked) := by
  unfold State.descend
  split <;> rfl

/-- The descent leaves the holdover unit as it was but for the carried mark (R87). -/
theorem descend_hold (s : State) :
    s.descend.hold = { s.hold with acc := { s.hold.acc with carried := s.descend.hold.acc.carried } } := by
  unfold State.descend
  split <;> rfl

theorem descend_frame (s : State) : OnlyChanges [.loop, .hold] s s.descend := by simp

/-! ### The minute closed (R88) -/

section
variable {h : Holdover} {index : Int}

/-- A minute that stayed LOCKED and is newer than the newest record appends its own (R88). -/
theorem closeMinute_records (hl : h.acc.locked = true) (hn : newerThanAll h.history index = true)
    (hc : 1 ≤ h.acc.count) (slot : Nat) (lockedNow : Bool) :
    (h.closeMinute index slot lockedNow).history =
      (h.history ++ [h.acc.toRecord index slot]).drop (h.history.length + 1 - 64) := by
  simp only [Holdover.closeMinute, hl, hn, hc, decide_true, Bool.and_self, if_true]
  rfl

/-- Any other minute makes no record (R88). -/
theorem closeMinute_history (hno : h.acc.locked = false ∨ newerThanAll h.history index = false) (slot : Nat)
    (lockedNow : Bool) : (h.closeMinute index slot lockedNow).history = h.history := by
  rcases hno with hno | hno <;> simp [Holdover.closeMinute, hno]

end

/-- The holdover unit with one more sample in its minute (R87). -/
def Holdover.sampled (h : Holdover) (y : Int) (cls : Nat) : Holdover := { h with acc := h.acc.sample y cls }

theorem sampleSecond_hold (s : State) : s.sampleSecond.hold = s.hold.sampled s.loop.y s.loop.cls := rfl

section
variable (s : State)

@[simp] theorem episodeMinute_history : s.episodeMinute.hold.history = s.hold.history := by
  unfold State.episodeMinute
  repeat' split
  all_goals rfl

@[simp] theorem episodeMinute_acc : s.episodeMinute.hold.acc = s.hold.acc := by
  unfold State.episodeMinute
  repeat' split
  all_goals rfl

@[simp] theorem episodeMinute_loop : s.episodeMinute.loop = s.loop :=
  same_of_frame (State.episodeMinute_only [.tb, .hold] s s (by decide) (by decide) |>.mpr (OnlyChanges.refl _ s)) .loop

@[simp] theorem episodeMinute_pendingStep : s.episodeMinute.tb.pendingStep = s.tb.pendingStep := by
  unfold State.episodeMinute
  repeat' split
  all_goals rfl

theorem regrade_frame : OnlyChanges [.tb, .views] s s.regrade := by simp

@[simp] theorem regrade_hold : s.regrade.hold = s.hold := same_of_frame (regrade_frame s) .hold

/-! ### The minute boundary (R3) -/

theorem minuteBoundary_loop : s.minuteBoundary.loop = s.descend.loop := by
  rw [State.minuteBoundary, regrade_loop, episodeMinute_loop]
  rfl

/-- The history after the boundary is the one that the close of the minute leaves. -/
theorem minuteBoundary_history : s.minuteBoundary.hold.history =
    (s.hold.closeMinute s.tb.minuteIndex (slotCode s.sel.phase) (s.tb.state = .locked)).history := by
  have tb : s.descend.tb = s.tb := same_of_frame (descend_frame s) .tb
  have sel : s.descend.sel = s.sel := same_of_frame (descend_frame s) .sel
  rw [State.minuteBoundary, regrade_hold, episodeMinute_history, State.closeMinute, State.setTb_hold,
    State.setHold_hold, tb, sel, descend_hold]
  rfl

/-- The accumulator opens empty, with the mark that the descent leaves carried (R87). -/
theorem minuteBoundary_acc : s.minuteBoundary.hold.acc =
    { s.hold.acc with
      locked := decide (s.tb.state = .locked), sum := 0, count := 0, least := none, greatest := none
      disturbed := s.descend.hold.acc.carried, carried := false } := by
  have tb : s.descend.tb = s.tb := same_of_frame (descend_frame s) .tb
  rw [State.minuteBoundary, regrade_hold, episodeMinute_acc, State.closeMinute, State.setTb_hold,
    State.setHold_hold, tb, descend_hold]
  rfl

theorem minuteBoundary_pendingStep : s.minuteBoundary.tb.pendingStep = s.tb.pendingStep := by
  rw [State.minuteBoundary, regrade_pendingStep, episodeMinute_pendingStep]
  show s.descend.tb.pendingStep = s.tb.pendingStep
  rw [same_of_frame (descend_frame s) .tb]

end

/-! ### A second boundary with no edge held and no step due (R1, R3) -/

section
variable {s : State} {next : Nat}

/-- A minute closes at a second that is a whole minute (R3). -/
theorem sampleAndMinute_minute (h : s.counter.sec % 60 = 0) : s.sampleAndMinute = s.sampleSecond.minuteBoundary :=
  if_pos h

theorem sampleAndMinute_frame (s : State) : OnlyChanges [.tb, .loop, .hold, .views] s s.sampleAndMinute := by simp

theorem sampleAndMinute_atBoundary (h : AtBoundary next s) : AtBoundary next s.sampleAndMinute := by
  refine h.of_same (same_of_frame (sampleAndMinute_frame s) .counter) ?_
  unfold State.sampleAndMinute
  dsimp only
  split
  · exact minuteBoundary_pendingStep s.sampleSecond
  · rfl

theorem reachSecond_atBoundary (hn : next = (((s.counter.sec : Int) + 1 - s.secondOwed) % 2 ^ 48).toNat)
    (hp : ∀ p ∈ s.tb.pendingStep, p.due ≠ next) : AtBoundary next s.reachSecond :=
  ⟨by rw [reachSecond_counter, hn], by rw [same_of_frame (reachSecond_frame s) .tb]; exact hp⟩

/-- Outside FAULT, a boundary at which no step is due: its work, and the counter runs on (R1, R19). -/
theorem secondBoundary_undue (hf : s.tb.state ≠ .fault)
    (hn : next = (((s.counter.sec : Int) + 1 - s.secondOwed) % 2 ^ 48).toNat)
    (hp : ∀ p ∈ s.tb.pendingStep, p.due ≠ next) :
    s.secondBoundary = (closingsFollowed (closings s.reachSecond.sampleAndMinute)).resume s.overshoot := by
  have hreach := reachSecond_atBoundary hn hp
  rw [State.secondBoundary, if_neg hf, secondWork_eq]
  exact secondEnds_notDue
    (closingsFollowed_atBoundary (closings_atBoundary (sampleAndMinute_atBoundary hreach))) s.overshoot

/-- When neither FQ input holds an edge their closes change no other block (R36). -/
theorem closings_idle (h : ∀ i : InputIx, (s.fq[i]).lastEdge = none) :
    OnlyChanges [.fq, .alarms, .views] s (closings s) := by
  obtain ⟨x, hx⟩ := closeFqSecond_idle (s := s.syncAlarms) (j := 0) (by rw [syncAlarms_fq]; exact h 0)
  obtain ⟨y, hy⟩ := closeFqSecond_idle (s := (s.syncAlarms.setFq 0 x).syncAlarms) (j := 1) (by
    rw [syncAlarms_fq, State.setFq_other _ _ _ _ (by decide), syncAlarms_fq]
    exact h 1)
  rw [closings, hx, hy]
  simp

/-- What follows the sample and the minute at such a boundary leaves the loop and the holdover unit alone. -/
theorem secondBoundary_idle_frame (hf : s.tb.state ≠ .fault) (hi : ∀ i : InputIx, (s.fq[i]).lastEdge = none)
    (hn : next = (((s.counter.sec : Int) + 1 - s.secondOwed) % 2 ^ 48).toNat)
    (hp : ∀ p ∈ s.tb.pendingStep, p.due ≠ next) :
    OnlyChanges [.counter, .secondOwed, .fq, .tb, .entries, .alarms, .views]
      s.reachSecond.sampleAndMinute s.secondBoundary := by
  have hfq : s.reachSecond.sampleAndMinute.fq = s.fq :=
    (same_of_frame (sampleAndMinute_frame s.reachSecond) .fq).trans (same_of_frame (reachSecond_frame s) .fq)
  have hclose := closings_idle (s := s.reachSecond.sampleAndMinute) fun i => by rw [hfq]; exact hi i
  rw [secondBoundary_undue hf hn hp]
  exact ((hclose.mono (by decide)).trans ((closingsFollowed_frame _).mono (by decide))).trans
    ((resume_frame _ _).mono (by decide))

/-- Such a boundary that closes a minute leaves the loop and the holdover unit as the minute boundary after the sample
does (R3, R87). -/
theorem secondBoundary_minute (hf : s.tb.state ≠ .fault) (hi : ∀ i : InputIx, (s.fq[i]).lastEdge = none)
    (hn : next = (((s.counter.sec : Int) + 1 - s.secondOwed) % 2 ^ 48).toNat) (hm : next % 60 = 0)
    (hp : ∀ p ∈ s.tb.pendingStep, p.due ≠ next) :
    s.secondBoundary.hold = s.reachSecond.sampleSecond.minuteBoundary.hold ∧
      s.secondBoundary.loop = s.reachSecond.sampleSecond.minuteBoundary.loop := by
  have hsec : s.reachSecond.counter.sec = next := by rw [reachSecond_counter, hn]
  rw [← sampleAndMinute_minute (s := s.reachSecond) (by rw [hsec]; exact hm)]
  have frame := secondBoundary_idle_frame hf hi hn hp
  exact ⟨same_of_frame frame .hold, same_of_frame frame .loop⟩

end

theorem syncAlarms_hold (s : State) : s.syncAlarms.hold = s.hold := same_of_frame (syncAlarms_frame s) .hold

/-- Settles O15: at such a boundary the state is the sampled one with its minute closed; the record by whether the
minute may have one, the class by whether it was held. -/
theorem minuteBoundaryMakesRecord : Obligations.MinuteBoundaryMakesRecord := by
  unfold Obligations.MinuteBoundaryMakesRecord
  intro s next hn hm hf hi hp
  obtain ⟨hhold, hloop⟩ := secondBoundary_minute hf hi hn hm hp
  have reach := reachSecond_frame s
  have tb : s.reachSecond.sampleSecond.tb = s.tb := same_of_frame reach .tb
  have loop : s.reachSecond.sampleSecond.loop = s.loop := same_of_frame reach .loop
  have lp : s.reachSecond.sampleSecond.lp = s.lp := same_of_frame reach .lp
  have sel : s.reachSecond.sampleSecond.sel = s.sel := same_of_frame reach .sel
  have hold : s.reachSecond.sampleSecond.hold = s.hold.sampled s.loop.y s.loop.cls := by
    rw [sampleSecond_hold, same_of_frame reach .hold, same_of_frame reach .loop]
  refine ⟨s.secondBoundary.syncAlarms, rfl, ?_⟩
  rw [syncAlarms_hold, syncAlarms_loop, hhold, hloop, minuteBoundary_history, minuteBoundary_acc, minuteBoundary_loop,
    tb, sel, hold]
  refine ⟨fun hl hnew => ⟨_, closeMinute_records (h := s.hold.sampled s.loop.y s.loop.cls) hl hnew
      (Nat.le_add_left 1 _) _ _, rfl, rfl, rfl, rfl, rfl, rfl, rfl⟩,
    fun hno => closeMinute_history (h := s.hold.sampled s.loop.y s.loop.cls) hno _ _,
    rfl, rfl, rfl, rfl, rfl, rfl, ?_, fun hheld hcls => ?_, fun hsteady => ?_⟩
  · rw [descend_minuteHeld, tb]
  · rw [descend_of_held (by rw [loop]; exact hheld) (by rw [loop, lp]; exact hcls), loop]
    exact ⟨rfl, rfl⟩
  · rw [descend_of_steady (by rw [loop, lp]; exact hsteady), loop, State.setLoop_hold, hold]
    exact ⟨rfl, rfl⟩

end Sys2Proof.Machine
end

section
/-! LOOP_SET (R72, R84, R103): the parts of its body, the parameters that it makes stand, and how they take hold of the
loop, the steer value and the grade. -/

namespace Sys2Proof.Machine
open ReferenceInputs

/-! ### The parts of a body (R189) -/

/-- Without its first part, the rest of those taken. -/
theorem takeParts_absent {spec : PartSpec} {more : List (PartSpec × Bool)} {b rest : List Byte}
    {vs : List (Option (List Int))} (h : takeParts ((spec, false) :: more) b = some (vs, rest)) :
    ∃ vs', takeParts more b = some (vs', rest) ∧ vs = none :: vs' := by
  simp only [takeParts, Bool.false_eq_true, if_false] at h
  split at h
  · cases h
  · split at h
    · cases h
    · next vs' _ hm =>
      cases h
      exact ⟨vs', hm, rfl⟩

/-- The value of an unsigned part is not negative. -/
theorem takeParts_unsigned {parts : List (PartSpec × Bool)} {b rest : List Byte} {vs : List (Option (List Int))}
    (h : takeParts parts b = some (vs, rest)) {i k : Nat} (hi : (parts.map (·.1.form))[i]? = some (.value k false))
    {c : Int} (hc : partValue vs i = some c) : 0 ≤ c := by
  induction parts generalizing b vs i with
  | nil => simp at hi
  | cons part more ih =>
    obtain ⟨spec, present⟩ := part
    cases present with
    | false =>
      obtain ⟨vs', hmore, rfl⟩ := takeParts_absent h
      cases i with
      | zero => cases hc
      | succ i => exact ih hmore hi hc
    | true =>
      obtain ⟨v, b', vs', hv, hmore, rfl⟩ := takeParts_present h
      cases i with
      | zero =>
        have hform : spec.form = .value k false := Option.some.inj hi
        rw [hform] at hv
        obtain ⟨n, rfl⟩ := takeValues_unsigned hv
        obtain rfl : (n : Int) = c := Option.some.inj hc
        exact Int.natCast_nonneg n
      | succ i => exact ih hmore hi hc

/-- A body that parses is its parts taken one after another, each present or not. -/
theorem parseBody_takeParts {parts : List PartSpec} {body : List Byte} {vs : List (Option (List Int))}
    (h : parseBody parts body = some vs) :
    ∃ marked b, marked.map Prod.fst = parts ∧ takeParts marked b = some (vs, []) := by
  unfold parseBody at h
  split at h
  · next ws hfront =>
    cases h
    unfold parseFront at hfront
    split at hfront
    · exact ⟨_, _, by simp [Function.comp_def], hfront⟩
    · split at hfront
      · cases hfront
      · exact ⟨_, _, List.ext_getElem (by simp) (by simp), hfront⟩
  · cases h

/-- The value of an unsigned part of a body is not negative. -/
theorem parseBody_unsigned {parts : List PartSpec} {body : List Byte} {vs : List (Option (List Int))}
    (h : parseBody parts body = some vs) {i k : Nat} (hi : (parts.map (·.form))[i]? = some (.value k false)) {c : Int}
    (hc : partValue vs i = some c) : 0 ≤ c := by
  obtain ⟨marked, b, rfl, htake⟩ := parseBody_takeParts h
  exact takeParts_unsigned htake (by rw [← hi, List.map_map]; rfl) hc

/-- The classes that a LOOP_SET carries are not negative. -/
theorem parseLoopSet_classes {b : List Byte} {v : LoopSetParts} (h : parseLoopSet b = some v) :
    (∀ c, v.tracking = some c → 0 ≤ c) ∧ ∀ c, v.assist = some c → 0 ≤ c := by
  simp only [parseLoopSet, Option.map_eq_some_iff] at h
  obtain ⟨vs, hvs, rfl⟩ := h
  exact ⟨fun c hc => parseBody_unsigned hvs (i := 0) rfl hc, fun c hc => parseBody_unsigned hvs (i := 1) rfl hc⟩

/-! ### The parameters that stand (R84, R103) -/

/-- A class that is carried is held to 6, and one that is not stays (R84). -/
theorem heldClass_part {o : Option Int} (h : ∀ c, o = some c → 0 ≤ c) (current : Nat) :
    (∀ c, o = some c → (heldClass o current : Int) = min 6 c) ∧ (o = none → heldClass o current = current) := by
  refine ⟨fun c hc => ?_, fun hn => by rw [hn]; rfl⟩
  have hpos := h c hc
  rw [hc, heldClass]
  omega

/-- A count in a range that starts at 0 or above is taken as carried. -/
theorem natPart_eq_getD {lo hi : Int} {o : Option Int} (h : optInRange lo hi o = true) (hlo : 0 ≤ lo) (current : Nat) :
    (natPart o current : Int) = o.getD current := by
  cases o with
  | none => rfl
  | some c =>
    simp only [optInRange, Option.all_some, inRange, Bool.and_eq_true, decide_eq_true_eq] at h
    simp only [natPart, Option.getD_some]
    omega

theorem stepPolicy_code_part {o : Option Int} (h : optInRange 0 2 o = true) (current : StepPolicy) :
    (((o.bind StepPolicy.ofCode).getD current).code : Int) = o.getD current.code := by
  cases o with
  | none => rfl
  | some c =>
    simp only [optInRange, Option.all_some, inRange, Bool.and_eq_true, decide_eq_true_eq] at h
    obtain rfl | rfl | rfl : c = 0 ∨ c = 1 ∨ c = 2 := by omega
    all_goals rfl

theorem switch_part {o : Option Int} (h : optInRange 0 1 o = true) (current : Bool) :
    (o.bind switchOfCode).getD current = true ↔ o = some 1 ∨ o = none ∧ current = true := by
  cases o with
  | none => simp
  | some c =>
    simp only [optInRange, Option.all_some, inRange, Bool.and_eq_true, decide_eq_true_eq] at h
    obtain rfl | rfl : c = 0 ∨ c = 1 := by omega
    · simp [switchOfCode]
    · simp [switchOfCode]

/-- The ranges of the parts that are read as counts or as codes (R71, R103). -/
structure LoopSetParts.CountsInRange (v : LoopSetParts) : Prop where
  stepPolicy : optInRange 0 2 v.stepPolicy = true
  lockThreshold : optInRange 10 10000 v.lockThreshold = true
  lossThreshold : optInRange 100 1000000 v.lossThreshold = true
  guardRecords : optInRange 0 8 v.guardRecords = true
  recordCount : optInRange 2 64 v.recordCount = true
  drift : optInRange 0 1 v.drift = true
  lockNoise : optInRange 1 100000 v.lockNoise = true
  t1 : optInRange 1 10000000 v.t1 = true
  t2 : optInRange 1 10000000 v.t2 = true
  t3 : optInRange 1 10000000 v.t3 = true

theorem LoopSetParts.countsInRange {v : LoopSetParts} (h : v.bad = false) : v.CountsInRange := by
  simp only [LoopSetParts.bad, Bool.not_eq_false', Bool.and_eq_true, and_assoc] at h
  obtain ⟨-, -, stepPolicy, lockThreshold, lossThreshold, guardRecords, recordCount, -, drift, -, lockNoise, -, -, t1,
    t2, t3⟩ := h
  exact { stepPolicy, lockThreshold, lossThreshold, guardRecords, recordCount, drift, lockNoise, t1, t2, t3 }

/-- A class above 6 makes the reply CLAMPED (R84). -/
theorem LoopSetParts.clamped_iff (v : LoopSetParts) :
    v.clamped = true ↔ (∃ c, v.tracking = some c ∧ 6 < c) ∨ ∃ c, v.assist = some c ∧ 6 < c := by
  simp [LoopSetParts.clamped, Option.any_eq_true]

/-! ### Ymax takes hold (R72) -/

/-- A bound that is no lower moves nothing that it bounds. -/
theorem lowerYMax_of_le {s : State} (h : s.steerBounded) {y : Int} (hy : s.lp.yMax ≤ y) : s.lowerYMax y = s := by
  obtain ⟨-, hsteer, hloop, hinteg⟩ := h
  unfold within at hsteer hloop hinteg
  have steer : clampTo y s.tb.steer = s.tb.steer := clampTo_eq _ _ (by unfold within; omega)
  have loop : clampTo y s.loop.y = s.loop.y := clampTo_eq _ _ (by unfold within; omega)
  have integ : clampTo (y * 65536) s.loop.integ = s.loop.integ := clampTo_eq _ _ (by unfold within; omega)
  rw [State.lowerYMax, steer, loop, integ]
  rfl

/-- The state with Ymax taken hold and the parameters in their place, before what follows from them. -/
def State.withLoopParts (s : State) (v : LoopSetParts) : State :=
  { s.lowerYMax (v.yMax.getD s.lp.yMax) with lp := v.loopParams s.lp, hp := v.holdParams s.hp }

/-- The bounds that hold before make the effects the same whether Ymax is lowered or not (R72, R84). -/
theorem setLoopParts_eq {s : State} (h : s.steerBounded) (v : LoopSetParts) :
    s.setLoopParts v = (s.withLoopParts v).freeSteer.fallToTracking.regrade := by
  have lowered : (if v.yMax.any (· < s.lp.yMax) then s.lowerYMax (v.yMax.getD s.lp.yMax) else s) =
      s.lowerYMax (v.yMax.getD s.lp.yMax) := by
    split
    · rfl
    · next hno =>
      refine (lowerYMax_of_le h ?_).symm
      cases hv : v.yMax with
      | none => exact le_rfl
      | some y =>
        rw [hv, Option.any_some, decide_eq_true_eq] at hno
        exact Int.not_lt.mp hno
  rw [State.setLoopParts, lowered]
  rfl

/-! ### What follows from the parameters (R72, R77, R99) -/

section
variable (s : State)

theorem freeSteer_frame : OnlyChanges [.tb] s s.freeSteer := by simp

/-- In WARMUP and FREERUN the steer value is y_free held to Ymax, in the other states it stays (R72). -/
theorem freeSteer_tb : s.freeSteer.tb = { s.tb with
    steer := if s.tb.state = .warmup ∨ s.tb.state = .freerun then clampTo s.lp.yMax s.tb.yFree else s.tb.steer } := by
  unfold State.freeSteer
  split <;> rfl

theorem fallToTracking_frame : OnlyChanges [.loop, .hold] s s.fallToTracking := by simp

/-- The loop class falls to the tracking class, and the rest of the loop stays (R77). -/
theorem fallToTracking_loop :
    s.fallToTracking.loop = { s.loop with cls := min s.loop.cls s.lp.trackingClass } := by
  unfold State.fallToTracking
  split
  · next h =>
    rw [State.setClass, if_neg (by omega), Nat.min_eq_right (by omega)]
    rfl
  · next h => rw [Nat.min_eq_left (by omega)]

/-- A fall of the class marks the minute (R77). -/
theorem fallToTracking_disturbed {s : State} (h : s.lp.trackingClass < s.loop.cls) :
    s.fallToTracking.hold.acc.disturbed = true := by
  rw [State.fallToTracking, if_pos h, State.setClass, if_neg (by omega)]
  rfl

theorem fallToTracking_episode : s.fallToTracking.hold.episode = s.hold.episode := by
  unfold State.fallToTracking State.setClass
  repeat' split
  all_goals rfl

end

/-- A traced episode is graded by its estimate and the thresholds (R99). -/
theorem gradeOf_traced {s : State} {e : EpisodeRecord} (hs : s.tb.state = .holdover ∨ s.tb.state = .assisted)
    (ht : s.tb.episode = some .traced) (he : s.hold.episode = some e) : s.gradeOf = s.hp.gradeOf e.hee := by
  rcases hs with hs | hs <;> simp [State.gradeOf, Holdover.estimate, hs, ht, he]

/-! ### The request (R84) -/

section
variable (s : State)

@[simp] theorem syncAlarms_lp : s.syncAlarms.lp = s.lp := same_of_frame (syncAlarms_frame s) .lp
@[simp] theorem syncAlarms_hp : s.syncAlarms.hp = s.hp := same_of_frame (syncAlarms_frame s) .hp

variable (p : Port) (r : Request) (st : Status) (body : List Byte)

@[simp] theorem reply_lp : (s.reply p r st body).lp = s.lp := rfl
@[simp] theorem reply_hp : (s.reply p r st body).hp = s.hp := rfl
@[simp] theorem reply_hold : (s.reply p r st body).hold = s.hold := rfl

end

/-- A LOOP_SET of the holder, in range and with its thresholds in order, is accepted. -/
theorem exec_loopSet {s : State} {p : Port} {r : Request} {q : PortRec} {v : LoopSetParts} (h : s.ready p 48 r q)
    (hv : parseLoopSet r.body = some v) (hh : s.holder = some p) (hb : v.bad = false)
    (ht : thresholdsOk (v.loopParams s.lp) (v.holdParams s.hp) = true) :
    exec (.loopSet p) s = .next (((s.setPort p q).setLoopParts v).syncAlarms.reply p r
      (if v.clamped then .clamped else .done) []) := by
  have hf : setLoopRequest p r.body (s.setPort p q) =
      .accept (if v.clamped then .clamped else .done) [] ((s.setPort p q).setLoopParts v).syncAlarms := by
    rw [setLoopRequest, hv, parsed_some, notHolder_of_holder (s := s.setPort p q) hh, hb, refuseIf_false,
      refuseIf_false, State.setPort_lp, State.setPort_hp, ht]
    rfl
  show Host.Outcome.next (s.answer p 48 (setLoopRequest p)) = _
  rw [answer_accepted h hf]

theorem setLoopParts_frame (s : State) (v : LoopSetParts) :
    OnlyChanges [.lp, .hp, .tb, .loop, .hold, .views] s (s.setLoopParts v) := by simp

/-- The effects of a LOOP_SET leave the ports to its reply (R178). -/
theorem loopSet_answered (s : State) (p : Port) (r : Request) (q : PortRec) (v : LoopSetParts) (st : Status) :
    s.answered (((s.setPort p q).setLoopParts v).syncAlarms.reply p r st []) p r q st [] := by
  refine answered_reply st [] ?_
  rw [syncAlarms_ports]
  exact same_of_frame (setLoopParts_frame _ v) .ports

theorem loopSet_only (s : State) (p : Port) (r : Request) (q : PortRec) (v : LoopSetParts) (st : Status) :
    OnlyChanges (touches (.loopSet p)) s (((s.setPort p q).setLoopParts v).syncAlarms.reply p r st []) := by
  simp [touches]

section
variable {s : State} (h : s.steerBounded) (v : LoopSetParts)
include h

/-- The loop after a LOOP_SET: steer value and integrator held to Ymax, the class to the tracking class (R72, R77). -/
theorem setLoopParts_loop : (s.setLoopParts v).loop = { s.loop with
    y := clampTo (v.yMax.getD s.lp.yMax) s.loop.y
    integ := clampTo (v.yMax.getD s.lp.yMax * 65536) s.loop.integ
    cls := min s.loop.cls (v.loopParams s.lp).trackingClass } := by
  rw [setLoopParts_eq h, regrade_loop, fallToTracking_loop, same_of_frame (freeSteer_frame _) .loop,
    same_of_frame (freeSteer_frame _) .lp]
  rfl

/-- The timebase after a LOOP_SET: the steer value and the grade are formed again (R72, R99). -/
theorem setLoopParts_tb : ∃ grade, (s.setLoopParts v).tb = { s.tb with
    grade := grade
    steer := if s.tb.state = .warmup ∨ s.tb.state = .freerun then clampTo (v.yMax.getD s.lp.yMax) s.tb.yFree
      else clampTo (v.yMax.getD s.lp.yMax) s.tb.steer } := by
  rw [setLoopParts_eq h, regrade_tb, same_of_frame (fallToTracking_frame _) .tb, freeSteer_tb]
  exact ⟨_, rfl⟩

/-- The parameters that stand after a LOOP_SET (R84, R103). -/
theorem setLoopParts_params :
    (s.setLoopParts v).lp = v.loopParams s.lp ∧ (s.setLoopParts v).hp = v.holdParams s.hp := by
  rw [setLoopParts_eq h, same_of_frame (regrade_frame _) .lp, same_of_frame (regrade_frame _) .hp,
    same_of_frame (fallToTracking_frame _) .lp, same_of_frame (fallToTracking_frame _) .hp,
    same_of_frame (freeSteer_frame _) .lp, same_of_frame (freeSteer_frame _) .hp]
  exact ⟨rfl, rfl⟩

/-- A class that falls marks the minute (R77). -/
theorem setLoopParts_disturbed (hc : (v.loopParams s.lp).trackingClass < s.loop.cls) :
    (s.setLoopParts v).hold.acc.disturbed = true := by
  rw [setLoopParts_eq h, regrade_hold]
  apply fallToTracking_disturbed
  rw [same_of_frame (freeSteer_frame _) .lp, same_of_frame (freeSteer_frame _) .loop]
  exact hc

/-- The new thresholds grade a traced episode again (R99). -/
theorem setLoopParts_grade {e : EpisodeRecord} (hs : s.tb.state = .holdover ∨ s.tb.state = .assisted)
    (ht : s.tb.episode = some .traced) (he : s.hold.episode = some e) :
    (s.setLoopParts v).tb.grade = (v.holdParams s.hp).gradeOf e.hee := by
  have tb : (s.withLoopParts v).freeSteer.fallToTracking.tb = (s.withLoopParts v).freeSteer.tb :=
    same_of_frame (fallToTracking_frame _) .tb
  have episode : (s.withLoopParts v).freeSteer.fallToTracking.hold.episode = some e := by
    rw [fallToTracking_episode, same_of_frame (freeSteer_frame _) .hold]
    exact he
  have hp : (s.withLoopParts v).freeSteer.fallToTracking.hp = v.holdParams s.hp := by
    rw [same_of_frame (fallToTracking_frame _) .hp, same_of_frame (freeSteer_frame _) .hp]
    rfl
  rw [setLoopParts_eq h, regrade_tb, ← hp]
  refine gradeOf_traced ?_ ?_ episode
  · rw [tb, freeSteer_tb]
    exact hs
  · rw [tb, freeSteer_tb]
    exact ht

end

/-- Settles O50: the parameters by their parts, and each effect by its block. -/
theorem loopSetTakesHold : Obligations.LoopSetTakesHold := by
  unfold Obligations.LoopSetTakesHold
  rintro p s r q v lp hp h hv hh hb rfl rfl hlock ht1 ht2 hs
  have ranges := LoopSetParts.countsInRange hb
  obtain ⟨htracking, hassist⟩ := parseLoopSet_classes hv
  have hok : thresholdsOk (v.loopParams s.lp) (v.holdParams s.hp) = true := by
    simp only [thresholdsOk, hlock, ht1, ht2, decide_true, Bool.and_self]
  have bounded : (s.setPort p q).steerBounded := hs
  obtain ⟨lp, hp⟩ := setLoopParts_params bounded v
  obtain ⟨grade, tb⟩ := setLoopParts_tb bounded v
  have loop := setLoopParts_loop bounded v
  have status : (if v.clamped then Status.clamped else .done) =
      if (∃ c, v.tracking = some c ∧ 6 < c) ∨ ∃ c, v.assist = some c ∧ 6 < c then .clamped else .done :=
    if_congr v.clamped_iff rfl rfl
  refine ⟨_, exec_loopSet h hv hh hb hok, status ▸ loopSet_answered s p r q v _, ?_⟩
  rw [reply_lp, syncAlarms_lp, lp, reply_hp, syncAlarms_hp, hp, reply_tb, syncAlarms_tb, reply_loop, syncAlarms_loop,
    loop, reply_hold, syncAlarms_hold]
  refine ⟨rfl, rfl, (heldClass_part htracking _).1, (heldClass_part htracking _).2, (heldClass_part hassist _).1,
    (heldClass_part hassist _).2, rfl, rfl, stepPolicy_code_part ranges.stepPolicy _,
    natPart_eq_getD ranges.lockThreshold (by decide) _, natPart_eq_getD ranges.lossThreshold (by decide) _,
    natPart_eq_getD ranges.guardRecords (by decide) _, natPart_eq_getD ranges.recordCount (by decide) _, rfl,
    switch_part ranges.drift _, rfl, natPart_eq_getD ranges.lockNoise (by decide) _, rfl, rfl,
    natPart_eq_getD ranges.t1 (by decide) _, natPart_eq_getD ranges.t2 (by decide) _,
    natPart_eq_getD ranges.t3 (by decide) _, ?_⟩
  refine ⟨fun e hst htr he => setLoopParts_grade bounded v (e := e) hst htr he, rfl,
    fun hc => ⟨Nat.min_eq_right (Nat.le_of_lt hc), setLoopParts_disturbed bounded v hc⟩, fun hc => Nat.min_eq_left hc,
    rfl, fun hst => ?_, fun hw hfr => ?_, ?_, loopSet_only s p r q v _⟩
  · rw [tb]
    exact if_pos hst
  · rw [tb]
    exact if_neg (not_or_intro hw hfr)
  · rw [tb]
    rfl

end Sys2Proof.Machine
end

section
/-! The frequency history (O7): what the operations of the timebase, the loop, the qualifier and the front end leave of
the two lists of records, the history and the staging list. -/

namespace Sys2Proof.Machine

/-- Every field of State but the holdover unit. -/
def Field.exceptHold : List Field :=
  [.counter, .residue, .secondOwed, .msOwed, .loCycles, .osc, .straps, .tb, .lp, .hp, .loop, .ta, .fq, .ofs, .aligned,
    .refs, .conflicts, .sel, .entries, .profiles, .px, .sched, .drops, .alarms, .views, .ports, .holder, .waitList,
    .pending]

@[simp] theorem Field.mem_exceptHold (f : Field) : f ∈ Field.exceptHold ↔ f ≠ .hold := by
  cases f <;> decide

/-- From one state to the next the history stands, and the staging list stands or is emptied (R93). -/
def KeepsRecords (a s : State) : Prop :=
  s.hold.history = a.hold.history ∧ (s.hold.staging = a.hold.staging ∨ s.hold.staging = [])

namespace KeepsRecords

variable {a s t : State}

theorem refl (s : State) : KeepsRecords s s := ⟨rfl, .inl rfl⟩

/-- Records kept are as many as before and in the same order. -/
theorem ordered (h : KeepsRecords a s) (ha : a.historyOrdered) : s.historyOrdered := by
  obtain ⟨hlength, hrise, hstaged, hstagedRise⟩ := ha
  obtain ⟨history, staging⟩ := h
  unfold State.historyOrdered
  rw [history]
  rcases staging with e | e
  · rw [e]
    exact ⟨hlength, hrise, hstaged, hstagedRise⟩
  · rw [e]
    exact ⟨hlength, hrise, Nat.zero_le _, .nil⟩

/-- What leaves the holdover unit alone keeps its records. -/
theorem frame (h : KeepsRecords a s) (k : OnlyChanges Field.exceptHold s t) : KeepsRecords a t := by
  have same : t.hold = s.hold := k .hold (by decide)
  unfold KeepsRecords
  rwa [same]

/-! ### The holdover unit's own operations -/

theorem disturb (h : KeepsRecords a s) : KeepsRecords a s.disturb := h
theorem disturbNext (h : KeepsRecords a s) : KeepsRecords a s.disturbNext := h
theorem emptyStaging (h : KeepsRecords a s) : KeepsRecords a s.emptyStaging := ⟨h.1, .inr rfl⟩

theorem closeEpisode {c : TbState} (h : KeepsRecords a s) : KeepsRecords a (s.closeEpisode c) := by
  unfold State.closeEpisode
  split
  · split
    · exact h
    · exact h
  · exact h

theorem beginEpisode (h : KeepsRecords a s) : KeepsRecords a s.beginEpisode := by
  unfold State.beginEpisode
  split
  · exact h
  · split
    · exact h
    · exact h

theorem episodeMinute (h : KeepsRecords a s) : KeepsRecords a s.episodeMinute := by
  unfold State.episodeMinute
  split
  · split
    · split
      · exact h
      · exact h
    · exact h
  · exact h

/-! ### States of the timebase left and entered -/

theorem setTbState {x : TbState} (h : KeepsRecords a s) : KeepsRecords a (s.setTbState x) :=
  h.frame (by simp)

theorem regrade (h : KeepsRecords a s) : KeepsRecords a s.regrade := h.frame (by simp)

theorem dropLoopStep (h : KeepsRecords a s) : KeepsRecords a s.dropLoopStep := h.frame (by simp)

theorem loadLoop (h : KeepsRecords a s) : KeepsRecords a s.loadLoop := h.frame (by simp)

theorem leaveState (h : KeepsRecords a s) : KeepsRecords a s.leaveState := by
  unfold State.leaveState
  split
  case h_1 => exact h
  case h_2 => exact .dropLoopStep h
  all_goals exact h

theorem setClass {c : Nat} (h : KeepsRecords a s) : KeepsRecords a (s.setClass c) := by
  unfold State.setClass
  split
  · exact h
  · exact .disturb h

theorem enterFreerun (h : KeepsRecords a s) : KeepsRecords a s.enterFreerun := .regrade (.setTbState h.leaveState)

theorem reacquire (h : KeepsRecords a s) : KeepsRecords a s.reacquire :=
  .regrade (.setTbState (.emptyStaging h.leaveState))

theorem acquire (h : KeepsRecords a s) : KeepsRecords a s.acquire := by
  have emptied : KeepsRecords a ((s.loadLoop.leaveState.closeEpisode .acquiring).setClass 0).emptyStaging :=
    h.loadLoop.leaveState.closeEpisode.setClass.emptyStaging
  exact emptied.frame (by simp [State.acquire])

theorem enterLocked (h : KeepsRecords a s) : KeepsRecords a s.enterLocked := .regrade (.setTbState h.leaveState)

theorem enterAssisted (h : KeepsRecords a s) : KeepsRecords a s.enterAssisted :=
  .regrade (.setTbState h.beginEpisode.loadLoop.leaveState.emptyStaging)

theorem enterHoldover (h : KeepsRecords a s) : KeepsRecords a s.enterHoldover :=
  .regrade (.setTbState h.beginEpisode.leaveState)

/-! ### Reports that move the timebase -/

theorem phaseGone (h : KeepsRecords a s) : KeepsRecords a s.phaseGone := by
  unfold State.phaseGone
  split
  · split
    · exact h.enterAssisted
    · split
      · exact h.enterHoldover
      · exact h.enterFreerun
  · exact h

theorem freerunTests (h : KeepsRecords a s) : KeepsRecords a s.freerunTests := by
  unfold State.freerunTests
  split
  · split
    · exact h.acquire
    · split
      · exact h.enterAssisted
      · exact h
  · exact h

theorem phaseSelected (h : KeepsRecords a s) : KeepsRecords a s.phaseSelected := by
  unfold State.phaseSelected
  split
  · exact h.acquire
  · exact h

theorem phaseSwitched (h : KeepsRecords a s) : KeepsRecords a s.phaseSwitched := by
  unfold State.phaseSwitched
  split
  · exact h.reacquire
  · split
    · exact h
    · exact h

theorem assistAppeared (h : KeepsRecords a s) : KeepsRecords a s.assistAppeared := by
  unfold State.assistAppeared
  split
  · exact h.enterAssisted
  · exact h.freerunTests

theorem assistLost (h : KeepsRecords a s) : KeepsRecords a s.assistLost := by
  unfold State.assistLost
  split
  · exact h.enterHoldover
  · exact h

theorem setForce {on : Bool} (h : KeepsRecords a s) : KeepsRecords a (s.setForce on) := by
  unfold State.setForce
  split
  · exact h
  · split
    · exact .phaseGone (.dropLoopStep h)
    · split
      · exact .phaseSelected h
      · exact h

theorem warmupEnds (h : KeepsRecords a s) : KeepsRecords a s.warmupEnds := .freerunTests (.enterFreerun h)

/-! ### The loop -/

theorem loopUpdate {cls : Nat} {u : Int} (h : KeepsRecords a s) : KeepsRecords a (s.loopUpdate cls u) := by
  unfold State.loopUpdate
  dsimp only
  split
  · exact .disturb h
  · exact h

theorem phaseUpdate {u : Int} (h : KeepsRecords a s) : KeepsRecords a (s.phaseUpdate u) := h.loopUpdate

theorem countLock {u : Int} (h : KeepsRecords a s) : KeepsRecords a (s.countLock u) := by
  unfold State.countLock
  split
  · split
    · exact h.enterLocked
    · exact h
  · exact h

theorem countLoss {u : Int} (h : KeepsRecords a s) : KeepsRecords a (s.countLoss u) := by
  unfold State.countLoss
  split
  · split
    · exact .reacquire h
    · exact h
  · exact h

theorem descend (h : KeepsRecords a s) : KeepsRecords a s.descend := by
  unfold State.descend
  dsimp only
  split
  · exact .disturbNext h
  · exact h

theorem loopUse {good : Bool} {u : Int} (h : KeepsRecords a s) : KeepsRecords a (s.loopUse good u) := by
  unfold State.loopUse
  split
  · exact h
  · split
    · split
      · split
        · exact h
        · exact h.phaseUpdate.countLock
      · exact h
    · split
      · split
        · exact h.phaseUpdate.countLoss
        · exact h
      · exact h

theorem takePhase {m : Measurement} (h : KeepsRecords a s) : KeepsRecords a (s.takePhase m) := by
  unfold State.takePhase
  split
  · exact h
  · exact (h.loopUse (good := m.causes.isEmpty) (u := m.u.getD 0)).frame (by simp)

theorem takeAssist {m : Measurement} (h : KeepsRecords a s) : KeepsRecords a (s.takeAssist m) := by
  unfold State.takeAssist
  split
  · split
    · exact h
    · split
      · exact h
      · exact h.loopUpdate
  · exact h

/-! ### Selection -/

theorem changePhase {new : Option Slot} (h : KeepsRecords a s) : KeepsRecords a (s.changePhase new) := by
  have told : KeepsRecords a ((((s.setSel { s.sel with phase := new }).disturb).dropLoopStep).notifyAll
      (s.notice .refSwitched 0 (slotCode s.sel.phase) (slotCode new))) :=
    (dropLoopStep (s := (s.setSel { s.sel with phase := new }).disturb) (disturb h)).frame (by simp)
  unfold State.changePhase
  split
  · exact h
  · dsimp only
    split
    · exact told.phaseSelected
    · exact told.phaseSwitched
    · exact told.phaseGone
    · exact told

theorem changeAssist {new : Option Slot} (h : KeepsRecords a s) : KeepsRecords a (s.changeAssist new) := by
  have told : KeepsRecords a ((s.setSel { s.sel with assist := new }).notifyAll
      (s.notice .refSwitched 1 (slotCode s.sel.assist) (slotCode new))) :=
    h.frame (by simp)
  unfold State.changeAssist
  split
  · exact h
  · dsimp only
    split
    · exact told.assistAppeared
    · exact told.frame (by simp)
    · exact told.assistLost
    · exact told

theorem reevaluate (h : KeepsRecords a s) : KeepsRecords a s.reevaluate :=
  .changeAssist (.changePhase (s := s.refreshCandidates) h)

/-- Records that move before a re-evaluation take no minute records with them. -/
theorem reevaluateAfter (h : KeepsRecords a s) (k : OnlyChanges Field.exceptHold s t) :
    KeepsRecords a t.reevaluate := (h.frame k).reevaluate

/-! ### Measurements and activity -/

theorem takeMeasurement {m : Measurement} (h : KeepsRecords a s) : KeepsRecords a (s.takeMeasurement m) := by
  have chosen : KeepsRecords a (((s.score m).pairingStep m).labelStep m).reevaluate :=
    h.reevaluateAfter (by simp)
  unfold State.takeMeasurement
  split
  · unfold State.handOn
    split
    · exact chosen.takePhase
    · split
      · exact chosen.takeAssist
      · exact chosen
  · exact h

theorem activityLost {i : Slot} (h : KeepsRecords a s) : KeepsRecords a (s.activityLost i) := by
  unfold State.activityLost
  split
  case h_1 => exact h
  case h_2 => exact h
  all_goals exact h.reevaluateAfter (by simp)

theorem activityPresent {i : Slot} (h : KeepsRecords a s) : KeepsRecords a (s.activityPresent i) := by
  unfold State.activityPresent
  split
  · exact h.reevaluateAfter (by simp)
  · exact h

theorem holdoffEnds {i : Slot} (h : KeepsRecords a s) : KeepsRecords a (s.holdoffEnds i) := by
  unfold State.holdoffEnds
  split
  · exact h.reevaluateAfter (by simp)
  · exact h

theorem setRefParts {i : Slot} {v : RefSetParts} (h : KeepsRecords a s) : KeepsRecords a (s.setRefParts i v) :=
  h.reevaluateAfter (by simp)

/-! ### TA inputs -/

theorem judgePeriod {i : InputIx} {p : TaPeriod} (h : KeepsRecords a s) : KeepsRecords a (s.judgePeriod i p) :=
  .takeMeasurement (s := s.setTa i _) h

theorem judgeIfWhole {i : InputIx} (h : KeepsRecords a s) : KeepsRecords a (s.judgeIfWhole i) := by
  unfold State.judgeIfWhole
  split
  · split
    · exact h.judgePeriod
    · exact h
  · exact h

theorem judgeAtClose {i : InputIx} (h : KeepsRecords a s) : KeepsRecords a (s.judgeAtClose i) := by
  unfold State.judgeAtClose
  split
  · split
    · exact h
    · exact h.judgePeriod
  · exact h

theorem taActivity {i : InputIx} (h : KeepsRecords a s) : KeepsRecords a (s.taActivity i) := by
  unfold State.taActivity
  dsimp only
  split
  · exact h
  · exact .activityPresent h

theorem taEdge {i : InputIx} (h : KeepsRecords a s) : KeepsRecords a (s.taEdge i) := by
  unfold State.taEdge
  dsimp only
  split
  · exact h
  · split
    · exact h.taActivity
    · split
      · exact h.taActivity
      · split
        · exact (h.taActivity (i := i)).frame (by simp)
        · exact h.taActivity.judgeAtClose

theorem taTrailing {i : InputIx} (h : KeepsRecords a s) : KeepsRecords a (s.taTrailing i) := by
  unfold State.taTrailing
  split
  · exact h
  · split
    · split
      · exact .judgeIfWhole h
      · exact h
    · exact h

/-- The counter runs on to an instant, at which the period is judged. -/
theorem reachJudged {n : Nat} {i : InputIx} (h : KeepsRecords a s) :
    KeepsRecords a ((s.reachInstant n).judgeAtClose i) :=
  .judgeAtClose (h.frame (by simp))

theorem taWindowClose {i : InputIx} (h : KeepsRecords a s) : KeepsRecords a (s.taWindowClose i) := by
  unfold State.taWindowClose
  split
  · split
    · exact h
    · exact h.reachJudged
  · exact h

theorem taGuardEnd {i : InputIx} (h : KeepsRecords a s) : KeepsRecords a (s.taGuardEnd i) := by
  unfold State.taGuardEnd
  split
  · exact h.reachJudged
  · exact h

theorem taTimeout {i : InputIx} (h : KeepsRecords a s) : KeepsRecords a (s.taTimeout i) := by
  unfold State.taTimeout
  split
  · exact h
  · dsimp only
    split
    · exact .activityLost h
    · exact h

/-! ### Labels -/

theorem placeLabel {i : InputIx} {l : HeldLabel} (h : KeepsRecords a s) : KeepsRecords a (s.placeLabel i l) := by
  unfold State.placeLabel
  split
  · split
    · exact .judgeIfWhole h
    · exact h
  · exact h

theorem heldBytes {i : InputIx} {b : Byte} (h : KeepsRecords a s) : KeepsRecords a (s.heldBytes i b) := by
  unfold State.heldBytes
  split
  · split
    · exact h
    · exact h
  · split
    · exact .placeLabel h
    · exact h

theorem labelByte {i : InputIx} {b : Byte} (h : KeepsRecords a s) : KeepsRecords a (s.labelByte i b) := by
  unfold State.labelByte
  split
  · exact h
  · split
    · exact .heldBytes h
    · exact h.heldBytes

theorem labelBytes {i : InputIx} {l : List Byte} (h : KeepsRecords a s) : KeepsRecords a (s.labelBytes i l) := by
  unfold State.labelBytes
  induction l generalizing s with
  | nil => exact h
  | cons b l ih => exact ih h.labelByte

/-! ### FQ inputs and OF slots -/

theorem closeFqSecond {i : InputIx} (h : KeepsRecords a s) : KeepsRecords a (s.closeFqSecond i) := by
  have origin {t : State} {b : Bool} (ht : KeepsRecords a t) : KeepsRecords a (t.originTaken i b) :=
    ht.frame (by simp)
  unfold State.closeFqSecond
  dsimp only
  split
  · exact h
  · split
    case h_1 => exact h
    case h_2 => exact h
    case h_3 =>
      split
      · exact h
      · split
        · exact origin h
        · exact .activityPresent (origin h)
    case h_4 =>
      split
      · exact .takeMeasurement h
      · exact h

theorem fqTimeout {i : InputIx} (h : KeepsRecords a s) : KeepsRecords a (s.fqTimeout i) := by
  unfold State.fqTimeout
  split
  · exact h
  · dsimp only
    split
    · exact .activityLost h
    · exact h

theorem takeReport {p : Port} {e whole : Int} {interval quality noise : Nat} (h : KeepsRecords a s) :
    KeepsRecords a (s.takeReport p e whole interval quality noise) := by
  have measured {u : State} (hu : KeepsRecords a u) :
      KeepsRecords a (if u.tb.state = .fault then u
        else u.takeMeasurement (u.ofMeasurement p e whole interval quality noise)) := by
    split
    · exact hu
    · exact hu.takeMeasurement
  unfold State.takeReport
  dsimp only
  split
  · exact measured h
  · exact measured (.activityPresent h)

theorem ofTimeout {p : Port} (h : KeepsRecords a s) : KeepsRecords a (s.ofTimeout p) := by
  unfold State.ofTimeout
  split
  · exact h
  · dsimp only
    split
    · exact .activityLost h
    · exact h

end KeepsRecords

end Sys2Proof.Machine
end

section
/-! The frequency history (O7): entry to FAULT, a counter second, and the authority; the close of a minute, which alone
of these adds a record. -/

namespace Sys2Proof.Machine

namespace KeepsRecords

variable {a s : State}

/-! ### FAULT (R13) -/

theorem timebaseAtFault (h : KeepsRecords a s) : KeepsRecords a s.timebaseAtFault :=
  .regrade (.setTbState (.closeEpisode (.emptyStaging (.leaveState h))))

theorem enterFault (h : KeepsRecords a s) : KeepsRecords a s.enterFault := by
  unfold State.enterFault
  split
  · exact h
  · have selected : KeepsRecords a s.timebaseAtFault.frontEndAtFault.refsAtFault.reevaluate :=
      h.timebaseAtFault.reevaluateAfter (by simp)
    exact selected.frame (by simp)

theorem gateEnds {edges : Nat} (h : KeepsRecords a s) : KeepsRecords a (s.gateEnds edges) := by
  have good {t : State} (ht : KeepsRecords a t) : KeepsRecords a t.judgeGood :=
    ht.frame (by simp)
  unfold State.gateEnds
  dsimp only
  split
  · split
    · exact h
    · exact .enterFault h
  · split
    · split
      · exact good h
      · exact h
    · exact h

theorem edgeGap (h : KeepsRecords a s) : KeepsRecords a s.edgeGap := by
  unfold State.edgeGap
  dsimp only
  split
  · exact .enterFault h
  · exact h

/-! ### The end of a second (R19) -/

theorem applyStep {p : PendingStep} (h : KeepsRecords a s) : KeepsRecords a (s.applyStep p) := by
  have jumped : KeepsRecords a (s.discardPlans.jump p.amount) :=
    h.frame (by simp)
  exact jumped.disturb.frame (by simp [State.applyStep])

theorem secondEnds {o : Overshoot} (h : KeepsRecords a s) : KeepsRecords a (s.secondEnds o) := by
  have before : KeepsRecords a (s.beforeStep o) := h.frame (by simp)
  have resumed : KeepsRecords a (s.resume o) := h.frame (by simp)
  have rerun {t : State} (ht : KeepsRecords a t) : KeepsRecords a (t.syncAlarms.rerun o) :=
    ht.frame (by simp)
  unfold State.secondEnds
  split
  · split
    · exact rerun before.applyStep
    · exact resumed
  · exact resumed

/-! ### The authority (R93, R181, R186) -/

theorem grant {p : Port} {n : Nat} (h : KeepsRecords a s) : KeepsRecords a (s.grant p n) :=
  (emptyStaging (s := { s with holder := some p }) h).frame (by simp [State.grant])

theorem passAuthority {p : Port} (h : KeepsRecords a s) : KeepsRecords a (s.passAuthority p) := by
  unfold State.passAuthority
  split
  · exact .grant h
  · exact .emptyStaging h

theorem leaveAuthority {p : Port} (h : KeepsRecords a s) : KeepsRecords a (s.leaveAuthority p) := by
  unfold State.leaveAuthority
  split
  · exact h.passAuthority
  · exact h

theorem takeAuthority {p : Port} {n : Nat} (h : KeepsRecords a s) : KeepsRecords a (s.takeAuthority p n) := by
  unfold State.takeAuthority
  split
  · exact h.grant
  · split
    · exact h
    · split
      · exact h
      · exact h

theorem silenceEnds {p : Port} (h : KeepsRecords a s) : KeepsRecords a (s.silenceEnds p) := by
  unfold State.silenceEnds
  split
  · split
    · exact .leaveAuthority h
    · exact h
  · exact h

theorem portResets {p : Port} (h : KeepsRecords a s) : KeepsRecords a (s.portResets p) := by
  have reset {t : State} {r : Request} (ht : KeepsRecords a t) : KeepsRecords a (t.resetPort p r) :=
    (leaveAuthority (p := p) (s := ((t.setPort p ((t.ports[p]).clear (t.sentNow p))).setView p
      View.powerOn).flagStanding p) ht).frame (by simp [State.resetPort])
  unfold State.portResets
  split
  · split
    · exact reset h
    · exact h
  · exact h

/-! ### LOOP_SET (R84) -/

theorem setLoopParts {v : LoopSetParts} (h : KeepsRecords a s) : KeepsRecords a (s.setLoopParts v) := by
  have fall {t : State} (ht : KeepsRecords a t) : KeepsRecords a t.freeSteer.fallToTracking.regrade := by
    have steered : KeepsRecords a t.freeSteer := ht.frame (by simp)
    unfold State.fallToTracking
    split
    · exact steered.setClass.regrade
    · exact steered.regrade
  unfold State.setLoopParts
  dsimp only
  split
  · exact fall h
  · exact fall h

end KeepsRecords

/-! ### Records in rising index -/

/-- No record of a list that rises is newer than its newest. -/
theorem le_newestIndex {l : List MinuteRecord} (h : indicesRise l) {r : MinuteRecord} (hr : r ∈ l) :
    r.index ≤ newestIndex l := by
  obtain ⟨front, newest, rfl⟩ : ∃ front newest, l = front ++ [newest] :=
    ⟨_, _, (List.dropLast_append_getLast (List.ne_nil_of_mem hr)).symm⟩
  have hnewest : newestIndex (front ++ [newest]) = newest.index := by simp [newestIndex]
  rw [hnewest]
  rcases List.mem_append.mp hr with hfront | hlast
  · exact Int.le_of_lt ((List.pairwise_append.mp h).2.2 r hfront newest (by simp))
  · rw [List.mem_singleton.mp hlast]

/-- No record of a list that rises is older than its oldest. -/
theorem oldestIndex_le {l : List MinuteRecord} (h : indicesRise l) {r : MinuteRecord} (hr : r ∈ l) :
    oldestIndex l ≤ r.index := by
  cases l with
  | nil => cases hr
  | cons q l =>
    rcases List.mem_cons.mp hr with rfl | hl
    · exact Int.le_refl _
    · exact Int.le_of_lt ((List.pairwise_cons.mp h).1 r hl)

/-- A list that lies above another joins it. -/
theorem indicesRise_append {l m : List MinuteRecord} (hl : indicesRise l) (hm : indicesRise m)
    (h : newestIndex l < oldestIndex m) : indicesRise (l ++ m) :=
  List.pairwise_append.mpr ⟨hl, hm, fun _ hx _ hy =>
    Int.lt_of_le_of_lt (le_newestIndex hl hx) (Int.lt_of_lt_of_le h (oldestIndex_le hm hy))⟩

/-! ### The close of a minute (R88) -/

theorem indicesRise_append_of_newer {l : List MinuteRecord} {r : MinuteRecord} (h : indicesRise l)
    (hn : newerThanAll l r.index = true) : indicesRise (l ++ [r]) := by
  cases hlast : l.getLast? with
  | none =>
    rw [List.getLast?_eq_none_iff.mp hlast]
    exact List.pairwise_singleton _ _
  | some newest =>
    have above : newestIndex l < r.index := by simpa [newerThanAll, newestIndex, hlast] using hn
    exact indicesRise_append h (List.pairwise_singleton _ _) above

/-- A closing minute appends a newer record, the oldest giving way beyond 64, or none. -/
theorem closeMinute_ordered {h : Holdover} (hlength : h.history.length ≤ 64) (hrise : indicesRise h.history)
    (index : Int) (slot : Nat) (lockedNow : Bool) :
    (h.closeMinute index slot lockedNow).history.length ≤ 64 ∧
      indicesRise (h.closeMinute index slot lockedNow).history := by
  unfold Holdover.closeMinute
  dsimp only
  split
  · next hmakes =>
    obtain ⟨⟨-, hn⟩, -⟩ : (h.acc.locked = true ∧ newerThanAll h.history index = true) ∧ 1 ≤ h.acc.count := by
      simpa using hmakes
    exact ⟨pushBounded_length _ _ _ (by decide),
      (indicesRise_append_of_newer (r := h.acc.toRecord index slot) hrise hn).sublist (List.drop_sublist _ _)⟩
  · exact ⟨hlength, hrise⟩

namespace State.historyOrdered

variable {s t : State}

theorem closeMinute (h : s.historyOrdered) : s.closeMinute.historyOrdered := by
  obtain ⟨hlength, hrise, hstaged⟩ := h
  obtain ⟨hclosed, hclosedRise⟩ := closeMinute_ordered hlength hrise s.tb.minuteIndex (slotCode s.sel.phase)
    (s.tb.state = .locked)
  exact ⟨hclosed, hclosedRise, hstaged⟩

/-- Operations that keep the records of the state they start from keep them in order. -/
theorem kept (h : s.historyOrdered) (k : KeepsRecords s s → KeepsRecords s t) : t.historyOrdered :=
  (k (.refl _)).ordered h

/-- What leaves the holdover unit alone keeps its records in order. -/
theorem frame (h : s.historyOrdered) (k : OnlyChanges Field.exceptHold s t) : t.historyOrdered :=
  h.kept fun r => r.frame k

theorem sampleAndMinute (h : s.historyOrdered) : s.sampleAndMinute.historyOrdered := by
  have sampled : s.sampleSecond.historyOrdered := h
  unfold State.sampleAndMinute
  dsimp only
  split
  · have closed : s.sampleSecond.descend.closeMinute.historyOrdered := (sampled.kept (·.descend)).closeMinute
    exact closed.kept (·.episodeMinute.regrade)
  · exact sampled

theorem secondWork (h : s.historyOrdered) : s.secondWork.historyOrdered := by
  have synced {t : State} (ht : t.historyOrdered) : t.syncAlarms.historyOrdered :=
    ht.frame (by simp)
  have first := (synced h.sampleAndMinute).kept (·.closeFqSecond (i := 0))
  have second := (synced first).kept (·.closeFqSecond (i := 1))
  exact second.frame (by simp [State.secondWork])

theorem secondBoundary (h : s.historyOrdered) : s.secondBoundary.historyOrdered := by
  have reached : s.reachSecond.historyOrdered := h.frame (by simp)
  unfold State.secondBoundary
  split
  · exact h
  · exact reached.secondWork.kept (·.secondEnds)

end State.historyOrdered

end Sys2Proof.Machine
end

section
/-! The frequency history (O7): a restored set, staged or placed (R91, R92). -/

namespace Sys2Proof.Machine

/-! ### Sets in rising index -/

/-- A list rises when each record's index is below that of the one after it. -/
theorem risingIndices_iff (l : List MinuteRecord) : risingIndices l = true ↔ indicesRise l := by
  have : Trans (fun a b : MinuteRecord => a.index < b.index) (fun a b : MinuteRecord => a.index < b.index)
      (fun a b : MinuteRecord => a.index < b.index) := ⟨Int.lt_trans⟩
  unfold indicesRise
  rw [← List.isChain_iff_pairwise]
  induction l with
  | nil => simp [risingIndices]
  | cons r l ih =>
    cases l with
    | nil => simp [risingIndices]
    | cons q l => simp [risingIndices, ih]

/-- Placing a set moves all its indices by one amount (R92). -/
theorem indicesRise_placed {l : List MinuteRecord} (h : indicesRise l) (n : Int) :
    indicesRise (l.map fun r => r.placed n) :=
  List.pairwise_map.mpr (h.imp fun hlt => by
    dsimp only [MinuteRecord.placed]
    omega)

/-! ### The checks of a part (R91) -/

theorem parseMinuteRecords_length (n : Nat) (b : List Byte) : (parseMinuteRecords n b).length = n := by
  induction n generalizing b with
  | zero => rfl
  | succ n ih => simp [parseMinuteRecords, ih]

/-- A part carries at least one record and at most 31 (R91). -/
theorem parseRestore_length {b : List Byte} {v : RestoreParts} (h : parseRestore b = some v) :
    1 ≤ v.records.length ∧ v.records.length ≤ 31 := by
  unfold parseRestore at h
  split at h
  · cases h
  · split at h
    · next hlength =>
      cases h
      rw [parseMinuteRecords_length]
      omega
    · cases h

/-- The values of a part that pass, those of the joined list where it joins one and of the set where it places one. -/
theorem restoreBad_eq_false {s : State} {v : RestoreParts} : s.restoreBad v = false ↔
    (0 ≤ v.marker ∧ v.marker ≤ 3) ∧ (∀ r ∈ v.records, r.restorable = true) ∧ indicesRise v.records ∧
      (v.joins = true → newestIndex s.hold.staging < oldestIndex v.records ∧ (v.set s.hold.staging).length ≤ 64) ∧
      (v.places = true → indexSpan (v.set s.hold.staging) ≤ 2147483647) := by
  rw [← risingIndices_iff]
  cases hj : v.joins <;> cases hp : v.places <;>
    simp [State.restoreBad, inRange, hj, hp, and_assoc]

namespace State.historyOrdered

variable {s : State} {v : RestoreParts}

/-- A part that passes makes a list of at most 64 records in rising index. -/
theorem restoredSet (h : s.historyOrdered) (hlength : v.records.length ≤ 31) (hgood : s.restoreBad v = false) :
    (v.set s.hold.staging).length ≤ 64 ∧ indicesRise (v.set s.hold.staging) := by
  obtain ⟨-, -, hrise, hjoins, -⟩ := restoreBad_eq_false.mp hgood
  obtain ⟨-, -, -, hstaged⟩ := h
  cases hj : v.joins with
  | false =>
    have alone : v.set s.hold.staging = v.records := by simp [RestoreParts.set, hj]
    rw [alone]
    exact ⟨by omega, hrise⟩
  | true =>
    have joined : v.set s.hold.staging = s.hold.staging ++ v.records := by simp [RestoreParts.set, hj]
    obtain ⟨habove, hfits⟩ := hjoins hj
    exact ⟨hfits, joined ▸ indicesRise_append hstaged hrise habove⟩

theorem restore (h : s.historyOrdered) (hlength : v.records.length ≤ 31) (hgood : s.restoreBad v = false) :
    (s.restore v).historyOrdered := by
  obtain ⟨hset, hrise⟩ := h.restoredSet hlength hgood
  obtain ⟨hhistory, hhistoryRise, -, -⟩ := h
  unfold State.restore
  split
  · exact ⟨by simpa [State.placeRestored] using hset, indicesRise_placed hrise _, Nat.zero_le _, .nil⟩
  · exact ⟨hhistory, hhistoryRise, hset, hrise⟩

end State.historyOrdered

end Sys2Proof.Machine
end

section
/-! What a request may change (R176, R177): the fields of State that its verdict, when it accepts, leaves different. -/

namespace Sys2Proof.Machine

/-! ### Verdicts -/

/-- The state of a verdict that accepts has a property. -/
def Verdict.leaves (P : State → Prop) (v : Verdict) : Prop := ∀ st b u, v = .accept st b u → P u

namespace Verdict.leaves

variable {P : State → Prop} {v : Verdict}

theorem refuse {st : Status} : (Verdict.refuse st).leaves P := fun _ _ _ h => by cases h

theorem accept {st : Status} {b : List Byte} {u : State} (h : P u) : (Verdict.accept st b u).leaves P :=
  fun _ _ _ e => by
    cases e
    exact h

theorem parsed {α : Type} {o : Option α} {f : α → Verdict} (h : ∀ a, o = some a → (f a).leaves P) :
    (Machine.parsed o f).leaves P := by
  cases o with
  | none => exact .refuse
  | some a => exact h a rfl

theorem refuseIf {b : Bool} {st : Status} (h : b = false → v.leaves P) : (Machine.refuseIf b st v).leaves P := by
  cases b with
  | false => exact h rfl
  | true => exact .refuse

/-- The state of a verdict is reached by its request alone, or the request does nothing. -/
theorem answer {s : State} {p : Port} {code : Nat} {f : List Byte → State → Verdict} (hs : P s)
    (hport : ∀ u q, P u → P (u.setPort p q)) (hf : ∀ b t, P t → (f b t).leaves P) : P (s.answer p code f) := by
  unfold State.answer State.execute
  split
  · next r q _ =>
    have hq : P (s.setPort p q) := hport s q hs
    split
    · unfold State.conclude
      split
      · exact hport _ _ hq
      · next hv => exact hport _ _ (hf _ _ hq _ _ _ hv)
    · exact hs
  · exact hs

end Verdict.leaves

end Sys2Proof.Machine
end

section
/-! The frequency history (O7): every command, and the step. -/

namespace Sys2Proof.Machine

/-! ### Outcomes -/

/-- The state that an outcome goes on from has a property. -/
def outcomeLeaves (P : State → Prop) (r : Result) : Prop := ∀ t, r = .next t → P t

@[simp] theorem outcomeLeaves_next (P : State → Prop) (t : State) : outcomeLeaves P (.next t) ↔ P t :=
  ⟨fun h => h t rfl, fun h u hu => by
    cases hu
    exact h⟩

@[simp] theorem outcomeLeaves_finish (P : State → Prop) (t : State) :
    outcomeLeaves P (finish t) ↔ P t.syncAlarms := outcomeLeaves_next P _

/-! ### Commands that leave the holdover unit alone -/

section
variable (p : Port) (s : State)

/-- A request is a frame of its verdicts. -/
theorem answer_exceptHold {code : Nat} {f : List Byte → State → Verdict}
    (hf : ∀ b t, (f b t).leaves (OnlyChanges Field.exceptHold t)) :
    outcomeLeaves (OnlyChanges Field.exceptHold s) (.next (s.answer p code f)) :=
  (outcomeLeaves_next _ _).mpr (answer_only _ s p code f (by simp) hf)

variable (b : List Byte)

theorem checkEntry_leaves {P : State → Prop} {v : Int} {f : EntryIx → Entry → Verdict}
    (hf : ∀ i e, (f i e).leaves P) : (s.checkEntry p v f).leaves P := by
  unfold State.checkEntry
  split
  · exact .refuse
  · split
    · exact .refuse
    · exact .refuseIf fun _ => hf _ _

theorem checkParts_leaves {P : State → Prop} {v : EntryParts} {i : Option EntryIx} {f : EntryFields → Verdict}
    (hf : ∀ x, (f x).leaves P) : (s.checkParts p v i f).leaves P := by
  refine .refuseIf fun _ => .refuseIf fun _ => .refuseIf fun _ => ?_
  split
  · exact .refuse
  · exact hf _

theorem assignOutput_leaves : (assignOutput p b s).leaves (OnlyChanges Field.exceptHold s) := by
  refine .parsed fun v _ => .refuseIf fun _ => ?_
  split
  · exact .refuseIf fun _ => .refuseIf fun _ => .accept (by simp)
  · exact .refuse

theorem defineEntry_leaves : (defineEntry p b s).leaves (OnlyChanges Field.exceptHold s) := by
  refine .parsed fun v _ => checkParts_leaves p s fun x => ?_
  split
  · exact .refuse
  · exact .accept (by simp)

theorem changeEntryRequest_leaves : (changeEntryRequest p b s).leaves (OnlyChanges Field.exceptHold s) := by
  refine .parsed fun v _ => checkEntry_leaves p s fun i e => .refuseIf fun _ => checkParts_leaves p s fun x => ?_
  unfold State.checkRelatives
  split
  · exact .refuseIf fun _ => .accept (by simp)
  · exact .refuseIf fun _ => .accept (by simp)

theorem startEntry_leaves : (startEntry p b s).leaves (OnlyChanges Field.exceptHold s) := by
  refine .parsed fun v _ => checkEntry_leaves p s fun i e => .refuseIf fun _ => ?_
  unfold State.start
  split
  · exact .refuseIf fun _ => .accept (by simp)
  · split
    · exact .refuseIf fun _ => .accept (by simp)
    · exact .refuse

theorem setProfileRequest_leaves : (setProfileRequest p b s).leaves (OnlyChanges Field.exceptHold s) := by
  refine .parsed fun v _ => .refuseIf fun _ => ?_
  split
  · exact .refuse
  · exact .refuseIf fun _ => .accept (by simp)

theorem setDropRequest_leaves : (setDropRequest p b s).leaves (OnlyChanges Field.exceptHold s) := by
  refine .parsed fun v _ => ?_
  split
  · exact .refuse
  · exact .refuseIf fun _ => .refuseIf fun _ => .accept (by simp)

theorem setSeverity_leaves : (setSeverity p b s).leaves (OnlyChanges Field.exceptHold s) := by
  refine .parsed fun v _ => .refuseIf fun _ => ?_
  split
  · exact .refuse
  · exact .refuseIf fun _ => .accept (by simp)

/-- A read of one of several things, or of all of them, changes nothing. -/
theorem readRefs_leaves : (readRefs b s).leaves (OnlyChanges Field.exceptHold s) := by
  refine .parsed fun v _ => ?_
  split
  · exact .accept (by simp)
  · split
    · exact .accept (by simp)
    · exact .refuse

theorem readEntries_leaves : (readEntries b s).leaves (OnlyChanges Field.exceptHold s) := by
  refine .parsed fun v _ => ?_
  split
  · exact .accept (by simp)
  · split
    · exact .accept (by simp)
    · exact .refuse

theorem readDrops_leaves : (readDrops b s).leaves (OnlyChanges Field.exceptHold s) := by
  refine .parsed fun v _ => ?_
  split
  · exact .accept (by simp)
  · split
    · exact .accept (by simp)
    · exact .refuse

end

/-- A command that does not name the holdover unit among what it touches leaves it alone. -/
theorem exec_exceptHold {c : Instr} (hc : Field.hold ∉ touches c) (s : State) :
    outcomeLeaves (OnlyChanges Field.exceptHold s) (exec c s) := by
  cases c with
  | counterMillisecondBoundary => simp [exec, execCounterMillisecondBoundary]
  | labelByteGap i => simp [exec, execLabelByteGap]
  | labelFramingError e i => simp [exec, execLabelFramingError]
  | fqEdge e i n => simp [exec, execFqEdge]
  | hardInstanceRelease n => simp [exec, execHardInstanceRelease]
  | pulseEnd x => simp [exec, execPulseEnd]
  | softItemRelease d => simp [exec, execSoftItemRelease]
  | dropMessageComplete e d bytes => simp [exec, execDropMessageComplete]
  | dropContention e d => simp [exec, execDropContention]
  | dropLineIdle e d => simp [exec, execDropLineIdle]
  | unitMessageFirstByte e d => simp [exec, execUnitMessageFirstByte]
  | peek e p => simp [exec, execPeek]
  | push e p => simp [exec, execPush]
  | requestArrival e p code tag body => simp [exec, execRequestArrival]
  | transactionCutShort e p => simp [exec, execTransactionCutShort]
  | pull e p => simp [exec, execPull]
  | segmentPulled e p => simp [exec, execSegmentPulled]
  | unknownTransactionType e p => simp [exec, execUnknownTransactionType]
  | qualifiedHour i =>
    simp only [exec, execQualifiedHour]
    split <;> simp
  | emitOverrunHoldExpiry =>
    simp only [exec, execEmitOverrunHoldExpiry]
    split <;> simp
  | turnOut d =>
    simp only [exec, execTurnOut]
    split
    · split <;> simp
    · simp
  | turnLimitExpiry d =>
    simp only [exec, execTurnLimitExpiry]
    split <;> simp
  | offerTimerExpiry d =>
    simp only [exec, execOfferTimerExpiry]
    split <;> simp
  | probeTimerExpiry d =>
    simp only [exec, execProbeTimerExpiry]
    split <;> simp
  | announcementTimerExpiry d =>
    simp only [exec, execAnnouncementTimerExpiry]
    split <;> simp
  | alarmPersistenceExpiry a =>
    simp only [exec, execAlarmPersistenceExpiry]
    split <;> simp
  | timeRead p => exact answer_exceptHold p s fun b t => .parsed fun _ _ => .accept (by simp)
  | stateRead p => exact answer_exceptHold p s fun b t => .parsed fun _ _ => .accept (by simp)
  | timeStep p =>
    exact answer_exceptHold p s fun b t => .parsed fun _ _ => .refuseIf fun _ => .refuseIf fun _ => .refuseIf fun _ =>
      .refuseIf fun _ => .accept (by simp)
  | leapSet p =>
    exact answer_exceptHold p s fun b t => .parsed fun _ _ => .refuseIf fun _ => .refuseIf fun _ => .accept (by simp)
  | refRead p => exact answer_exceptHold p s fun b t => readRefs_leaves t b
  | historyRead p =>
    exact answer_exceptHold p s fun b t => .parsed fun _ _ => .refuseIf fun _ => .accept (by simp)
  | outputAssign p => exact answer_exceptHold p s fun b t => assignOutput_leaves p t b
  | entryDefine p => exact answer_exceptHold p s fun b t => defineEntry_leaves p t b
  | entryChange p => exact answer_exceptHold p s fun b t => changeEntryRequest_leaves p t b
  | entryStart p => exact answer_exceptHold p s fun b t => startEntry_leaves p t b
  | entryStop p =>
    exact answer_exceptHold p s fun b t => .parsed fun _ _ => checkEntry_leaves p t fun _ _ => .accept (by simp)
  | entryFree p =>
    exact answer_exceptHold p s fun b t => .parsed fun _ _ => checkEntry_leaves p t fun _ _ =>
      .refuseIf fun _ => .refuseIf fun _ => .accept (by simp)
  | entryRead p => exact answer_exceptHold p s fun b t => readEntries_leaves t b
  | profileSet p => exact answer_exceptHold p s fun b t => setProfileRequest_leaves p t b
  | dropSet p => exact answer_exceptHold p s fun b t => setDropRequest_leaves p t b
  | dropRead p => exact answer_exceptHold p s fun b t => readDrops_leaves t b
  | alarmSeverity p => exact answer_exceptHold p s fun b t => setSeverity_leaves p t b
  | alarmRead p =>
    exact answer_exceptHold p s fun b t => .parsed fun _ _ => .refuseIf fun _ => .accept (by simp)
  | alarmSeen p => exact answer_exceptHold p s fun b t => .refuseIf fun _ => .accept (by simp)
  | alarmMask p => exact answer_exceptHold p s fun b t => .parsed fun _ _ => .refuseIf fun _ => .accept (by simp)
  | noticeRead p => exact answer_exceptHold p s fun b t => .parsed fun _ _ => .refuseIf fun _ => .accept (by simp)
  | portSet p => exact answer_exceptHold p s fun b t => .parsed fun _ _ => .refuseIf fun _ => .accept (by simp)
  | unknownRequest p =>
    exact (outcomeLeaves_next _ _).mpr (execute_only _ s p _ _ (by simp) fun _ _ _ _ _ h => by cases h)
  | _ => simp [touches, Field.elapsed, Field.measuring, Field.selecting, Field.faulting, Field.passing] at hc

/-! ### Commands that touch the holdover unit -/

namespace State.historyOrdered

variable {s : State} {p : Port}

/-- A command ends with the hand-over of the alarm conditions, which changes no record. -/
theorem finished {t : State} (h : s.historyOrdered) (k : KeepsRecords s s → KeepsRecords s t) :
    outcomeLeaves historyOrdered (finish t) :=
  (outcomeLeaves_finish _ _).mpr ((h.kept k).frame (by simp))

theorem warmupExpiry (h : s.historyOrdered) : outcomeLeaves historyOrdered (execWarmupExpiry s) := by
  unfold execWarmupExpiry
  split
  · split
    · exact h.finished fun r => .warmupEnds (r.frame (by simp))
    · simpa
  · simpa

theorem holdoffExpiry (h : s.historyOrdered) (i : Slot) : outcomeLeaves historyOrdered (execHoldoffExpiry i s) := by
  unfold execHoldoffExpiry
  split
  · exact h.finished fun r => .holdoffEnds (r.frame (by simp))
  · simpa

theorem revertiveWaitExpiry (h : s.historyOrdered) (i : Slot) :
    outcomeLeaves historyOrdered (execRevertiveWaitExpiry i s) := by
  unfold execRevertiveWaitExpiry
  split
  · split
    · exact h.finished fun r => r.reevaluateAfter (by simp)
    · simpa
  · simpa

/-- A request keeps the records in order when each verdict that accepts it does. -/
theorem answered {code : Nat} {f : List Byte → State → Verdict} (h : s.historyOrdered)
    (hf : ∀ b t, t.historyOrdered → (f b t).leaves historyOrdered) :
    outcomeLeaves historyOrdered (.next (s.answer p code f)) :=
  (outcomeLeaves_next _ _).mpr (Verdict.leaves.answer h (fun _ _ k => k) hf)

/-- A verdict accepts with the alarm conditions handed over. -/
theorem accepted {st : Status} {b : List Byte} {t : State} (h : s.historyOrdered)
    (k : KeepsRecords s s → KeepsRecords s t) : (Verdict.accept st b t.syncAlarms).leaves historyOrdered :=
  .accept ((h.kept k).frame (by simp))

theorem restoreHistory (h : s.historyOrdered) (b : List Byte) :
    (Machine.restoreHistory p b s).leaves historyOrdered :=
  .refuseIf fun _ => .parsed fun _ hv => .refuseIf fun _ => .refuseIf fun hgood =>
    .accept (h.restore (parseRestore_length hv).2 hgood)

theorem setRefRequest (h : s.historyOrdered) (b : List Byte) :
    (Machine.setRefRequest p b s).leaves historyOrdered := by
  refine .parsed fun v _ => .refuseIf fun _ => ?_
  split
  · exact .refuse
  · exact .refuseIf fun _ => h.accepted (·.setRefParts)

theorem forceSelection (h : s.historyOrdered) (b : List Byte) :
    (Machine.forceSelection p b s).leaves historyOrdered := by
  refine .parsed fun v _ => .refuseIf fun _ => ?_
  split
  · exact .refuse
  · exact h.accepted fun r => r.reevaluateAfter (by simp)

/-- Every command keeps the records in order: those that touch the holdover unit one by one. -/
theorem exec (h : s.historyOrdered) (c : Instr) : outcomeLeaves historyOrdered (Machine.exec c s) := by
  have passed {e : Elapsed} : KeepsRecords s (s.pass e) := .frame (.refl s) (by simp)
  cases c with
  | resetRelease a w =>
    exact (outcomeLeaves_next _ _).mpr ⟨Nat.zero_le _, .nil, Nat.zero_le _, .nil⟩
  | counterSecondBoundary => exact h.secondBoundary.finished id
  | monitorGateEnd edges => exact h.finished (·.gateEnds)
  | loInGap e => exact h.finished fun _ => passed.edgeGap
  | warmupExpiry => exact h.warmupExpiry
  | taActiveEdge e i => exact h.finished fun _ => passed.taEdge
  | taTrailingEdge e i => exact h.finished fun _ => passed.taTrailing
  | taLabelComplete e i bytes => exact h.finished fun _ => passed.labelBytes
  | labelStartByte e i => exact h.finished fun _ => passed.labelByte
  | taLabelWindowClose i => exact h.finished (·.taWindowClose)
  | taGlitchGuardEnd i => exact h.finished (·.taGuardEnd)
  | taActivityTimeout i => exact h.finished (·.taTimeout)
  | fqActivityTimeout i => exact h.finished (·.fqTimeout)
  | ofActivityTimeout p => exact h.finished (·.ofTimeout)
  | holdoffExpiry i => exact h.holdoffExpiry i
  | revertiveWaitExpiry i => exact h.revertiveWaitExpiry i
  | silenceTimerExpiry p => exact h.finished (·.silenceEnds)
  | offsetReport p =>
    exact h.answered fun _ _ ht => .parsed fun _ _ => .refuseIf fun _ => .refuseIf fun _ =>
      accepted ht (·.takeReport)
  | refSet p => exact h.answered fun b _ ht => setRefRequest ht b
  | selectSet p =>
    exact h.answered fun _ _ ht => .parsed fun _ _ => .refuseIf fun _ => .refuseIf fun _ =>
      accepted ht fun r => r.reevaluateAfter (by simp)
  | selectForce p => exact h.answered fun b _ ht => forceSelection ht b
  | loopSet p =>
    exact h.answered fun _ _ ht => .parsed fun _ _ => .refuseIf fun _ => .refuseIf fun _ => .refuseIf fun _ =>
      accepted ht (·.setLoopParts)
  | historyRestore p => exact h.answered fun b _ ht => restoreHistory ht b
  | holdoverForce p =>
    exact h.answered fun _ _ ht => .refuseIf fun _ => .parsed fun _ _ => accepted ht (·.setForce)
  | authTake p =>
    exact h.answered fun _ _ ht => .parsed fun _ _ => .refuseIf fun _ => accepted ht (·.takeAuthority)
  | authRelease p => exact h.answered fun _ _ ht => .parsed fun _ _ => accepted ht (·.leaveAuthority)
  | portReset p => exact (outcomeLeaves_next _ _).mpr (h.kept (·.portResets))
  | _ =>
    exact fun t ht => h.frame (exec_exceptHold
      (by simp [touches, Field.elapsed, Field.running]) s t ht)

end State.historyOrdered

/-- Settles O7: a closing minute appends a newer record, a restored part joins what it lies above, and every other
command keeps both lists or empties one. -/
theorem historyStaysOrdered : Obligations.HistoryStaysOrdered := by
  intro s t h hstep
  unfold step at hstep
  split at hstep
  · next c rest _ =>
    have waiting : (s.setPending rest).historyOrdered := h
    exact waiting.exec c t hstep
  · cases hstep
    exact h.frame (by simp)

end Sys2Proof.Machine
end

section
/-! HISTORY_RESTORE (R91, R92): when a part passes its checks, and what a placed set makes of the holdover unit. -/

namespace Sys2Proof.Machine
open ReferenceInputs

/-! ### A part that passes (R91) -/

theorem exists_newestIndex {l : List MinuteRecord} (h : l ≠ []) : ∃ r ∈ l, r.index = newestIndex l :=
  ⟨l.getLast h, l.getLast_mem h, by simp [newestIndex, List.getLast?_eq_getLast_of_ne_nil h]⟩

theorem exists_oldestIndex {l : List MinuteRecord} (h : l ≠ []) : ∃ r ∈ l, r.index = oldestIndex l := by
  cases l with
  | nil => exact absurd rfl h
  | cons r l => exact ⟨r, List.mem_cons_self, rfl⟩

/-- Two lists that rise together rise each by itself, and the second lies above the first. -/
theorem indicesRise_of_append {l m : List MinuteRecord} (h : indicesRise (l ++ m)) (hl : l ≠ []) (hm : m ≠ []) :
    indicesRise m ∧ newestIndex l < oldestIndex m := by
  obtain ⟨-, hrise, habove⟩ := List.pairwise_append.mp h
  obtain ⟨x, hx, hnewest⟩ := exists_newestIndex hl
  obtain ⟨y, hy, holdest⟩ := exists_oldestIndex hm
  exact ⟨hrise, hnewest ▸ holdest ▸ habove x hx y hy⟩

theorem restorable_iff (r : MinuteRecord) :
    r.restorable = true ↔ -50000000 ≤ r.mean ∧ r.mean ≤ 50000000 ∧ r.slot ≤ 7 ∧ r.cls ≤ 6 := by
  simp [MinuteRecord.restorable, inRange, and_assoc]

/-- A part of records in range passes when the list that it makes is in rising index, fits, and spans no more than the
range of an index, and when it joins a list that is staged. -/
theorem restoreBad_of_good {s : State} {v : RestoreParts} (hmarker : 0 ≤ v.marker ∧ v.marker ≤ 3)
    (hrecords : v.records ≠ []) (hgood : ∀ r ∈ v.records, r.restorable = true)
    (hrise : indicesRise (v.set s.hold.staging)) (hlength : (v.set s.hold.staging).length ≤ 64)
    (hspan : indexSpan (v.set s.hold.staging) ≤ 2147483647) (hstaged : v.joins = true → s.hold.staging ≠ []) :
    s.restoreBad v = false := by
  cases hj : v.joins with
  | false =>
    have alone : v.set s.hold.staging = v.records := by simp [RestoreParts.set, hj]
    exact restoreBad_eq_false.mpr ⟨hmarker, hgood, alone ▸ hrise, by simp [hj], fun _ => hspan⟩
  | true =>
    have joined : v.set s.hold.staging = s.hold.staging ++ v.records := by simp [RestoreParts.set, hj]
    obtain ⟨hrecordsRise, habove⟩ := indicesRise_of_append (joined ▸ hrise) (hstaged hj) hrecords
    exact restoreBad_eq_false.mpr ⟨hmarker, hgood, hrecordsRise, fun _ => ⟨habove, hlength⟩, fun _ => hspan⟩

/-! ### A set placed (R92) -/

/-- The set as it is placed, the newest at index −1. -/
def placedSet (l : List MinuteRecord) : List MinuteRecord := l.map fun r => r.placed (newestIndex l)

theorem placedSet_means (l : List MinuteRecord) : (placedSet l).map (·.mean) = l.map (·.mean) := by
  simp [placedSet, MinuteRecord.placed, Function.comp_def]

theorem placedSet_records {l : List MinuteRecord} (h : indicesRise l) {x : MinuteRecord} (hx : x ∈ placedSet l) :
    x.restored = true ∧ x.index ≤ -1 ∧ x.least ≤ 0 ∧ 0 ≤ x.greatest ∧ 1 ≤ x.samples := by
  obtain ⟨r, hr, rfl⟩ := List.mem_map.mp hx
  have := le_newestIndex h hr
  dsimp only [MinuteRecord.placed]
  refine ⟨rfl, ?_, ?_, ?_, ?_⟩ <;> omega

theorem placedSet_newest {l : List MinuteRecord} (h : l ≠ []) :
    (placedSet l).getLast?.map (·.index) = some (-1) := by
  simp only [placedSet, newestIndex, List.getLast?_map, List.getLast?_eq_getLast_of_ne_nil h, Option.map_some,
    MinuteRecord.placed]
  simp

/-- Of at most so many records, none disturbed, all are taken. -/
theorem newestClean_of_clean {n : Nat} {l : List MinuteRecord} (hl : l.length ≤ n)
    (h : ∀ x ∈ l, x.disturbed = false) : newestClean n l = l := by
  have clean : (l.filter fun r => !r.disturbed) = l := List.filter_eq_self.mpr fun x hx => by simp [h x hx]
  rw [newestClean, clean, List.take_of_length_le (by simpa using hl), List.reverse_reverse]

/-- The frequency of FREERUN that a small clean set gives: the mean of its means. -/
theorem placedSet_meanOfMeans {l : List MinuteRecord} (hl : l.length ≤ 16) (h : ∀ x ∈ l, x.disturbed = false) :
    meanOfMeans (newestClean 16 (placedSet l)) = (l.map (·.mean)).sum / (l.length : Int) := by
  have clean : ∀ x ∈ placedSet l, x.disturbed = false := fun x hx => by
    obtain ⟨r, hr, rfl⟩ := List.mem_map.mp hx
    exact h r hr
  rw [newestClean_of_clean (by simpa [placedSet] using hl) clean, meanOfMeans, meanSum, placedSet_means, placedSet,
    List.length_map]

section
variable {s : State} {v : RestoreParts}

theorem restore_of_places (h : v.places = true) : s.restore v = s.placeRestored (v.set s.hold.staging) := by
  rw [State.restore, if_pos h]

theorem restore_of_stages (h : v.places = false) :
    s.restore v = s.setHold { s.hold with staging := v.set s.hold.staging } := by
  rw [State.restore, h]
  rfl

theorem restore_ports (s : State) (v : RestoreParts) : (s.restore v).ports = s.ports :=
  same_of_frame (State.restore_only [.tb, .hold] s s v (by decide) (by decide) |>.mpr (OnlyChanges.refl _ s)) .ports

end

/-! ### The request -/

section
variable {s : State} {p : Port} {r : Request} {q : PortRec} {v : RestoreParts}

/-- A part of the holder's that passes is restored, and the reply carries the number of records. -/
theorem exec_historyRestore (h : s.ready p 50 r q) (hv : parseRestore r.body = some v) (hh : s.holder = some p)
    (hw : s.restoreWrongState v = false) (hb : s.restoreBad v = false) :
    exec (.historyRestore p) s = .next (((s.setPort p q).restore v).reply p r .done
      (beBytes 4 (v.set s.hold.staging).length)) := by
  have hw' : (s.setPort p q).restoreWrongState v = false := hw
  have hb' : (s.setPort p q).restoreBad v = false := hb
  have hf : restoreHistory p r.body (s.setPort p q) =
      .accept .done (beBytes 4 (v.set s.hold.staging).length) ((s.setPort p q).restore v) := by
    rw [restoreHistory, notHolder_of_holder (s := s.setPort p q) hh, refuseIf_false, hv, parsed_some, hw',
      refuseIf_false, hb', refuseIf_false]
    rfl
  show Host.Outcome.next (s.answer p 50 (restoreHistory p)) = _
  rw [answer_accepted h hf]

/-- In a state that does not allow the part it is refused (R91, check 3). -/
theorem exec_historyRestore_wrongState (h : s.ready p 50 r q) (hv : parseRestore r.body = some v)
    (hh : s.holder = some p) (hw : s.restoreWrongState v = true) :
    exec (.historyRestore p) s = .next (s.setPort p (q.replied r .wrongState [])) := by
  have hw' : (s.setPort p q).restoreWrongState v = true := hw
  have hf : restoreHistory p r.body (s.setPort p q) = .refuse .wrongState := by
    rw [restoreHistory, notHolder_of_holder (s := s.setPort p q) hh, refuseIf_false, hv, parsed_some, hw',
      refuseIf_true]
  show Host.Outcome.next (s.answer p 50 (restoreHistory p)) = _
  rw [answer_ready s p 50 _ r q h, hf, conclude_refuse]

end

/-- Settles O52: a NEXT or LAST part with nothing staged is refused; any other part passes and is staged or placed by
its marker. -/
theorem historyRestorePlacesRecords : Obligations.HistoryRestorePlacesRecords := by
  unfold Obligations.HistoryRestorePlacesRecords
  rintro p s r q v joined l h hv hh hstate hmarker hjoined hl hlength hrecords hrise hspan
  have hjoins : joined = v.joins := by simp [hjoined, RestoreParts.joins]
  have hset : l = v.set s.hold.staging := by rw [hl, hjoins, RestoreParts.set]
  have hnonempty : v.records ≠ [] := List.ne_nil_of_length_pos (parseRestore_length hv).1
  subst hjoins
  by_cases hstaged : v.joins = true ∧ s.hold.staging = []
  · obtain ⟨hj, hempty⟩ := hstaged
    have hw : s.restoreWrongState v = true := by simp [State.restoreWrongState, hj, hempty]
    refine ⟨_, exec_historyRestore_wrongState h hv hh hw, fun _ _ => ⟨rfl, by simp⟩, fun hno => ?_, by simp⟩
    rcases hno with hno | hno
    · exact absurd hj (by simp [hno])
    · exact absurd hempty hno
  · have hready : v.joins = true → s.hold.staging ≠ [] := fun hj hempty => hstaged ⟨hj, hempty⟩
    have hw : s.restoreWrongState v = false := by
      rcases hstate with hs | hs <;> simpa [State.restoreWrongState, hs] using hready
    have hb : s.restoreBad v = false :=
      restoreBad_of_good hmarker hnonempty (fun x hx => (restorable_iff x).mpr (hrecords x hx)) (hset ▸ hrise)
        (hset ▸ hlength) (hset ▸ hspan) hready
    refine ⟨_, exec_historyRestore h hv hh hw hb, fun hj hempty => absurd ⟨hj, hempty⟩ hstaged, fun _ => ?_, by simp⟩
    rw [← hset]
    refine ⟨answered_reply _ _ (restore_ports _ v), fun hm => ?_, fun hm => ?_⟩
    · have hplaces : v.places = false := by
        rcases hm with hm | hm <;> simp [RestoreParts.places, hm]
      rw [restore_of_stages hplaces, hset]
      exact ⟨rfl, rfl⟩
    · have hplaces : v.places = true := by
        rcases hm with hm | hm <;> simp [RestoreParts.places, hm]
      have hne : l ≠ [] := by
        rw [hset, RestoreParts.set]
        split <;> simp [hnonempty]
      have hold : (((s.setPort p q).restore v).reply p r .done (beBytes 4 l.length)).hold =
          { s.hold with history := placedSet l, staging := [] } := by
        rw [restore_of_places hplaces, hset]
        rfl
      have htb : (((s.setPort p q).restore v).reply p r .done (beBytes 4 l.length)).tb =
          { s.tb with
            yFree := meanOfMeans (newestClean 16 (placedSet l))
            steer := clampTo s.lp.yMax (meanOfMeans (newestClean 16 (placedSet l))) } := by
        rw [restore_of_places hplaces, hset]
        rfl
      rw [hold, htb]
      exact ⟨rfl, by simp [placedSet], fun x hx => placedSet_records hrise hx, placedSet_newest hne,
        placedSet_means l, fun hsmall hclean => placedSet_meanOfMeans hsmall hclean, rfl⟩

end Sys2Proof.Machine
end

section
/-! Refused requests (R177): what each refusal leaves, the bodies that do not parse, and the checks that come first. -/

namespace Sys2Proof.Machine
open ReferenceInputs

/-! ### A refusal -/

/-- The command takes the oldest request of the port and answers it with a refusal alone. -/
def RefusedAlone (c : Instr) (s : State) (p : Port) (r : Request) (q : PortRec) (st : Status) : Prop :=
  ∃ t, exec c s = .next t ∧ s.answered t p r q st [] ∧ OnlyChanges [.ports] s t

section
variable {s : State} {p : Port} {r : Request} {q : PortRec} {st : Status}

/-- A command whose verdict refuses leaves its reply and nothing else (R177, R178). -/
theorem refusedAlone_of_verdict {c : Instr} {code : Nat} {f : List Byte → State → Verdict} (h : s.ready p code r q)
    (hc : exec c s = .next (s.answer p code f)) (hf : f r.body (s.setPort p q) = .refuse st) :
    RefusedAlone c s p r q st := by
  refine ⟨s.setPort p (q.replied r st []), ?_, rfl, by simp⟩
  rw [hc, answer_ready s p code f r q h, hf, conclude_refuse]

/-- The command of a code that names no request is of a code that is not known (10, "Request codes"). -/
theorem knownCode_of_unknownRequest {code : Nat} (h : requestCommand p code = .unknownRequest p) :
    knownCode code = false := by
  unfold requestCommand at h
  split at h
  case h_33 =>
    simp only [imp_false] at *
    simp only [knownCode, Bool.or_eq_false_iff, Bool.and_eq_false_iff, decide_eq_false_iff_not]
    omega
  all_goals cases h

/-- A code that names no request is refused at its execution (R177). -/
theorem refusedAlone_unknownRequest (ho : (s.ports[p]).oldest = some (r, q))
    (hroom : (s.ports[p]).replies.length < 4) (hc : requestCommand p r.code.toNat = .unknownRequest p) :
    RefusedAlone (.unknownRequest p) s p r q .unknownRequest := by
  refine ⟨s.setPort p (q.replied r .unknownRequest []), ?_, rfl, by simp⟩
  show Host.Outcome.next (s.execute p (fun c => !knownCode c) fun _ _ => .refuse .unknownRequest) = _
  rw [execute_ready s p _ _ r q ho (by simp [knownCode_of_unknownRequest hc]) hroom, conclude_refuse]

end

/-! ### Bodies that do not parse -/

theorem parsed_of_isNone {α : Type} {o : Option α} {f : α → Verdict} (h : o.isNone = true) :
    parsed o f = .refuse .malformed := by
  rw [Option.isNone_iff_eq_none.mp h, parsed_none]

theorem parseEmpty_of_ne_nil {b : List Byte} (h : b ≠ []) : (parseEmpty b).isNone = true := by
  cases b with
  | nil => exact absurd rfl h
  | cons x b => rfl

theorem parseByte_singleton (x : Byte) : parseByte [x] = some (x.toNat : Int) := by
  simp [parseByte, parseBody, parseFront, PartSpec.need, takeParts, takePart, takeValues, takeValue, partNeed,
    partValue, beNat]

/-- A value of one byte needs a body of one byte. -/
theorem parseByte_of_length {b : List Byte} (h : b.length ≠ 1) : (parseByte b).isNone = true := by
  match b with
  | [] => rfl
  | [x] => exact absurd rfl h
  | x :: y :: more => rfl

/-- On or off is the byte 1 or 0. -/
theorem parseForce_of_ne {b : List Byte} (hoff : b ≠ [0]) (hon : b ≠ [1]) : (parseForce b).isNone = true := by
  by_cases hlength : b.length = 1
  · obtain ⟨x, rfl⟩ := List.length_eq_one_iff.mp hlength
    have hx0 : x.toNat ≠ 0 := fun e => hoff (congrArg (fun y => [y]) (BitVec.eq_of_toNat_eq (y := 0#8) e))
    have hx1 : x.toNat ≠ 1 := fun e => hon (congrArg (fun y => [y]) (BitVec.eq_of_toNat_eq (y := 1#8) e))
    have code : switchOfCode (x.toNat : Int) = none := by
      rw [switchOfCode, if_neg (by omega), if_neg (by omega)]
    simp [parseForce, parseByte_singleton, code]
  · simp [parseForce, Option.isNone_iff_eq_none.mp (parseByte_of_length hlength)]

/-! ### The steering authority, before the body or after it (R91, R100, R187) -/

section
variable {s : State} {p : Port} {r : Request} {q : PortRec}

theorem notHolder_of_ne (h : s.holder ≠ some p) : s.notHolder p = true := decide_eq_true h

/-- A request whose body comes first is refused MALFORMED without it, NOT_HOLDER with it. -/
theorem parsed_notHolder {α : Type} {o : Option α} {g : α → Verdict} (h : s.holder ≠ some p) :
    parsed o (fun v => refuseIf (s.notHolder p) .notHolder (g v)) =
      .refuse (if o.isSome then .notHolder else .malformed) := by
  cases o with
  | none => rfl
  | some v => rw [parsed_some, notHolder_of_ne h, refuseIf_true]; rfl

/-- A request of the holder whose authority comes first is refused by its body. -/
theorem holder_parsed {α : Type} {o : Option α} {f : α → Verdict} (h : s.holder = some p) (ho : o.isNone = true) :
    refuseIf (s.notHolder p) .notHolder (parsed o f) = .refuse .malformed := by
  rw [notHolder_of_holder h, refuseIf_false, parsed_of_isNone ho]

/-- A request whose authority comes first is refused for want of it, whatever its body. -/
theorem refuseIf_notHolder {v : Verdict} (h : s.holder ≠ some p) :
    refuseIf (s.notHolder p) .notHolder v = .refuse .notHolder := by
  rw [notHolder_of_ne h, refuseIf_true]

end

/-! ### The table of requests -/

section
variable {s : State} {p : Port} {r : Request} {q : PortRec} {l : List (Nat × Bool)}

/-- What holds of each row of a table of codes holds of the row that is taken. -/
theorem refusedAlone_of_rows {code : Nat} {b : Bool} {st : Bool → Status} (h : s.ready p code r q) (hm : (code, b) ∈ l)
    (hl : ∀ x ∈ l, s.ready p x.1 r q → x.2 = b → RefusedAlone (requestCommand p x.1) s p r q (st x.2)) :
    RefusedAlone (requestCommand p code) s p r q (st b) := hl _ hm h rfl

/-- A request whose body comes first and does not parse (R177). -/
theorem refusedAlone_of_isNone {α : Type} {o : Option α} {g : α → Verdict} {c : Instr} {code : Nat}
    {f : List Byte → State → Verdict} (h : s.ready p code r q) (hc : exec c s = .next (s.answer p code f))
    (hf : f r.body (s.setPort p q) = parsed o g) (ho : o.isNone = true) : RefusedAlone c s p r q .malformed :=
  refusedAlone_of_verdict h hc (hf.trans (parsed_of_isNone ho))

end

/-- Settles O58: the codes one by one, each by what its verdict checks first. -/
theorem refusedRequestsHaveNoEffect : Obligations.RefusedRequestsHaveNoEffect := by
  unfold Obligations.RefusedRequestsHaveNoEffect
  refine ⟨fun p s r q ho hroom hc => refusedAlone_unknownRequest ho hroom hc, fun p s r q code h hm => ?_,
    fun p s r q code b h hh hm => ?_⟩
  · refine refusedAlone_of_rows (st := fun _ => .malformed) h hm ?_
    simp only [List.forall_mem_cons, List.not_mem_nil, false_imp_iff, forall_const, and_true, Bool.and_eq_true,
      decide_eq_true_eq]
    exact ⟨
      -- 16 to 19: the timebase
      (refusedAlone_of_isNone · rfl rfl ·), (refusedAlone_of_isNone · rfl rfl ·),
      (refusedAlone_of_isNone · rfl rfl ·), (refusedAlone_of_isNone · rfl rfl ·),
      -- 32 to 36: the references and the selector
      (refusedAlone_of_isNone · rfl rfl ·), (refusedAlone_of_isNone · rfl rfl ·),
      (refusedAlone_of_isNone · rfl rfl ·), (refusedAlone_of_isNone · rfl rfl ·),
      (refusedAlone_of_isNone · rfl rfl ·),
      -- 48 to 51: the loop and the holdover unit; the last two check the holder first
      (refusedAlone_of_isNone · rfl rfl ·), (refusedAlone_of_isNone · rfl rfl ·),
      fun h hb => refusedAlone_of_verdict h rfl (holder_parsed (s := s.setPort p q) hb.1 hb.2),
      fun h hb =>
        refusedAlone_of_verdict h rfl (holder_parsed (s := s.setPort p q) hb.1.1 (parseForce_of_ne hb.1.2 hb.2)),
      -- 64 to 70: the outputs and the emission table; 67 to 69 name an entry in one byte
      (refusedAlone_of_isNone · rfl rfl ·), (refusedAlone_of_isNone · rfl rfl ·),
      (refusedAlone_of_isNone · rfl rfl ·), (refusedAlone_of_isNone · rfl rfl <| parseByte_of_length ·),
      (refusedAlone_of_isNone · rfl rfl <| parseByte_of_length ·),
      (refusedAlone_of_isNone · rfl rfl <| parseByte_of_length ·), (refusedAlone_of_isNone · rfl rfl ·),
      -- 80 to 82: the profiles and the drops
      (refusedAlone_of_isNone · rfl rfl ·), (refusedAlone_of_isNone · rfl rfl ·),
      (refusedAlone_of_isNone · rfl rfl ·),
      -- 96 to 100: the alarms and the notices
      (refusedAlone_of_isNone · rfl rfl ·), (refusedAlone_of_isNone · rfl rfl ·),
      (refusedAlone_of_isNone · rfl rfl ·), (refusedAlone_of_isNone · rfl rfl ·),
      -- 112 to 114: the authority and the port
      (refusedAlone_of_isNone · rfl rfl <| parseByte_of_length ·),
      (refusedAlone_of_isNone · rfl rfl <| parseEmpty_of_ne_nil ·), (refusedAlone_of_isNone · rfl rfl ·)⟩
  · refine refusedAlone_of_rows (st := fun b => if b then .notHolder else .malformed) h hm ?_
    simp only [List.forall_mem_cons, List.not_mem_nil, false_imp_iff, forall_const, and_true]
    have unheld : (s.setPort p q).holder ≠ some p := hh
    exact ⟨
      -- 18, 19, 33, 35, 36, 48: the body first
      fun h _ => refusedAlone_of_verdict h rfl (parsed_notHolder unheld),
      fun h _ => refusedAlone_of_verdict h rfl (parsed_notHolder unheld),
      fun h _ => refusedAlone_of_verdict h rfl (parsed_notHolder unheld),
      fun h _ => refusedAlone_of_verdict h rfl (parsed_notHolder unheld),
      fun h _ => refusedAlone_of_verdict h rfl (parsed_notHolder unheld),
      fun h _ => refusedAlone_of_verdict h rfl (parsed_notHolder unheld),
      -- 50, 51: the holder first
      fun h _ => refusedAlone_of_verdict h rfl (refuseIf_notHolder unheld),
      fun h _ => refusedAlone_of_verdict h rfl (refuseIf_notHolder unheld),
      -- 64, 80, 96: the body first
      fun h _ => refusedAlone_of_verdict h rfl (parsed_notHolder unheld),
      fun h _ => refusedAlone_of_verdict h rfl (parsed_notHolder unheld),
      fun h _ => refusedAlone_of_verdict h rfl (parsed_notHolder unheld)⟩

end Sys2Proof.Machine
end

section
/-! The emission table (O10): what its soundness reads of a state, and the operations of the drops, of the scheduler and
of the timebase that leave that alone. -/

namespace Sys2Proof.Machine

/-- What the soundness of the table reads of an entry: its state, its owner and its fields. -/
def Entry.form (e : Entry) : EntryState × Port × EntryFields := (e.state, e.owner, e.fields)

/-- What it reads of a state: the form of each entry, and the owner of each output. -/
def State.table (s : State) : (EntryIx → Option (EntryState × Port × EntryFields)) × (Output → Option Port) :=
  (fun i => (s.entries[i]).map Entry.form, s.outputOwner)

/-- Every field of State but those that hold entries and outputs. -/
def Field.exceptTable : List Field :=
  [.counter, .residue, .secondOwed, .msOwed, .loCycles, .osc, .straps, .tb, .lp, .hp, .loop, .hold, .ta, .fq, .ofs,
    .aligned, .refs, .conflicts, .sel, .profiles, .sched, .alarms, .views, .ports, .holder, .waitList, .pending]

@[simp] theorem Field.mem_exceptTable (f : Field) :
    f ∈ Field.exceptTable ↔ f ≠ .entries ∧ f ≠ .px ∧ f ≠ .drops := by
  cases f <;> decide

variable {s t : State}

theorem outputOwner_congr (hdrops : ∀ d : DropIx, (t.drops[d]).owner = (s.drops[d]).owner)
    (hpx : ∀ x : Px, (t.px[x]).owner = (s.px[x]).owner) : t.outputOwner = s.outputOwner := by
  funext o
  cases o with
  | drop d => exact hdrops d
  | px x => exact hpx x

theorem table_congr (hentries : ∀ i : EntryIx, (t.entries[i]).map Entry.form = (s.entries[i]).map Entry.form)
    (hdrops : ∀ d : DropIx, (t.drops[d]).owner = (s.drops[d]).owner)
    (hpx : ∀ x : Px, (t.px[x]).owner = (s.px[x]).owner) : t.table = s.table :=
  Prod.ext (funext hentries) (outputOwner_congr hdrops hpx)

/-- What changes neither entries nor outputs leaves the table. -/
theorem table_frame (k : OnlyChanges Field.exceptTable s t) : t.table = s.table := by
  have entries : t.entries = s.entries := k .entries (by decide)
  have drops : t.drops = s.drops := k .drops (by decide)
  have px : t.px = s.px := k .px (by decide)
  exact table_congr (by simp [entries]) (by simp [drops]) (by simp [px])

/-! ### The table read -/

theorem form_eq_iff {e x : Entry} :
    e.form = x.form ↔ e.state = x.state ∧ e.owner = x.owner ∧ e.fields = x.fields := by
  simp [Entry.form]

/-- An entry of one state stands, but for its counts, in another with the same table. -/
theorem entry_of_table (k : t.table = s.table) {i : EntryIx} {e : Entry} (he : t.entries[i] = some e) :
    ∃ x, s.entries[i] = some x ∧ x.form = e.form := by
  have h : (t.entries[i]).map Entry.form = (s.entries[i]).map Entry.form := congrFun (congrArg Prod.fst k) i
  rw [he, Option.map_some] at h
  exact Option.map_eq_some_iff.mp h.symm

theorem owner_of_table (k : t.table = s.table) (o : Output) : t.outputOwner o = s.outputOwner o :=
  congrFun (congrArg Prod.snd k) o

theorem linkSound_of_link_anchor {e : Entry} {period offset : Nat} {start stop : Option Nat}
    (h : e.fields.link = .anchor period offset start stop) : s.linkSound e := by
  simp [State.linkSound, h]

/-- The link of a relative is sound by the anchor that it follows. -/
theorem linkSound_relative_iff {e : Entry} {a : EntryIx} {rel : Int} {divider phase : Nat}
    (h : e.fields.link = .relative a rel divider phase) :
    s.linkSound e ↔ ∃ anchor, s.entries[a] = some anchor ∧ anchor.anchorPeriod.isSome ∧ anchor.owner = e.owner ∧
      (e.planned = true → anchor.planned = true) := by
  simp [State.linkSound, h]

theorem planned_of_form {e x : Entry} (h : e.form = x.form) : e.planned = x.planned := by
  rw [form_eq_iff] at h
  simp [Entry.planned, h.1]

theorem anchorPeriod_of_form {e x : Entry} (h : e.form = x.form) : e.anchorPeriod = x.anchorPeriod := by
  rw [form_eq_iff] at h
  simp [Entry.anchorPeriod, h.2.2]

/-- The soundness of the table is that of what it reads. -/
theorem State.tableSound.same (h : s.tableSound) (k : t.table = s.table) : t.tableSound := by
  intro i e he
  obtain ⟨x, hx, form⟩ := entry_of_table k he
  obtain ⟨howner, hlink⟩ := h i x hx
  obtain ⟨-, owner, fields⟩ := form_eq_iff.mp form
  refine ⟨by rw [owner_of_table k, ← fields, ← owner, howner], ?_⟩
  cases hl : e.fields.link with
  | anchor period offset start stop => exact linkSound_of_link_anchor hl
  | relative a rel divider phase =>
    rw [linkSound_relative_iff (fields ▸ hl)] at hlink
    obtain ⟨anchor, ha, hperiod, hown, hplanned⟩ := hlink
    obtain ⟨y, hy, yform⟩ := entry_of_table k.symm ha
    refine (linkSound_relative_iff hl).mpr ⟨y, hy, ?_, ?_, ?_⟩
    · rwa [anchorPeriod_of_form yform]
    · rw [(form_eq_iff.mp yform).2.1, hown, owner]
    · rwa [planned_of_form yform, ← planned_of_form form]

/-! ### Blocks set -/

/-- From one state to the next the table stands. -/
def SameTable (a s : State) : Prop := s.table = a.table

namespace SameTable

variable {a s t : State} {d : DropIx}

theorem refl (s : State) : SameTable s s := rfl

theorem trans (h : SameTable a s) (k : SameTable s t) : SameTable a t := Eq.trans k h

/-- What changes neither entries nor outputs leaves the table. -/
theorem frame (h : SameTable a s) (k : OnlyChanges Field.exceptTable s t) : SameTable a t :=
  h.trans (table_frame k)

theorem withDrops (h : SameTable a s) {v : Vector DropRec 8} (hv : ∀ d : DropIx, (v[d]).owner = (s.drops[d]).owner) :
    SameTable a { s with drops := v } :=
  h.trans (table_congr (fun _ => rfl) hv fun _ => rfl)

theorem withPx (h : SameTable a s) {v : Vector PulseOut 6} (hv : ∀ x : Px, (v[x]).owner = (s.px[x]).owner) :
    SameTable a { s with px := v } :=
  h.trans (table_congr (fun _ => rfl) (fun _ => rfl) hv)

theorem withEntries (h : SameTable a s) {v : Vector (Option Entry) 64}
    (hv : ∀ i : EntryIx, (v[i]).map Entry.form = (s.entries[i]).map Entry.form) :
    SameTable a { s with entries := v } :=
  h.trans (table_congr hv (fun _ => rfl) fun _ => rfl)

theorem setDrop (h : SameTable a s) {r : DropRec} (hr : r.owner = (s.drops[d]).owner) :
    SameTable a (s.setDrop d r) :=
  h.withDrops fun j => by
    by_cases hj : j = d
    · subst hj
      simpa using hr
    · simp [Fin.val_inj, Ne.symm hj]

theorem setPx (h : SameTable a s) {x : Px} {r : PulseOut} (hr : r.owner = (s.px[x]).owner) :
    SameTable a (s.setPx x r) :=
  h.withPx fun j => by
    by_cases hj : j = x
    · subst hj
      simpa using hr
    · simp [Fin.val_inj, Ne.symm hj]

theorem withCounter (h : SameTable a s) {c : Reading} : SameTable a { s with counter := c } := h

theorem setSched (h : SameTable a s) {x : Scheduler} : SameTable a (s.setSched x) := h

theorem notifyOwner (h : SameTable a s) {o : Option Port} {n : Notice} : SameTable a (s.notifyOwner o n) :=
  h.frame (by simp)

theorem reachInstant (h : SameTable a s) {i : Nat} : SameTable a (s.reachInstant i) := h.frame (by simp)

theorem syncAlarms (h : SameTable a s) : SameTable a s.syncAlarms := h.frame (by simp)

/-- A loop leaves the table when each of its turns does. -/
theorem forEach {n : Nat} {f : Fin n → State → State} (h : SameTable a s)
    (hf : ∀ i u, SameTable a u → SameTable a (f i u)) : SameTable a (Machine.forEach n s f) :=
  forEach_invariant n s f (SameTable a) hf h

/-! ### Drops -/

theorem reformDelay (h : SameTable a s) : SameTable a (s.reformDelay d) := by
  unfold State.reformDelay
  dsimp only
  split
  · apply notifyOwner
    exact h.setDrop rfl
  · exact h.setDrop rfl

theorem moveDrop (h : SameTable a s) {r : DropRec} (hr : r.owner = (s.drops[d]).owner) :
    SameTable a (s.moveDrop d r) := by
  unfold State.moveDrop
  split
  · exact h.setDrop hr
  · exact .notifyOwner (.setDrop h hr)

theorem enterSeeking (h : SameTable a s) : SameTable a (s.enterSeeking d) := .reformDelay (h.moveDrop rfl)

theorem disableDrop (h : SameTable a s) : SameTable a (s.disableDrop d) := by
  unfold State.disableDrop
  split
  · exact h
  · exact .reformDelay (h.moveDrop rfl)

theorem enableDrop (h : SameTable a s) : SameTable a (s.enableDrop d) := by
  unfold State.enableDrop
  split
  · exact h
  · exact .enterSeeking (h.setDrop rfl)

theorem countFailure_owner (r : DropRec) (c : FailCause) : (r.countFailure c).owner = r.owner := by cases c <;> rfl

theorem failExchange (h : SameTable a s) {c : FailCause} : SameTable a (s.failExchange d c) := by
  unfold State.failExchange
  dsimp only
  split
  · exact h.setDrop (countFailure_owner _ c)
  · split
    · exact .enterSeeking (h.setDrop (countFailure_owner _ c))
    · exact h.setDrop (countFailure_owner _ c)

theorem joinRing (h : SameTable a s) {r : Int} : SameTable a (s.joinRing d r) := by
  have joined : SameTable a ((s.setDrop d
      { s.drops[d] with ring := pushBounded Config.ringMax (s.drops[d]).ring r, failRun := 0 }).reformDelay d) :=
    .reformDelay (h.setDrop rfl)
  unfold State.joinRing
  dsimp only
  split
  · exact joined.moveDrop rfl
  · exact joined

theorem takeEcho (h : SameTable a s) {t1 t4 : Nat} {maxRtt : Int} {t2 t3 : Nat} {st : UnitStatus} :
    SameTable a (s.takeEcho d t1 t4 maxRtt t2 t3 st) := by
  have answered {valid : Bool} {t : State} (ht : SameTable a t) {r : Int} :
      SameTable a (if st = .restarting then t.enterSeeking d
        else if valid then t.joinRing d r else t.failExchange d .range) := by
    split
    · exact ht.enterSeeking
    · split
      · exact ht.joinRing
      · exact ht.failExchange
  unfold State.takeEcho
  refine answered (h.setDrop ?_)
  split <;> rfl

theorem takeJoin (h : SameTable a s) {identity : Nat} {compact : Bool} {st : UnitStatus} :
    SameTable a (s.takeJoin d identity compact st) := by
  unfold State.takeJoin
  dsimp only
  split
  · split
    · exact h.setDrop rfl
    · exact h.moveDrop rfl
  · exact h

theorem handTurnOut (h : SameTable a s) : SameTable a (s.handTurnOut d) := by
  unfold State.handTurnOut
  split
  · split
    case h_1 => exact h.setDrop rfl
    case h_2 => exact h.setDrop rfl
    all_goals exact h
  · exact h

theorem turnLimitPasses (h : SameTable a s) : SameTable a (s.turnLimitPasses d) := by
  have back : SameTable a (s.setDrop d (s.drops[d]).turnBack) := h.setDrop rfl
  unfold State.turnLimitPasses
  split
  · exact h
  · dsimp only
    split
    · exact back.failExchange
    · exact back

theorem settleLine (h : SameTable a s) : SameTable a (s.settleLine d) := by
  have turned {t : State} (ht : SameTable a t) : SameTable a (match (t.drops[d]).turn with
      | .isIn => t
      | .out start _ limit _ _ =>
        if limit < elapsed start t.counter.instant then t.turnLimitPasses d else t) := by
    split
    · exact ht
    · split
      · exact ht.turnLimitPasses
      · exact ht
  unfold State.settleLine
  apply turned
  split
  · split
    · exact h.handTurnOut
    · exact h
  · exact h

theorem stopMessage_owner (r : DropRec) (k : SentKind) : (r.stopMessage k).owner = r.owner := by
  unfold DropRec.stopMessage
  split
  · rfl
  all_goals split <;> rfl

theorem contend (h : SameTable a s) : SameTable a (s.contend d) := by
  have failed {r : DropRec} (hr : r.owner = (s.drops[d]).owner) :
      SameTable a (if r.state = .calibrating ∨ r.state = .serving then (s.setDrop d r).failExchange d .contention
        else s.setDrop d r) := by
    split
    · exact .failExchange (h.setDrop hr)
    · exact h.setDrop hr
  unfold State.contend
  apply failed
  split
  · exact stopMessage_owner _ _
  · rfl

theorem activityBegins (h : SameTable a s) : SameTable a (s.activityBegins d) := by
  unfold State.activityBegins
  dsimp only
  split
  · exact h.settleLine
  · exact h.settleLine.contend

theorem unitFirstByte (h : SameTable a s) : SameTable a (s.unitFirstByte d) := by
  unfold State.unitFirstByte
  dsimp only
  split
  · exact h.settleLine.activityBegins
  · split
    · exact h.settleLine
    · exact h.settleLine.setDrop rfl

theorem unitMessage (h : SameTable a s) {bytes : List Byte} : SameTable a (s.unitMessage d bytes) := by
  have back : SameTable a ((s.settleLine d).setDrop d ((s.settleLine d).drops[d]).turnBack) :=
    h.settleLine.setDrop rfl
  unfold State.unitMessage
  dsimp only
  split
  · split
    · exact back.failExchange
    · exact back.failExchange
    · exact back.takeEcho
    · exact back.takeJoin
    · exact back
    · exact back
  · exact h.settleLine

theorem lineIdle (h : SameTable a s) : SameTable a (s.lineIdle d) := h.settleLine.setDrop rfl

theorem tickDrops (h : SameTable a s) : SameTable a s.tickDrops := h.withDrops fun d => by rw [mapAll_get]

theorem dropsAtStep (h : SameTable a s) {amount : Int} : SameTable a (s.dropsAtStep amount) :=
  h.withDrops fun d => by
    rw [mapAll_get]
    rfl

theorem dropAtFault (h : SameTable a s) : SameTable a (s.dropAtFault d) := by
  have back : SameTable a (s.setDrop d (s.drops[d]).turnBack) := h.setDrop rfl
  unfold State.dropAtFault
  dsimp only
  split
  · exact back.enterSeeking
  · exact back

theorem dropsAtFault (h : SameTable a s) : SameTable a s.dropsAtFault := h.forEach fun _ _ hu => hu.dropAtFault

/-! ### Planning and release -/

/-- A change of an entry's counts leaves its form. -/
theorem changeEntry (h : SameTable a s) {i : EntryIx} {f : Entry → Entry} (hf : ∀ e, (f e).form = e.form) :
    SameTable a (s.changeEntry i f) := by
  unfold State.changeEntry
  split
  · next e he =>
    refine h.withEntries fun j => ?_
    by_cases hj : j = i
    · subst hj
      have same : s.entries[j.val] = some e := he
      simp [same, hf]
    · simp [Fin.val_inj, Ne.symm hj]
  · exact h

theorem countSuppressed (h : SameTable a s) {i : EntryIx} : SameTable a (s.changeEntry i Entry.countSuppressed) :=
  h.changeEntry fun _ => rfl

variable {p : Planning}

theorem hard (h : SameTable a p.s) {g : Gathered} : SameTable a (p.hard g).s := by
  unfold Planning.hard
  split
  · exact h.countSuppressed
  · split
    · exact h.setSched
    · apply setSched
      exact h.changeEntry fun _ => rfl

theorem recordPlaced_owner (r : DropRec) (x : Announcement) : (r.recordPlaced x).owner = r.owner := by
  unfold DropRec.recordPlaced
  split <;> rfl

theorem placeSoft (h : SameTable a p.s) {units : Nat} {k : SoftKind} : SameTable a (p.placeSoft d units k).s := h

theorem placeAnnouncement (h : SameTable a p.s) {x : Announcement} : SameTable a (p.placeAnnouncement d x).s :=
  SameTable.setDrop (s := (p.placeSoft d x.units (.announce x)).s) h.placeSoft (recordPlaced_owner _ x)

theorem urgent (h : SameTable a p.s) : SameTable a (p.urgent d).s := by
  unfold Planning.urgent
  split
  · split
    · exact h.placeAnnouncement
    · exact h
  · exact h

theorem trickle (h : SameTable a p.s) : SameTable a (p.trickle d).s := by
  unfold Planning.trickle
  split
  · split
    · exact h.placeAnnouncement
    · exact h
  · exact h

theorem exchange (h : SameTable a p.s) : SameTable a (p.exchange d).s := by
  unfold Planning.exchange
  split
  · split
    · exact h.placeSoft
    · exact h
  · exact h

/-- A pass leaves the table when each of its turns does. -/
theorem turns {α : Type} {f : Planning → α → Planning} (h : SameTable a p.s)
    (hf : ∀ q x, SameTable a q.s → SameTable a (f q x).s) (l : List α) : SameTable a (l.foldl f p).s := by
  induction l generalizing p with
  | nil => exact h
  | cons x l ih => exact ih (hf p x h)

theorem plan (h : SameTable a s) {ahead : Nat} {spent : Budget} : SameTable a (s.plan ahead spent).s := by
  have begun : SameTable a (s.beginPlanning (s.windowStart ahead) spent).s := h
  refine .turns (.turns (.turns (.turns begun ?_ _) ?_ _) ?_ _) ?_ _
  · exact fun _ _ hq => hq.hard
  · exact fun _ _ hq => hq.urgent
  · exact fun _ _ hq => hq.trickle
  · exact fun _ _ hq => hq.exchange

theorem setSpent (h : SameTable a s) {now next : Budget} : SameTable a (s.setSpent now next) := h

theorem planNext (h : SameTable a s) : SameTable a s.planNext := .setSpent h.plan

theorem planAtOnce (h : SameTable a s) {spent : Budget} : SameTable a (s.planAtOnce spent) :=
  .setSpent h.plan.plan

theorem countWithdrawn (h : SameTable a s) {l : List HardItem} : SameTable a (s.countWithdrawn l) := by
  unfold State.countWithdrawn
  induction l generalizing s with
  | nil => exact h
  | cons x l ih => exact ih h.countSuppressed

theorem withdraw (h : SameTable a s) {q : EntryIx → Bool} : SameTable a (s.withdraw q) := h.countWithdrawn.setSched

theorem unplace (h : SameTable a s) {x : SoftItem} : SameTable a (s.unplace x) := by
  unfold State.unplace
  split
  · exact h.setDrop rfl
  · exact h
  · exact h

theorem unplaceAll (h : SameTable a s) {l : List SoftItem} : SameTable a (l.foldl State.unplace s) := by
  induction l generalizing s with
  | nil => exact h
  | cons x l ih => exact ih h.unplace

theorem discardPlans (h : SameTable a s) : SameTable a s.discardPlans := h.countWithdrawn.unplaceAll.setSched

theorem drive_owner (x : PulseOut) (transmit width : Nat) : (x.drive transmit width).owner = x.owner := by
  unfold PulseOut.drive
  dsimp only
  split <;> rfl

theorem emit (h : SameTable a s) {x : HardItem} : SameTable a (s.emit x) := by
  unfold State.emit
  split
  · exact h.setDrop rfl
  · exact h.setPx (drive_owner _ _ _)

theorem settleTarget (h : SameTable a s) {o : Output} : SameTable a (s.settleTarget o) := by
  cases o with
  | drop d => exact h.settleLine
  | px x => exact h

theorem releaseItem (h : SameTable a s) {x : HardItem} : SameTable a (s.releaseItem x) := by
  unfold State.releaseItem
  split
  · exact h.countSuppressed
  · exact h.emit.changeEntry fun _ => rfl

theorem releaseHard (h : SameTable a s) {n : EntryIx} : SameTable a (s.releaseHard n) := by
  unfold State.releaseHard
  split
  · exact .releaseItem (.settleTarget (.reachInstant h.setSched))
  · exact h

theorem endPulse (h : SameTable a s) {x : Px} : SameTable a (s.endPulse x) := by
  unfold State.endPulse
  split
  · next u _ =>
    have same : (s.reachInstant u).px = s.px :=
      (show OnlyChanges [.counter, .secondOwed, .msOwed] s (s.reachInstant u) by simp) .px (by decide)
    exact .setPx h.reachInstant (by rw [same])
  · exact h

theorem released_owner (r : DropRec) (k : SoftKind) : (r.released k).owner = r.owner := by cases k <;> rfl

theorem releaseSoftItem (h : SameTable a s) {x : SoftItem} : SameTable a (s.releaseSoftItem x) := by
  unfold State.releaseSoftItem
  dsimp only
  split <;> split <;> exact h.setDrop (released_owner _ _)

theorem releaseSoft (h : SameTable a s) : SameTable a (s.releaseSoft d) := by
  unfold State.releaseSoft
  split
  · exact .releaseSoftItem (.settleLine (.reachInstant h.setSched))
  · exact h

/-! ### FAULT (R13, R14) -/

theorem enterFault (h : SameTable a s) : SameTable a s.enterFault := by
  unfold State.enterFault
  split
  · exact h
  · have refs : SameTable a s.timebaseAtFault.frontEndAtFault.refsAtFault.reevaluate := h.frame (by simp)
    exact (refs.withPx fun x => by rw [mapAll_get]).discardPlans.dropsAtFault

theorem judgeLost (h : SameTable a s) : SameTable a s.judgeLost := .enterFault (s := s.setOsc _) h

theorem judgeGood (h : SameTable a s) : SameTable a s.judgeGood := by
  unfold State.judgeGood State.returnToWarmup
  split
  · exact .planAtOnce (h.frame (by simp))
  · exact h

theorem gateEnds (h : SameTable a s) {edges : Nat} : SameTable a (s.gateEnds edges) := by
  have gate : SameTable a ((s.reachMonitor s.osc.gateEnd).setOsc (s.reachMonitor s.osc.gateEnd).osc.nextGate) := h
  unfold State.gateEnds
  dsimp only
  split
  · split
    · exact gate
    · exact gate.judgeLost
  · split
    · split
      · exact gate.judgeGood
      · exact gate
    · exact gate

theorem edgeGap (h : SameTable a s) : SameTable a s.edgeGap := by
  unfold State.edgeGap
  dsimp only
  split
  · exact .judgeLost (s := s.setOsc _) h
  · exact h

/-! ### A counter millisecond (R117) -/

theorem atBoundary (h : SameTable a s) {c : Reading} {m : MsOwed} :
    SameTable a { s with counter := c, msOwed := m } := h

theorem takeMillisecond (h : SameTable a s) : SameTable a s.takeMillisecond := by
  have ticked := (h.atBoundary (c := Reading.at s.oldestMillisecond 0)
    (m := { boundaries := s.msOwed.boundaries - 1, planned := s.msOwed.planned - 1 })).tickDrops
  unfold State.takeMillisecond
  apply withCounter
  split
  · exact ticked.planNext.syncAlarms
  · exact ticked.syncAlarms

theorem millisecondBoundary (h : SameTable a s) : SameTable a s.millisecondBoundary := by
  unfold State.millisecondBoundary
  split
  · exact h
  · exact .takeMillisecond (h.frame (by simp))

end SameTable

end Sys2Proof.Machine
end

section
/-! The emission table (O10): the operations that move entries, and those that define, change and free them. -/

namespace Sys2Proof.Machine

variable {s t : State}

/-! ### Relatives -/

theorem follows_iff {e : Entry} {a : EntryIx} :
    e.follows a = true ↔ ∃ rel divider phase, e.fields.link = .relative a rel divider phase := by
  unfold Entry.follows
  split
  · next h => simp [h]
  · next h => simp [h]

theorem hasRelative_iff {i : EntryIx} :
    s.hasRelative i = true ↔ ∃ (j : EntryIx) (x : Entry), s.entries[j] = some x ∧ x.follows i = true := by
  unfold State.hasRelative
  rw [anyIndex_iff]
  refine exists_congr fun j => ?_
  split
  · next x hx => simp [hx]
  · next hx => simp [hx]

theorem hasRelative_eq_false {i : EntryIx} :
    s.hasRelative i = false ↔ ∀ (j : EntryIx) (x : Entry), s.entries[j] = some x → x.follows i = false := by
  simp [← Bool.not_eq_true, hasRelative_iff]

/-- An anchor follows nothing. -/
theorem anchor_follows {e : Entry} (h : e.anchorPeriod.isSome) (a : EntryIx) : e.follows a = false := by
  unfold Entry.anchorPeriod at h
  unfold Entry.follows
  split at h
  · next hl => simp [hl]
  · cases h

/-! ### Trains moved (R113) -/

/-- What the move of an anchor's train makes of the entry at an index. -/
def Entry.inTrain (a : EntryIx) (st : EntryState) (i : EntryIx) (e : Entry) : Entry :=
  if i = a ∨ e.follows a = true then e.moveTo st else e

theorem moveTrain_get (a i : EntryIx) (st : EntryState) :
    (s.moveTrain a st).entries[i] = (s.entries[i]).map (Entry.inTrain a st i) :=
  mapAll_get _ _ i

theorem moveTrain_outputOwner (a : EntryIx) (st : EntryState) (o : Output) :
    (s.moveTrain a st).outputOwner o = s.outputOwner o := by
  simp only [State.outputOwner, State.moveTrain]

section
variable (a i : EntryIx) (st : EntryState) (e : Entry)

@[simp] theorem inTrain_owner : (e.inTrain a st i).owner = e.owner := by
  unfold Entry.inTrain Entry.moveTo
  split
  · split <;> rfl
  · rfl

@[simp] theorem inTrain_fields : (e.inTrain a st i).fields = e.fields := by
  unfold Entry.inTrain Entry.moveTo
  split
  · split <;> rfl
  · rfl

end

/-- One that runs in the train takes the state, and any other entry stands. -/
theorem inTrain_of_planned {a i : EntryIx} {st : EntryState} {e : Entry} (h : e.planned = true) :
    e.inTrain a st i = if i = a ∨ e.follows a = true then { e with state := st } else e := by
  simp [Entry.inTrain, Entry.moveTo, h]

theorem inTrain_of_not_planned {a i : EntryIx} {st : EntryState} {e : Entry} (h : e.planned = false) :
    e.inTrain a st i = e := by
  simp [Entry.inTrain, Entry.moveTo, h]

/-- Nothing runs after a move that did not before. -/
theorem planned_of_inTrain {a i : EntryIx} {st : EntryState} {e : Entry} (h : (e.inTrain a st i).planned = true) :
    e.planned = true := by
  cases hp : e.planned with
  | true => rfl
  | false => rwa [inTrain_of_not_planned hp, hp] at h

theorem anchorPeriod_inTrain (a i : EntryIx) (st : EntryState) (e : Entry) :
    (e.inTrain a st i).anchorPeriod = e.anchorPeriod := by simp [Entry.anchorPeriod]

/-- A relative that runs after a move runs with its anchor. -/
theorem inTrain_planned_anchor {a i b : EntryIx} {st : EntryState} {e anchor : Entry} (hf : e.follows b = true)
    (honly : e.follows a = true → b = a) (hnone : anchor.follows a = false)
    (hplanned : e.planned = true → anchor.planned = true) (h : (e.inTrain a st i).planned = true) :
    (anchor.inTrain a st b).planned = true := by
  have he := planned_of_inTrain h
  rw [inTrain_of_planned he] at h
  rw [inTrain_of_planned (hplanned he)]
  by_cases hb : b = a
  · subst hb
    simpa [hf, Entry.planned] using h
  · simpa [hb, hnone] using hplanned he

namespace State.tableSound

/-- An entry that has a relative is an anchor of the relative's owner, and planned when the relative is (R106, R113). -/
theorem anchor (h : s.tableSound) {i j : EntryIx} {e x : Entry} (he : s.entries[i] = some e)
    (hx : s.entries[j] = some x) (hf : x.follows i = true) :
    e.anchorPeriod.isSome ∧ e.owner = x.owner ∧ (x.planned = true → e.planned = true) := by
  obtain ⟨rel, divider, phase, hl⟩ := follows_iff.mp hf
  obtain ⟨anchor, ha, sound⟩ := (linkSound_relative_iff hl).mp (h j x hx).2
  cases ha.symm.trans he
  exact sound

/-- Only an entry that is not FREE has a relative. -/
theorem exists_anchor (h : s.tableSound) {i j : EntryIx} {x : Entry} (hx : s.entries[j] = some x)
    (hf : x.follows i = true) : ∃ e, s.entries[i] = some e := by
  obtain ⟨rel, divider, phase, hl⟩ := follows_iff.mp hf
  obtain ⟨anchor, ha, -⟩ := (linkSound_relative_iff hl).mp (h j x hx).2
  exact ⟨anchor, ha⟩

/-- No entry follows itself. -/
theorem not_self (h : s.tableSound) {i : EntryIx} {e : Entry} (he : s.entries[i] = some e) : e.follows i = false := by
  cases hf : e.follows i with
  | false => rfl
  | true => exact hf.symm.trans (anchor_follows (h.anchor he he hf).1 i)

/-- The move of a train takes each relative that runs where it takes its anchor. -/
theorem moveTrain (h : s.tableSound) (a : EntryIx) (st : EntryState) : (s.moveTrain a st).tableSound := by
  intro i x hx
  rw [moveTrain_get, Option.map_eq_some_iff] at hx
  obtain ⟨e, he, rfl⟩ := hx
  obtain ⟨howner, hlink⟩ := h i e he
  have fields : e.fields = (e.inTrain a st i).fields := (inTrain_fields a i st e).symm
  refine ⟨by rw [moveTrain_outputOwner, inTrain_owner, ← fields, howner], ?_⟩
  cases hl : e.fields.link with
  | anchor period offset start stop => exact linkSound_of_link_anchor (fields ▸ hl)
  | relative b rel divider phase =>
    obtain ⟨anchor, hb, hperiod, hown, hplanned⟩ := (linkSound_relative_iff hl).mp hlink
    refine (linkSound_relative_iff (fields ▸ hl)).mpr
      ⟨anchor.inTrain a st b, by rw [moveTrain_get, hb, Option.map_some], ?_, ?_, ?_⟩
    · rwa [anchorPeriod_inTrain]
    · simpa using hown
    · have only : e.follows a = true → b = a := fun hf => by simpa [Entry.follows, hl] using hf
      exact inTrain_planned_anchor (follows_iff.mpr ⟨rel, divider, phase, hl⟩) only (anchor_follows hperiod a) hplanned

theorem endTrain (h : s.tableSound) (a : EntryIx) : (s.endTrain a).tableSound :=
  (h.same (table_frame (by simp))).moveTrain a .ended

theorem moveEntries (h : s.tableSound) (ends : Nat → Bool) : (s.moveEntries ends).tableSound := by
  refine forEach_invariant 64 s _ State.tableSound (fun a u hu => ?_) h
  split
  · split
    · exact hu.endTrain a
    · exact hu.moveTrain a _
  · exact hu

/-! ### One entry set -/

theorem setEntry_get (i j : EntryIx) (x : Option Entry) :
    (s.setEntry i x).entries[j] = if j = i then x else s.entries[j] := by
  by_cases hj : j = i
  · subst hj
    simp
  · simp [Fin.val_inj, Ne.symm hj, hj]

/-- An entry may be set to one that is sound by itself and a sound anchor of the relatives that the old one had. -/
theorem setEntry (h : s.tableSound) {i : EntryIx} {e : Entry} (howner : s.outputOwner e.fields.target = some e.owner)
    (hlink : (s.setEntry i (some e)).linkSound e)
    (hrel : ∀ (j : EntryIx) (x : Entry), s.entries[j] = some x → x.follows i = true →
      e.anchorPeriod.isSome ∧ e.owner = x.owner ∧ (x.planned = true → e.planned = true)) :
    (s.setEntry i (some e)).tableSound := by
  intro j x hx
  rw [setEntry_get] at hx
  split at hx
  · cases hx
    exact ⟨howner, hlink⟩
  · refine ⟨(h j x hx).1, ?_⟩
    cases hl : x.fields.link with
    | anchor period offset start stop => exact linkSound_of_link_anchor hl
    | relative b rel divider phase =>
      obtain ⟨anchor, hb, sound⟩ := (linkSound_relative_iff hl).mp (h j x hx).2
      refine (linkSound_relative_iff hl).mpr ?_
      by_cases hbi : b = i
      · exact ⟨e, by simp [hbi], hrel j x hx (follows_iff.mpr ⟨rel, divider, phase, hbi ▸ hl⟩)⟩
      · exact ⟨anchor, by rw [setEntry_get, if_neg hbi, hb], sound⟩

/-- A relative set at an index is sound by an anchor at another. -/
theorem linkSound_setEntry {i a : EntryIx} {e anchor : Entry} {rel : Int} {divider phase : Nat}
    (hl : e.fields.link = .relative a rel divider phase) (ha : s.entries[a] = some anchor) (hne : a ≠ i)
    (hperiod : anchor.anchorPeriod.isSome) (howner : anchor.owner = e.owner)
    (hplanned : e.planned = true → anchor.planned = true) : (s.setEntry i (some e)).linkSound e :=
  (linkSound_relative_iff hl).mpr ⟨anchor, by rw [setEntry_get, if_neg hne, ha], hperiod, howner, hplanned⟩

/-- An entry that no other follows may be freed. -/
theorem freeEntry (h : s.tableSound) {i : EntryIx} (hrel : s.hasRelative i = false) :
    (s.setEntry i none).tableSound := by
  intro j x hx
  rw [setEntry_get] at hx
  split at hx
  · cases hx
  · refine ⟨(h j x hx).1, ?_⟩
    cases hl : x.fields.link with
    | anchor period offset start stop => exact linkSound_of_link_anchor hl
    | relative b rel divider phase =>
      obtain ⟨anchor, hb, sound⟩ := (linkSound_relative_iff hl).mp (h j x hx).2
      have hbi : b ≠ i := fun e => by
        have follows : x.follows i = true := follows_iff.mpr ⟨rel, divider, phase, e ▸ hl⟩
        simp [hasRelative_eq_false.mp hrel j x hx] at follows
      exact (linkSound_relative_iff hl).mpr ⟨anchor, by rw [setEntry_get, if_neg hbi, hb], sound⟩

/-- An entry whose state alone is set stands sound, when its anchor is planned wherever it now is itself, and it is
itself planned wherever a relative of it is. -/
theorem setState (h : s.tableSound) {i : EntryIx} {e : Entry} {st : EntryState} (he : s.entries[i] = some e)
    (hup : ∀ (a : EntryIx) (anchor : Entry), e.follows a = true → s.entries[a] = some anchor →
      { e with state := st }.planned = true → anchor.planned = true)
    (hdown : e.planned = true → { e with state := st }.planned = true) :
    (s.setEntry i (some { e with state := st })).tableSound := by
  refine h.setEntry (h i e he).1 ?_ fun j x hx hf => ?_
  · cases hl : e.fields.link with
    | anchor period offset start stop => exact linkSound_of_link_anchor hl
    | relative a rel divider phase =>
      have follows : e.follows a = true := follows_iff.mpr ⟨rel, divider, phase, hl⟩
      obtain ⟨anchor, ha⟩ := h.exists_anchor he follows
      obtain ⟨hperiod, howner, -⟩ := h.anchor ha he follows
      refine linkSound_setEntry hl ha (fun hai => ?_) hperiod howner (hup a anchor follows ha)
      simp [hai, h.not_self he] at follows
  · obtain ⟨hperiod, howner, hplanned⟩ := h.anchor he hx hf
    exact ⟨hperiod, howner, fun hx => hdown (hplanned hx)⟩

end State.tableSound

end Sys2Proof.Machine
end

section
/-! The emission table (O10): the requests that define, change, start, stop and free entries, and that assign
outputs. -/

namespace Sys2Proof.Machine

variable {s t : State} {p : Port}

/-! ### What the checks of an entry's parts let through (R106, R111) -/

theorem ofCode_of_matchingTarget {kind target : Int} {k : EntryKind} {o : Output}
    (h : matchingTarget kind target = some (k, o)) :
    EntryKind.ofCode kind = some k ∧ Output.ofCode target = some o := by
  unfold matchingTarget at h
  split at h
  · cases h
    exact ⟨‹_›, ‹_›⟩
  · cases h
    exact ⟨‹_›, ‹_›⟩
  · cases h

theorem targetNotOwned_eq_false {target : Int} {o : Output} (h : Output.ofCode target = some o) :
    s.targetNotOwned p target = false ↔ s.outputOwner o = some p := by
  simp [State.targetNotOwned, h]

/-- The anchor that the parts of a relative name stands at another index. -/
theorem anchorOf_eq_some {self : Option EntryIx} {v : Int} {a : EntryIx} {anchor : Entry} {period : Nat}
    (h : s.anchorOf self v = some (a, anchor, period)) :
    indexOf 64 v = some a ∧ s.entries[a] = some anchor ∧ anchor.anchorPeriod = some period ∧ self ≠ some a := by
  unfold State.anchorOf at h
  split at h
  · cases h
  · split at h
    · cases h
    · split at h
      · cases h
      · split at h
        · cases h
        · next hself =>
          cases h
          exact ⟨‹_›, ‹_›, ‹_›, hself⟩

theorem fieldsOf_eq_some {v : EntryParts} {kind : EntryKind} {o : Output} {self : Option EntryIx} {f : EntryFields}
    (h : s.fieldsOf v kind o self = some f) : f.target = o ∧ s.linkOf v kind self = some f.link := by
  unfold State.fieldsOf at h
  split at h
  · next link _ hl _ =>
    cases h
    exact ⟨rfl, hl⟩
  · cases h

/-- The link of a relative comes from an anchor part. -/
theorem linkOf_eq_relative {v : EntryParts} {kind : EntryKind} {self : Option EntryIx} {a : EntryIx} {rel : Int}
    {divider phase : Nat} (h : s.linkOf v kind self = some (.relative a rel divider phase)) :
    ∃ (n : Int) (anchor : Entry) (period : Nat), v.anchor = some n ∧ s.anchorOf self n = some (a, anchor, period) := by
  unfold State.linkOf at h
  split at h
  · unfold EntryParts.anchorLink at h
    split at h
    · cases (Option.ite_none_right_eq_some.mp h).2
    · cases h
  · next n hn =>
    unfold State.relativeLink at h
    split at h
    · next x anchor period _ _ _ ha _ _ _ =>
      split at h
      · cases h
        exact ⟨n, anchor, period, hn, ha⟩
      · cases h
    · cases h

/-- A relative that the checks let through follows an anchor of the port, another entry than itself. -/
theorem anchor_of_fieldsOf {v : EntryParts} {kind : EntryKind} {o : Output} {self : Option EntryIx} {f : EntryFields}
    {a : EntryIx} {rel : Int} {divider phase : Nat} (hf : s.fieldsOf v kind o self = some f)
    (hown : s.anchorNotOwned p v.anchor = false) (hl : f.link = .relative a rel divider phase) :
    ∃ anchor, s.entries[a] = some anchor ∧ anchor.anchorPeriod.isSome ∧ anchor.owner = p ∧ self ≠ some a := by
  obtain ⟨n, anchor, period, hn, ha⟩ := linkOf_eq_relative (hl ▸ (fieldsOf_eq_some hf).2)
  obtain ⟨hindex, hentry, hperiod, hself⟩ := anchorOf_eq_some ha
  refine ⟨anchor, hentry, by simp [hperiod], ?_, hself⟩
  simpa [State.anchorNotOwned, hn, hindex, hentry] using hown

/-- The checks go on to the fields alone when the target is of the kind and the port's, and its anchor too. -/
theorem checkParts_leaves_of {P : State → Prop} {v : EntryParts} {self : Option EntryIx} {f : EntryFields → Verdict}
    (hf : ∀ kind o x, s.outputOwner o = some p → s.anchorNotOwned p v.anchor = false →
      s.fieldsOf v kind o self = some x → (f x).leaves P) : (s.checkParts p v self f).leaves P := by
  refine .refuseIf fun _ => .refuseIf fun hown => .refuseIf fun hanchor => ?_
  split
  · exact .refuse
  · next x hx =>
    obtain ⟨⟨kind, o⟩, hm, hx⟩ := Option.bind_eq_some_iff.mp hx
    exact hf kind o x ((targetNotOwned_eq_false (ofCode_of_matchingTarget hm).2).mp hown) hanchor hx

/-- An entry that a request names is not FREE, and is the port's. -/
theorem checkEntry_leaves_of {P : State → Prop} {v : Int} {f : EntryIx → Entry → Verdict}
    (hf : ∀ i e, s.entries[i] = some e → e.owner = p → (f i e).leaves P) : (s.checkEntry p v f).leaves P := by
  unfold State.checkEntry
  split
  · exact .refuse
  · next i _ =>
    split
    · exact .refuse
    · next e he => exact .refuseIf fun hown => hf i e he (by simpa using hown)

/-! ### Outputs (R109, R110) -/

theorem reclaimed_iff {o : Output} {i : EntryIx} {e : Entry} (he : s.entries[i] = some e) :
    s.reclaimed o i = true ↔ e.fields.target = o ∨
      ∃ a anchor, e.follows a = true ∧ s.entries[a] = some anchor ∧ anchor.fields.target = o := by
  simp only [State.reclaimed, he, Bool.or_eq_true, decide_eq_true_eq]
  refine or_congr_right ?_
  cases hl : e.fields.link with
  | anchor period offset start stop => simp [Entry.follows, hl]
  | relative b rel divider phase =>
    cases hb : s.entries[b] with
    | none => simp [-Fin.getElem_fin, Entry.follows, hl, hb]
    | some anchor => simp [-Fin.getElem_fin, Entry.follows, hl, hb]

theorem outputOwner_setOwner (o x : Output) (owner : Option Port) :
    (s.setOwner o owner).outputOwner x = if x = o then owner else s.outputOwner x := by
  cases o with
  | drop d =>
    cases x with
    | drop j =>
      by_cases hj : j = d
      · subst hj
        simp [State.setOwner, State.outputOwner]
      · simp [State.setOwner, State.outputOwner, hj, Fin.val_inj, Ne.symm hj]
    | px j => simp [State.setOwner, State.outputOwner]
  | px y =>
    cases x with
    | drop j => simp [State.setOwner, State.outputOwner]
    | px j =>
      by_cases hj : j = y
      · subst hj
        simp [State.setOwner, State.outputOwner]
      · simp [State.setOwner, State.outputOwner, hj, Fin.val_inj, Ne.symm hj]

theorem SameTable.setCable {a : State} (h : SameTable a s) {o : Output} {v : Option Int} :
    SameTable a (s.setCable o v) := by
  unfold State.setCable
  split
  · exact h.setPx rfl
  · exact h
  · exact h

@[simp] theorem setOwner_entries (o : Output) (owner : Option Port) : (s.setOwner o owner).entries = s.entries := by
  cases o <;> rfl

theorem targeted_iff {o : Output} :
    s.targeted o = true ↔ ∃ (i : EntryIx) (e : Entry), s.entries[i] = some e ∧ e.fields.target = o := by
  unfold State.targeted
  rw [anyIndex_iff]
  refine exists_congr fun i => ?_
  split
  · next e he => simp [he]
  · next he => simp [he]

theorem takesAway_eq_false {o : Output} {owner : Option Port} :
    s.takesAway o owner = false ↔ s.outputOwner o = owner ∨
      ∀ (i : EntryIx) (e : Entry), s.entries[i] = some e → e.fields.target ≠ o := by
  have : s.targeted o = false ↔ ∀ (i : EntryIx) (e : Entry), s.entries[i] = some e → e.fields.target ≠ o := by
    simp [← Bool.not_eq_true, targeted_iff]
  simp [State.takesAway, this, or_iff_not_imp_left]

/-- The entries after a reclaim: those that are not freed, as they stand but for their counts. -/
theorem freeReclaimed_get (o : Output) (i : EntryIx) :
    (s.freeReclaimed o).entries[i] = if s.reclaimed o i then none else (s.withdraw (s.reclaimed o)).entries[i] :=
  mapAll_get _ _ i

theorem freeReclaimed_outputOwner (o x : Output) : (s.freeReclaimed o).outputOwner x = s.outputOwner x := by
  have same : SameTable s (s.withdraw (s.reclaimed o)) := (SameTable.refl s).withdraw
  rw [← owner_of_table same x]
  simp only [State.outputOwner, State.freeReclaimed]

namespace State.tableSound

/-- An output that no entry targets may be given to any owner. -/
theorem setOwner (h : s.tableSound) {o : Output} {owner : Option Port}
    (hfree : s.outputOwner o = owner ∨ ∀ (i : EntryIx) (e : Entry), s.entries[i] = some e → e.fields.target ≠ o) :
    (s.setOwner o owner).tableSound := by
  intro i e he
  rw [setOwner_entries] at he
  obtain ⟨howner, hlink⟩ := h i e he
  refine ⟨?_, ?_⟩
  · rw [outputOwner_setOwner]
    split
    · next ht =>
      rcases hfree with same | none
      · rw [← same, ← ht, howner]
      · exact absurd ht (none i e he)
    · exact howner
  · unfold State.linkSound at hlink ⊢
    rwa [setOwner_entries]

/-- What a reclaim frees takes every relative of a freed anchor with it (R110). -/
theorem freeReclaimed (h : s.tableSound) (o : Output) : (s.freeReclaimed o).tableSound := by
  have same : SameTable s (s.withdraw (s.reclaimed o)) := (SameTable.refl s).withdraw
  have sound := h.same same
  intro i e he
  rw [freeReclaimed_get] at he
  split at he
  · cases he
  · next hkept =>
    refine ⟨by rw [freeReclaimed_outputOwner, ← owner_of_table same]; exact (sound i e he).1, ?_⟩
    cases hl : e.fields.link with
    | anchor period offset start stop => exact linkSound_of_link_anchor hl
    | relative b rel divider phase =>
      obtain ⟨anchor, hb, hsound⟩ := (linkSound_relative_iff hl).mp (sound i e he).2
      obtain ⟨x, hx, xform⟩ := entry_of_table same he
      obtain ⟨y, hy, yform⟩ := entry_of_table same hb
      have follows : x.follows b = true := by
        rw [follows_iff, (form_eq_iff.mp xform).2.2]
        exact ⟨rel, divider, phase, hl⟩
      have notFollows (a : EntryIx) : y.follows a = false :=
        anchor_follows (h.anchor hy hx follows).1 a
      have kept : ¬ s.reclaimed o b = true := fun hr => hkept <| by
        rcases (reclaimed_iff hy).mp hr with ht | ⟨a, _, hf, -⟩
        · exact (reclaimed_iff hx).mpr (.inr ⟨b, y, follows, hy, ht⟩)
        · simp [notFollows a] at hf
      exact (linkSound_relative_iff hl).mpr ⟨anchor, by rw [freeReclaimed_get, if_neg kept, hb], hsound⟩

/-- After a reclaim no entry targets the output. -/
theorem freeReclaimed_target (o : Output) (i : EntryIx) (e : Entry) (he : (s.freeReclaimed o).entries[i] = some e) :
    e.fields.target ≠ o := by
  have same : SameTable s (s.withdraw (s.reclaimed o)) := (SameTable.refl s).withdraw
  rw [freeReclaimed_get] at he
  split at he
  · cases he
  · next hkept =>
    obtain ⟨x, hx, xform⟩ := entry_of_table same he
    rw [← (form_eq_iff.mp xform).2.2]
    exact fun ht => hkept ((reclaimed_iff hx).mpr (.inl ht))

theorem assign (h : s.tableSound) (o : Output) (owner : Option Port) (cable : Option Int) :
    (s.assign o owner cable).tableSound := by
  unfold State.assign
  dsimp only
  split
  · have owned := (h.freeReclaimed o).setOwner (owner := owner) (.inr (freeReclaimed_target o))
    exact owned.same (SameTable.refl _).setCable
  · next hkept =>
    have owned := h.setOwner (owner := owner) (takesAway_eq_false.mp (by simpa using hkept))
    exact owned.same (SameTable.refl _).setCable

/-! ### The requests -/

theorem assignOutput (h : s.tableSound) (b : List Byte) : (Machine.assignOutput p b s).leaves tableSound := by
  refine .parsed fun v _ => .refuseIf fun _ => ?_
  split
  · exact .refuseIf fun _ => .refuseIf fun _ =>
      .accept ((h.assign _ _ _).same (SameTable.refl _).syncAlarms)
  · exact .refuse

theorem lowestFree_eq_some {i : EntryIx} (h : s.lowestFree = some i) : s.entries[i] = none := by
  simpa using List.find?_some h

/-- The fields that a definition or a change brings in are sound at an entry that does not run. -/
theorem linkSound_of_fieldsOf {v : EntryParts} {kind : EntryKind} {o : Output} {self : Option EntryIx}
    {f : EntryFields} {i : EntryIx} {e : Entry} (hf : s.fieldsOf v kind o self = some f)
    (hown : s.anchorNotOwned p v.anchor = false) (hi : s.entries[i] = none ∨ self = some i) (he : e.fields = f)
    (howner : e.owner = p) (hidle : e.planned = false) : (s.setEntry i (some e)).linkSound e := by
  cases hl : e.fields.link with
  | anchor period offset start stop => exact linkSound_of_link_anchor hl
  | relative a rel divider phase =>
    obtain ⟨anchor, ha, hperiod, haowner, hself⟩ := anchor_of_fieldsOf hf hown (he ▸ hl)
    refine linkSound_setEntry hl ha (fun hai => ?_) hperiod (haowner.trans howner.symm) (by simp [hidle])
    subst hai
    rcases hi with free | this
    · simp [free] at ha
    · exact hself this

theorem defineEntry (h : s.tableSound) (b : List Byte) : (Machine.defineEntry p b s).leaves tableSound := by
  refine .parsed fun v _ => checkParts_leaves_of fun kind o x howner hanchor hx => ?_
  split
  · exact .refuse
  · next i hi =>
    have free := lowestFree_eq_some hi
    refine .accept (h.setEntry ?_ ?_ fun j y hy hf => ?_)
    · rw [Entry.fresh, (fieldsOf_eq_some hx).1, howner]
    · exact linkSound_of_fieldsOf hx hanchor (.inl free) rfl rfl rfl
    · obtain ⟨e, he⟩ := h.exists_anchor hy hf
      simp [free] at he

/-- The check on relatives lets a change through that leaves every relative an anchor (R112). -/
theorem checkRelatives_leaves {P : State → Prop} {i : EntryIx} {f : EntryFields} {v : Verdict}
    (h : (∀ (j : EntryIx) (x : Entry), s.entries[j] = some x → x.follows i = true →
      ∃ period offset start stop, f.link = .anchor period offset start stop) → v.leaves P) :
    (s.checkRelatives i f v).leaves P := by
  unfold State.checkRelatives
  split
  · refine .refuseIf fun hnone => h fun j x hx hf => ?_
    simp [hasRelative_eq_false.mp hnone j x hx] at hf
  · next period offset start stop hl => exact .refuseIf fun _ => h fun _ _ _ _ => ⟨period, offset, start, stop, hl⟩

theorem changeEntryRequest (h : s.tableSound) (b : List Byte) :
    (Machine.changeEntryRequest p b s).leaves tableSound := by
  refine .parsed fun v _ => checkEntry_leaves_of fun i e he hown => .refuseIf fun hidle =>
    checkParts_leaves_of fun kind o x howner hanchor hx => checkRelatives_leaves fun hrel => ?_
  refine .accept (h.setEntry ?_ ?_ fun j y hy hf => ?_)
  · rw [Entry.fresh, (fieldsOf_eq_some hx).1, howner]
  · exact linkSound_of_fieldsOf hx hanchor (.inr rfl) rfl rfl hidle
  · obtain ⟨period, offset, start, stop, hl⟩ := hrel j y hy hf
    obtain ⟨-, hyowner, hplanned⟩ := h.anchor he hy hf
    exact ⟨by simp [Entry.anchorPeriod, Entry.fresh, hl], hown.symm.trans hyowner, hplanned⟩

theorem startEntry (h : s.tableSound) (b : List Byte) : (Machine.startEntry p b s).leaves tableSound := by
  refine .parsed fun v _ => checkEntry_leaves_of fun i e he hown => .refuseIf fun hidle => ?_
  have idle : e.planned = false := by
    have : e.state = .idle := by simpa using hidle
    simp [Entry.planned, this]
  unfold State.start
  split
  · next hl =>
    refine .refuseIf fun _ => .accept (h.setState he (fun a _ hf => ?_) (by simp [idle]))
    simp [Entry.follows, hl] at hf
  · next a _ _ _ hl =>
    split
    · next anchor ha =>
      refine .refuseIf fun hrun => .accept (h.setState he (fun x y hf hy _ => ?_) (by simp [idle]))
      have hxa : x = a := by simpa [Entry.follows, hl, eq_comm] using hf
      subst hxa
      cases ha.symm.trans hy
      simpa using hrun
    · exact .refuse

theorem stop (h : s.tableSound) {i : EntryIx} {e : Entry} (he : s.entries[i] = some e) : (s.stop i e).tableSound := by
  unfold State.stop
  split
  · exact h.moveTrain i .idle
  · next hidle =>
    split
    · exact h.setState he (fun _ _ _ _ hx => by simp [Entry.planned] at hx) (by simp [hidle])
    · exact h

theorem stopEntry (h : s.tableSound) (b : List Byte) : (Machine.stopEntry p b s).leaves tableSound :=
  .parsed fun _ _ => checkEntry_leaves_of fun _ _ he _ => .accept (h.stop he)

theorem freeEntryRequest (h : s.tableSound) (b : List Byte) : (Machine.freeEntry p b s).leaves tableSound := by
  refine .parsed fun v _ => checkEntry_leaves_of fun i e he hown => .refuseIf fun _ => .refuseIf fun hrel => ?_
  have same : SameTable s (s.withdraw fun n => n = i) := (SameTable.refl s).withdraw
  refine .accept (freeEntry (h.same same) (hasRelative_eq_false.mpr fun j x hx => ?_))
  obtain ⟨y, hy, yform⟩ := entry_of_table same hx
  rw [← hasRelative_eq_false.mp hrel j y hy]
  simp [Entry.follows, (form_eq_iff.mp yform).2.2]

end State.tableSound

end Sys2Proof.Machine
end

section
/-! The emission table (O10): every command, and the step. -/

namespace Sys2Proof.Machine

namespace State.tableSound

variable {s t : State} {p : Port}

/-! ### A counter second (R19, R113, R115) -/

/-- What leaves the table keeps it sound. -/
theorem kept (h : s.tableSound) (k : SameTable s s → SameTable s t) : t.tableSound := h.same (k (SameTable.refl s))

/-- What changes neither entries nor outputs keeps the table sound. -/
theorem frame (h : s.tableSound) (k : OnlyChanges Field.exceptTable s t) : t.tableSound := h.same (table_frame k)

theorem entriesAtStep (h : s.tableSound) (before : Nat) : (s.entriesAtStep before).tableSound := h.moveEntries _

theorem entriesAtSecond (h : s.tableSound) : s.entriesAtSecond.tableSound := h.moveEntries _

theorem replanAtStep (h : s.tableSound) : s.replanAtStep.tableSound := h.kept fun r => .planAtOnce r.setSched

theorem applyStep (h : s.tableSound) (x : PendingStep) : (s.applyStep x).tableSound := by
  have jumped : SameTable s (s.discardPlans.jump x.amount).disturb :=
    SameTable.frame (SameTable.refl s).discardPlans (by simp)
  have moved : SameTable s (((((s.discardPlans.jump x.amount).disturb.dropsAtStep x.amount).frontEndAtStep x.amount
      x.origin).refsAtStep).pulsesAtStep x.amount) := by
    have refs := SameTable.frame (jumped.dropsAtStep (amount := x.amount))
      (t := (((s.discardPlans.jump x.amount).disturb.dropsAtStep x.amount).frontEndAtStep x.amount
        x.origin).refsAtStep) (by simp)
    exact refs.withPx fun i => by rw [mapAll_get]
  have leapt {u : State} (hu : SameTable s u) (n : Notice) :
      ((u.notifyAll n).leapAtStep s.counter.sec).tableSound := h.same (hu.frame (by simp))
  exact ((leapt moved _).entriesAtStep _).replanAtStep

theorem secondWork (h : s.tableSound) : s.secondWork.tableSound := by
  have before : (((s.sampleAndMinute.syncAlarms.closeFqSecond 0).syncAlarms.closeFqSecond
      1).syncAlarms.leapAtSecond).syncAlarms.tableSound := h.frame (by simp)
  unfold State.secondWork
  exact before.entriesAtSecond.frame (by simp)

theorem secondEnds (h : s.tableSound) (o : Overshoot) : (s.secondEnds o).tableSound := by
  unfold State.secondEnds
  split
  · next x _ =>
    split
    · have before : (s.beforeStep o).tableSound := h.frame (by simp)
      exact (before.applyStep x).frame (by simp)
    · exact h.frame (by simp)
  · exact h.frame (by simp)

theorem secondBoundary (h : s.tableSound) : s.secondBoundary.tableSound := by
  unfold State.secondBoundary
  split
  · exact h
  · have reached : s.reachSecond.tableSound := h.frame (by simp)
    exact reached.secondWork.secondEnds _

/-- After reset every entry is FREE. -/
theorem released (authSel : Fin 8) (warmSel : Fin 4) : (State.released authSel warmSel).tableSound :=
  fun i e he => by simp [State.released] at he

/-! ### Profiles and drops -/

theorem setProfileParts (h : s.tableSound) (i : ProfileIx) (v : ProfileSetParts) :
    (s.setProfileParts i v).tableSound := by
  have set : SameTable s (s.setProfile i (v.profileFrom s.profiles[i])) := rfl
  refine h.same (?_ : SameTable s _)
  unfold State.setProfileParts
  dsimp only
  split
  · exact set
  · refine set.forEach fun d u hu => ?_
    split
    · exact hu.reformDelay
    · exact hu

theorem setDropParts (h : s.tableSound) (d : DropIx) (v : DropSetParts) :
    (((s.chooseProfile d v.profile).expectIdentity d v.expected).switchDrop d v.enable).tableSound := by
  have chosen : SameTable s (s.chooseProfile d v.profile) := by
    unfold State.chooseProfile
    split
    · split
      · exact .refl s
      · apply SameTable.reformDelay
        exact (SameTable.refl s).setDrop rfl
    · exact .refl s
  have expected : SameTable s ((s.chooseProfile d v.profile).expectIdentity d v.expected) := by
    unfold State.expectIdentity
    split
    · exact chosen.setDrop rfl
    · exact chosen.setDrop rfl
    · exact chosen
  refine h.same (?_ : SameTable s _)
  unfold State.switchDrop
  split
  · split
    · exact expected.enableDrop
    · exact expected.disableDrop
  · exact expected

/-! ### Requests -/

/-- A request keeps the table sound when each verdict that accepts it does. -/
theorem answered {code : Nat} {f : List Byte → State → Verdict} (h : s.tableSound)
    (hf : ∀ b t, t.tableSound → (f b t).leaves tableSound) : outcomeLeaves tableSound (.next (s.answer p code f)) :=
  (outcomeLeaves_next _ _).mpr (Verdict.leaves.answer h (fun _ _ k => k) hf)

/-- A verdict accepts with neither entries nor outputs changed. -/
theorem accepted {st : Status} {b : List Byte} (h : s.tableSound) (k : OnlyChanges Field.exceptTable s t) :
    (Verdict.accept st b t).leaves tableSound := .accept (h.frame k)

variable {b : List Byte}

theorem setRefRequest (h : s.tableSound) : (Machine.setRefRequest p b s).leaves tableSound := by
  refine .parsed fun v _ => .refuseIf fun _ => ?_
  split
  · exact .refuse
  · exact .refuseIf fun _ => h.accepted (by simp)

theorem forceSelection (h : s.tableSound) : (Machine.forceSelection p b s).leaves tableSound := by
  refine .parsed fun v _ => .refuseIf fun _ => ?_
  split
  · exact .refuse
  · exact h.accepted (by simp)

theorem readRefs (h : s.tableSound) : (Machine.readRefs b s).leaves tableSound := by
  refine .parsed fun v _ => ?_
  split
  · exact .accept h
  · split
    · exact .accept h
    · exact .refuse

theorem readEntries (h : s.tableSound) : (Machine.readEntries b s).leaves tableSound := by
  refine .parsed fun v _ => ?_
  split
  · exact .accept h
  · split
    · exact .accept h
    · exact .refuse

theorem readDrops (h : s.tableSound) : (Machine.readDrops b s).leaves tableSound := by
  refine .parsed fun v _ => ?_
  split
  · exact .accept h
  · split
    · exact .accept h
    · exact .refuse

theorem setProfileRequest (h : s.tableSound) : (Machine.setProfileRequest p b s).leaves tableSound := by
  refine .parsed fun v _ => .refuseIf fun _ => ?_
  split
  · exact .refuse
  · exact .refuseIf fun _ => .accept (h.setProfileParts _ v)

theorem setDropRequest (h : s.tableSound) : (Machine.setDropRequest p b s).leaves tableSound := by
  refine .parsed fun v _ => ?_
  split
  · exact .refuse
  · next d _ => exact .refuseIf fun _ => .refuseIf fun _ => (h.setDropParts d v).accepted (by simp)

theorem setSeverity (h : s.tableSound) : (Machine.setSeverity p b s).leaves tableSound := by
  refine .parsed fun v _ => .refuseIf fun _ => ?_
  split
  · exact .refuse
  · exact .refuseIf fun _ => .accept h

/-! ### Every command -/

/-- A command ends with the hand-over of the alarm conditions, which leaves the table. -/
theorem finished (h : s.tableSound) (k : SameTable s s → SameTable s t) : outcomeLeaves tableSound (finish t) :=
  (outcomeLeaves_finish _ _).mpr ((h.kept k).frame (by simp))

/-- A command that changes neither entries nor outputs keeps the table sound. -/
theorem untouched {r : Result} (h : s.tableSound) (k : outcomeLeaves (OnlyChanges Field.exceptTable s) r) :
    outcomeLeaves tableSound r := fun t ht => h.frame (k t ht)

theorem turnOut (h : s.tableSound) (d : DropIx) : outcomeLeaves tableSound (execTurnOut d s) := by
  unfold execTurnOut
  split
  · split
    case h_1 => exact (outcomeLeaves_next _ _).mpr (h.kept fun r => r.reachInstant.handTurnOut)
    case h_2 => exact (outcomeLeaves_next _ _).mpr (h.kept fun r => r.reachInstant.handTurnOut)
    all_goals exact (outcomeLeaves_next _ _).mpr h
  · exact (outcomeLeaves_next _ _).mpr h

theorem turnLimitExpiry (h : s.tableSound) (d : DropIx) : outcomeLeaves tableSound (execTurnLimitExpiry d s) := by
  unfold execTurnLimitExpiry
  split
  · exact h.finished fun r => r.reachInstant.turnLimitPasses
  · exact (outcomeLeaves_next _ _).mpr h

theorem timerExpiries (h : s.tableSound) (d : DropIx) : outcomeLeaves tableSound (execOfferTimerExpiry d s) ∧
    outcomeLeaves tableSound (execProbeTimerExpiry d s) ∧
    outcomeLeaves tableSound (execAnnouncementTimerExpiry d s) := by
  unfold execOfferTimerExpiry execProbeTimerExpiry execAnnouncementTimerExpiry
  refine ⟨?_, ?_, ?_⟩
  · split
    · exact (outcomeLeaves_next _ _).mpr (h.kept fun r => by exact r.setDrop rfl)
    · exact (outcomeLeaves_next _ _).mpr h
  · split
    · exact (outcomeLeaves_next _ _).mpr (h.kept fun r => by exact r.setDrop rfl)
    · exact (outcomeLeaves_next _ _).mpr h
  · split
    · exact h.finished fun r => by exact r.setDrop rfl
    · exact (outcomeLeaves_next _ _).mpr h

/-- The events that a running timer or hold calls for, and that reach neither entries nor outputs. -/
theorem timers (h : s.tableSound) {c : Instr} (hc : c = .warmupExpiry ∨ (∃ i, c = .holdoffExpiry i) ∨
    (∃ i, c = .qualifiedHour i) ∨ (∃ i, c = .revertiveWaitExpiry i) ∨ c = .emitOverrunHoldExpiry ∨
    ∃ a, c = .alarmPersistenceExpiry a) : outcomeLeaves tableSound (Machine.exec c s) := by
  refine h.untouched ?_
  rcases hc with rfl | ⟨i, rfl⟩ | ⟨i, rfl⟩ | ⟨i, rfl⟩ | rfl | ⟨a, rfl⟩
  · simp only [Machine.exec, execWarmupExpiry]
    split
    · split <;> simp
    · simp
  · simp only [Machine.exec, execHoldoffExpiry]
    split <;> simp
  · simp only [Machine.exec, execQualifiedHour]
    split <;> simp
  · simp only [Machine.exec, execRevertiveWaitExpiry]
    split
    · split <;> simp
    · simp
  · simp only [Machine.exec, execEmitOverrunHoldExpiry]
    split <;> simp
  · simp only [Machine.exec, execAlarmPersistenceExpiry]
    split <;> simp

/-- Every command keeps the table sound. -/
theorem exec (h : s.tableSound) (c : Instr) : outcomeLeaves tableSound (Machine.exec c s) := by
  have passed {e : Elapsed} : SameTable s (s.pass e) := table_frame (by simp)
  cases c with
  | resetRelease a w => exact (outcomeLeaves_next _ _).mpr (released a w)
  | counterSecondBoundary => exact h.secondBoundary.finished id
  | counterMillisecondBoundary => exact h.finished (·.millisecondBoundary)
  | monitorGateEnd edges => exact h.finished (·.gateEnds)
  | loInGap e => exact h.finished fun _ => passed.edgeGap
  | warmupExpiry => exact h.timers (by simp)
  | taActiveEdge e i => exact h.untouched (by simp [Machine.exec, execTaActiveEdge])
  | taTrailingEdge e i => exact h.untouched (by simp [Machine.exec, execTaTrailingEdge])
  | taLabelComplete e i bytes => exact h.untouched (by simp [Machine.exec, execTaLabelComplete])
  | labelByteGap i => exact h.untouched (by simp [Machine.exec, execLabelByteGap])
  | labelFramingError e i => exact h.untouched (by simp [Machine.exec, execLabelFramingError])
  | labelStartByte e i => exact h.untouched (by simp [Machine.exec, execLabelStartByte])
  | taLabelWindowClose i => exact h.untouched (by simp [Machine.exec, execTaLabelWindowClose])
  | taGlitchGuardEnd i => exact h.untouched (by simp [Machine.exec, execTaGlitchGuardEnd])
  | taActivityTimeout i => exact h.untouched (by simp [Machine.exec, execTaActivityTimeout])
  | fqEdge e i n => exact h.untouched (by simp [Machine.exec, execFqEdge])
  | fqActivityTimeout i => exact h.untouched (by simp [Machine.exec, execFqActivityTimeout])
  | ofActivityTimeout p => exact h.untouched (by simp [Machine.exec, execOfActivityTimeout])
  | holdoffExpiry i => exact h.timers (by simp)
  | qualifiedHour i => exact h.timers (by simp)
  | revertiveWaitExpiry i => exact h.timers (by simp)
  | hardInstanceRelease n => exact h.finished (·.releaseHard)
  | pulseEnd x => exact (outcomeLeaves_next _ _).mpr (h.kept (·.endPulse))
  | emitOverrunHoldExpiry => exact h.timers (by simp)
  | softItemRelease d => exact h.finished (·.releaseSoft)
  | turnOut d => exact h.turnOut d
  | turnLimitExpiry d => exact h.turnLimitExpiry d
  | dropMessageComplete e d bytes => exact h.finished fun _ => passed.unitMessage
  | dropContention e d => exact h.finished fun _ => passed.activityBegins
  | dropLineIdle e d => exact h.finished fun _ => passed.lineIdle
  | unitMessageFirstByte e d => exact h.finished fun _ => passed.unitFirstByte
  | offerTimerExpiry d => exact (h.timerExpiries d).1
  | probeTimerExpiry d => exact (h.timerExpiries d).2.1
  | announcementTimerExpiry d => exact (h.timerExpiries d).2.2
  | alarmPersistenceExpiry a => exact h.timers (by simp)
  | peek e p => exact h.untouched (by simp [Machine.exec, execPeek])
  | push e p => exact h.untouched (by simp [Machine.exec, execPush])
  | requestArrival e p code tag body => exact h.untouched (by simp [Machine.exec, execRequestArrival])
  | transactionCutShort e p => exact h.untouched (by simp [Machine.exec, execTransactionCutShort])
  | pull e p => exact h.untouched (by simp [Machine.exec, execPull])
  | segmentPulled e p => exact h.untouched (by simp [Machine.exec, execSegmentPulled])
  | unknownTransactionType e p => exact h.untouched (by simp [Machine.exec, execUnknownTransactionType])
  | silenceTimerExpiry p => exact h.untouched (by simp [Machine.exec, execSilenceTimerExpiry])
  | timeRead p => exact h.answered fun _ _ ht => .parsed fun _ _ => .accept ht
  | stateRead p => exact h.answered fun _ _ ht => .parsed fun _ _ => .accept ht
  | timeStep p =>
    exact h.answered fun _ _ ht => .parsed fun _ _ => .refuseIf fun _ => .refuseIf fun _ => .refuseIf fun _ =>
      .refuseIf fun _ => ht.accepted (by simp)
  | leapSet p =>
    exact h.answered fun _ _ ht => .parsed fun _ _ => .refuseIf fun _ => .refuseIf fun _ => ht.accepted (by simp)
  | offsetReport p =>
    exact h.answered fun _ _ ht => .parsed fun _ _ => .refuseIf fun _ => .refuseIf fun _ => ht.accepted (by simp)
  | refSet p => exact h.answered fun _ _ ht => ht.setRefRequest
  | refRead p => exact h.answered fun _ _ ht => ht.readRefs
  | selectSet p =>
    exact h.answered fun _ _ ht => .parsed fun _ _ => .refuseIf fun _ => .refuseIf fun _ => ht.accepted (by simp)
  | selectForce p => exact h.answered fun _ _ ht => ht.forceSelection
  | loopSet p =>
    exact h.answered fun _ _ ht => .parsed fun _ _ => .refuseIf fun _ => .refuseIf fun _ => .refuseIf fun _ =>
      ht.accepted (by simp)
  | historyRead p => exact h.answered fun _ _ ht => .parsed fun _ _ => .refuseIf fun _ => .accept ht
  | historyRestore p =>
    exact h.answered fun _ _ ht => .refuseIf fun _ => .parsed fun _ _ => .refuseIf fun _ => .refuseIf fun _ =>
      ht.accepted (by simp)
  | holdoverForce p =>
    exact h.answered fun _ _ ht => .refuseIf fun _ => .parsed fun _ _ => ht.accepted (by simp)
  | outputAssign p => exact h.answered fun b _ ht => ht.assignOutput b
  | entryDefine p => exact h.answered fun b _ ht => ht.defineEntry b
  | entryChange p => exact h.answered fun b _ ht => ht.changeEntryRequest b
  | entryStart p => exact h.answered fun b _ ht => ht.startEntry b
  | entryStop p => exact h.answered fun b _ ht => ht.stopEntry b
  | entryFree p => exact h.answered fun b _ ht => ht.freeEntryRequest b
  | entryRead p => exact h.answered fun _ _ ht => ht.readEntries
  | profileSet p => exact h.answered fun _ _ ht => ht.setProfileRequest
  | dropSet p => exact h.answered fun _ _ ht => ht.setDropRequest
  | dropRead p => exact h.answered fun _ _ ht => ht.readDrops
  | alarmSeverity p => exact h.answered fun _ _ ht => ht.setSeverity
  | alarmRead p => exact h.answered fun _ _ ht => .parsed fun _ _ => .refuseIf fun _ => .accept ht
  | alarmSeen p => exact h.answered fun _ _ ht => .refuseIf fun _ => .accept ht
  | alarmMask p => exact h.answered fun _ _ ht => .parsed fun _ _ => .refuseIf fun _ => .accept ht
  | noticeRead p => exact h.answered fun _ _ ht => .parsed fun _ _ => .refuseIf fun _ => .accept ht
  | authTake p => exact h.answered fun _ _ ht => .parsed fun _ _ => .refuseIf fun _ => ht.accepted (by simp)
  | authRelease p => exact h.answered fun _ _ ht => .parsed fun _ _ => ht.accepted (by simp)
  | portSet p => exact h.answered fun _ _ ht => .parsed fun _ _ => .refuseIf fun _ => .accept ht
  | portReset p => exact h.untouched (by simp [Machine.exec, execPortReset])
  | unknownRequest p =>
    exact h.untouched ((outcomeLeaves_next _ _).mpr (execute_only _ s p _ _ (by simp) fun _ _ _ _ _ h => by cases h))

end State.tableSound

/-- Settles O10: the requests of the table check what they bring in, a reclaim takes the relatives along, a train moves
with its anchor, and every other operation leaves the table as it is. -/
theorem emissionTableStaysSound : Obligations.EmissionTableStaysSound := by
  intro s t h hstep
  unfold step at hstep
  split at hstep
  · next c rest _ =>
    have waiting : (s.setPending rest).tableSound := h
    exact waiting.exec c t hstep
  · cases hstep
    exact h.frame (by simp)

end Sys2Proof.Machine
end

section
/-! Due instants (O34): the instances of an anchor in either form, and those of a relative (R107, R108). -/

namespace Sys2Proof.Machine

/-! ### Integers between bounds -/

theorem mem_intsBetween {a b x : Int} : x ∈ intsBetween a b ↔ a ≤ x ∧ x < b := by
  simp only [intsBetween, List.bind_eq_flatMap, List.pure_def, List.mem_map, List.mem_flatMap, List.mem_range,
    List.mem_singleton]
  constructor
  · rintro ⟨_, ⟨n, hn, rfl⟩, rfl⟩
    omega
  · rintro ⟨ha, hb⟩
    exact ⟨x - a, ⟨(x - a).toNat, by omega, by omega⟩, by omega⟩

theorem ceilDiv_le_iff {a b n : Int} (hb : 0 < b) : ceilDiv a b ≤ n ↔ a ≤ n * b := by
  have := Int.le_ediv_iff_mul_le (a := -n) (b := -a) hb
  unfold ceilDiv
  constructor
  · intro h
    have := this.mp (by omega)
    linarith
  · intro h
    have := this.mpr (by linarith)
    omega

theorem lt_ceilDiv_iff {a b n : Int} (hb : 0 < b) : n < ceilDiv a b ↔ n * b < a := by
  rw [← not_le, ceilDiv_le_iff hb, not_le]

/-! ### The two forms of an anchor (R107) -/

/-- The due instant lies in the second that it is counted from (R106, R107). -/
theorem subSecond_lt {period offset k : Nat} (hdvd : 1000000 % period = 0) (hoffset : offset < period * 1000)
    (hk : k < 1000000 / period) : k * (period * 1000000) + offset * 1000 < 1000000000000 := by
  have hperiod : period * (1000000 / period) = 1000000 := Nat.mul_div_cancel' (Nat.dvd_of_mod_eq_zero hdvd)
  have hnext : (k + 1) * period ≤ 1000000 := by
    calc (k + 1) * period ≤ 1000000 / period * period := Nat.mul_le_mul_right _ hk
      _ = 1000000 := by rw [Nat.mul_comm, hperiod]
  have : k * (period * 1000000) = k * period * 1000000 := by ring
  have : (k + 1) * period = k * period + period := by ring
  omega

theorem mem_subSecondDues {period offset : Nat} {lo hi : Int} {d : Due} (hpos : 0 < period)
    (hdvd : 1000000 % period = 0) (hoffset : offset < period * 1000) :
    d ∈ subSecondDues period offset lo hi ↔ lo ≤ d.at_ ∧ d.at_ < hi ∧ ∃ second : Int, d.number < 1000000 / period ∧
      d.at_ = second * 1000000000000 + d.number * (period * 1000000) + offset * 1000 := by
  have hstep : (0 : Int) < (period : Int) * 1000000 := by positivity
  have hsecond : (0 : Int) < (Config.psPerSecond : Int) := by decide
  have hps : (Config.psPerSecond : Int) = 1000000000000 := rfl
  simp only [subSecondDues, List.mem_flatMap, List.mem_map, mem_intsBetween, max_le_iff, lt_min_iff,
    ceilDiv_le_iff hstep, lt_ceilDiv_iff hstep, lt_ceilDiv_iff hsecond]
  constructor
  · rintro ⟨second, -, k, ⟨⟨hk, hlo⟩, hcount, hhi⟩, rfl⟩
    obtain ⟨n, rfl⟩ := Int.eq_ofNat_of_zero_le hk
    rw [hps] at *
    exact ⟨by linarith, by linarith, second, by simpa using Int.ofNat_lt.mp hcount, by simp; ring⟩
  · rintro ⟨hlo, hhi, second, hcount, hat⟩
    have hwithin : (d.number : Int) * (period * 1000000) + offset * 1000 < 1000000000000 := by
      exact_mod_cast subSecond_lt hdvd hoffset hcount
    have hnonneg : (0 : Int) ≤ (d.number : Int) * (period * 1000000) := by positivity
    have hfirst : lo / 1000000000000 ≤ second := by omega
    rw [hps]
    refine ⟨second, ⟨hfirst, by omega⟩, d.number, ⟨⟨by omega, by linarith⟩, by exact_mod_cast hcount, by linarith⟩, ?_⟩
    cases d
    simp only [Due.mk.injEq, Int.toNat_natCast, and_true] at hat ⊢
    linarith

theorem mem_multiSecondDues {m offset : Nat} {lo hi : Int} {d : Due} :
    d ∈ multiSecondDues m offset lo hi ↔ lo ≤ d.at_ ∧ d.at_ < hi ∧ ∃ second : Int,
      d.at_ = second * 1000000000000 + offset * 1000 ∧ wrapSecond second % m = 0 ∧
        d.number = wrapSecond second / m := by
  have hsecond : (0 : Int) < 1000000000000 := by decide
  have hps : (Config.psPerSecond : Int) = 1000000000000 := rfl
  simp only [multiSecondDues, List.mem_map, List.mem_filter, mem_intsBetween, decide_eq_true_eq, hps,
    ceilDiv_le_iff hsecond, lt_ceilDiv_iff hsecond]
  constructor
  · rintro ⟨second, ⟨⟨hlo, hhi⟩, hmod⟩, rfl⟩
    exact ⟨by dsimp only; omega, by dsimp only; omega, second, rfl, hmod, rfl⟩
  · rintro ⟨hlo, hhi, second, hat, hmod, hnumber⟩
    exact ⟨second, ⟨⟨by omega, by omega⟩, hmod⟩, by rw [← hat, ← hnumber]⟩

/-- The start and stop seconds of an anchor let an instant through (R107). -/
def eligible (start stop : Option Nat) (second : Nat) : Prop :=
  (∀ v, start = some v → v ≤ second) ∧ ∀ v, stop = some v → second < v

theorem mem_anchorDues {period offset : Nat} {start stop : Option Nat} {lo hi : Int} {d : Due} :
    d ∈ anchorDues period offset start stop lo hi ↔
      d ∈ (if period < 1000000 then subSecondDues period offset lo hi
        else multiSecondDues (period / 1000000) offset lo hi) ∧
      eligible start stop (wrapSecond (d.at_ / 1000000000000)) := by
  have hps : (Config.psPerSecond : Int) = 1000000000000 := rfl
  simp [anchorDues, eligible, List.mem_filter, Option.all_eq_true, hps]

/-! ### A relative (R108) -/

theorem mem_entryDues_relative {s : State} {e anchor : Entry} {a : EntryIx} {rel lo hi at_ : Int}
    {divider phase period offset : Nat} {start stop : Option Nat}
    (hl : e.fields.link = .relative a rel divider phase) (ha : s.entries[a] = some anchor)
    (hanchor : anchor.fields.link = .anchor period offset start stop) :
    at_ ∈ s.entryDues e lo hi ↔ ∃ d ∈ anchorDues period offset start stop (lo - rel * 1000) (hi - rel * 1000),
      d.number % divider = phase ∧ at_ = d.at_ + rel * 1000 := by
  simp only [State.entryDues, hl, ha, hanchor, List.mem_map, List.mem_filter, decide_eq_true_eq, and_assoc]
  exact exists_congr fun d => and_congr_right fun _ => and_congr_right fun _ => eq_comm

/-- Settles O34: a due instant lies in the second that it is counted from, so the seconds between the bounds give every
one between them. -/
theorem trainDuesFollowPeriodAndDivider : Obligations.TrainDuesFollowPeriodAndDivider := by
  unfold Obligations.TrainDuesFollowPeriodAndDivider
  refine ⟨⟨fun period offset start stop lo hi d hpos hsub hdvd hoffset => ?_,
      fun m offset start stop lo hi d hm _ => ?_⟩,
    fun s e anchor a rel lo hi at_ divider phase period offset start stop hl ha hanchor =>
      mem_entryDues_relative hl ha hanchor⟩
  · rw [mem_anchorDues, if_pos hsub, mem_subSecondDues hpos hdvd hoffset]
    have second_of {second : Int} (hnumber : d.number < 1000000 / period)
        (hat : d.at_ = second * 1000000000000 + d.number * (period * 1000000) + offset * 1000) :
        d.at_ / 1000000000000 = second := by
      have hwithin : (d.number : Int) * (period * 1000000) + offset * 1000 < 1000000000000 := by
        exact_mod_cast subSecond_lt hdvd hoffset hnumber
      have hnonneg : (0 : Int) ≤ (d.number : Int) * (period * 1000000) := by positivity
      omega
    constructor
    · rintro ⟨⟨hlo, hhi, second, hnumber, hat⟩, hstart, hstop⟩
      rw [second_of hnumber hat] at hstart hstop
      exact ⟨hlo, hhi, second, hnumber, hat, hstart, hstop⟩
    · rintro ⟨hlo, hhi, second, hnumber, hat, heligible⟩
      refine ⟨⟨hlo, hhi, second, hnumber, hat⟩, ?_⟩
      rw [second_of hnumber hat]
      exact heligible
  · have hdiv : m * 1000000 / 1000000 = m := by omega
    rw [mem_anchorDues, if_neg (by omega), hdiv, mem_multiSecondDues]
    constructor
    · rintro ⟨⟨hlo, hhi, second, hat, hmod, hnumber⟩, hstart, hstop⟩
      exact ⟨hlo, hhi, second, hat, hmod, hnumber, hstart, hstop⟩
    · rintro ⟨hlo, hhi, second, hat, hmod, hnumber, heligible⟩
      exact ⟨⟨hlo, hhi, second, hat, hmod, hnumber⟩, heligible⟩

end Sys2Proof.Machine
end

section
/-! The requests of the emission table (O53): what the checks of each let through, and what it then does. -/

namespace Sys2Proof.Machine
open ReferenceInputs

variable {s : State} {p : Port} {r : Request} {q : PortRec}

/-! ### Replies -/

/-- A request that its verdict refuses leaves the reply and nothing else. -/
theorem answered_of_refuse {code : Nat} {f : List Byte → State → Verdict} {st : Status} (h : s.ready p code r q)
    (hf : f r.body (s.setPort p q) = .refuse st) :
    s.answered (s.answer p code f) p r q st [] ∧ OnlyChanges [.ports] s (s.answer p code f) := by
  rw [answer_ready s p code f r q h, hf, conclude_refuse]
  exact ⟨rfl, by simp⟩

/-- A request accepted with one entry set changes that entry and leaves the reply. -/
theorem answered_of_setEntry {code : Nat} {f : List Byte → State → Verdict} {st : Status} {body : List Byte}
    {i : EntryIx} {x : Option Entry} (h : s.ready p code r q)
    (hf : f r.body (s.setPort p q) = .accept st body ((s.setPort p q).setEntry i x)) :
    s.answered (s.answer p code f) p r q st body ∧ OnlyChanges [.ports, .entries] s (s.answer p code f) ∧
      (s.answer p code f).entries = s.entries.set i x := by
  rw [answer_accepted h hf]
  exact ⟨answered_reply st body rfl, by simp, rfl⟩

/-! ### The entry named, and its parts -/

theorem indexOf_val {n : Nat} (i : Fin n) : indexOf n (i.val : Int) = some i := by
  unfold indexOf
  rw [dif_pos ⟨Int.natCast_nonneg _, Int.ofNat_lt.mpr i.isLt⟩]
  rfl

theorem parseByte_entry (i : EntryIx) : parseByte [BitVec.ofNat 8 i.val] = some (i.val : Int) := by
  have hi : i.val % 2 ^ 8 = i.val := Nat.mod_eq_of_lt (by omega)
  rw [parseByte_singleton, BitVec.toNat_ofNat, hi]

/-- A request that names an entry of its own port passes the check on it. -/
theorem checkEntry_own {i : EntryIx} {e : Entry} (he : s.entries[i] = some e) (howner : e.owner = p)
    (f : EntryIx → Entry → Verdict) : s.checkEntry p i.val f = f i e := by
  simp only [State.checkEntry, indexOf_val, he]
  simp [howner]

theorem mismatched_eq_false {kind target : Int} {k : EntryKind} {o : Output}
    (h : matchingTarget kind target = some (k, o)) : mismatched kind target = false := by
  unfold matchingTarget at h
  unfold mismatched
  split at h
  · next hk ho => simp [hk, ho]
  · next hk ho => simp [hk, ho]
  · cases h

/-- Parts of the port's own outputs and anchors, in the forms of R106, pass the checks. -/
theorem checkParts_own {v : EntryParts} {kind : EntryKind} {o : Output} {self : Option EntryIx} {x : EntryFields}
    (hm : matchingTarget v.kind v.target = some (kind, o)) (howner : s.outputOwner o = some p)
    (hanchor : s.anchorNotOwned p v.anchor = false) (hx : s.fieldsOf v kind o self = some x)
    (f : EntryFields → Verdict) : s.checkParts p v self f = f x := by
  have hown := (targetNotOwned_eq_false (p := p) (ofCode_of_matchingTarget hm).2).mpr howner
  simp [State.checkParts, mismatched_eq_false hm, hown, hanchor, hm, hx]

theorem lowestFree_eq_none (h : ∀ i : EntryIx, s.entries[i] ≠ none) : s.lowestFree = none := by
  simp only [State.lowestFree, List.find?_eq_none]
  intro i _ hi
  exact h i (by simpa using hi)

theorem lowestFree_eq {i : EntryIx} (hi : s.entries[i] = none)
    (hbelow : ∀ j : EntryIx, j < i → s.entries[j] ≠ none) : s.lowestFree = some i :=
  List.find?_eq_some_iff_getElem.mpr
    ⟨by simpa using hi, i.val, by simp, by simp, fun j hj => by
      simpa [Option.isSome_iff_ne_none] using hbelow ⟨j, by omega⟩ hj⟩

/-! ### ENTRY_DEFINE (R111) -/

section
variable {v : EntryParts} {kind : EntryKind} {o : Output} {f : EntryFields}

theorem defineEntry_full (hv : parseEntryDefine r.body = some v) (hm : matchingTarget v.kind v.target = some (kind, o))
    (howner : s.outputOwner o = some p) (hanchor : s.anchorNotOwned p v.anchor = false)
    (hf : s.fieldsOf v kind o none = some f) (hfull : s.lowestFree = none) :
    defineEntry p r.body s = .refuse .tableFull := by
  simp only [defineEntry, hv, parsed_some, checkParts_own hm howner hanchor hf, hfull]

theorem defineEntry_free {i : EntryIx} (hv : parseEntryDefine r.body = some v)
    (hm : matchingTarget v.kind v.target = some (kind, o)) (howner : s.outputOwner o = some p)
    (hanchor : s.anchorNotOwned p v.anchor = false) (hf : s.fieldsOf v kind o none = some f)
    (hfree : s.lowestFree = some i) :
    defineEntry p r.body s = .accept .done [BitVec.ofNat 8 i.val] (s.setEntry i (some (Entry.fresh p f))) := by
  simp only [defineEntry, hv, parsed_some, checkParts_own hm howner hanchor hf, hfree]
  rfl

/-! ### ENTRY_CHANGE (R112) -/

variable {i : EntryIx} {e : Entry}

theorem changeEntryRequest_own (hv : parseEntryChange r.body = some ((i.val : Int), v)) (he : s.entries[i] = some e)
    (hown : e.owner = p) (hidle : e.planned = false) (hm : matchingTarget v.kind v.target = some (kind, o))
    (howner : s.outputOwner o = some p) (hanchor : s.anchorNotOwned p v.anchor = false)
    (hf : s.fieldsOf v kind o (some i) = some f) :
    changeEntryRequest p r.body s = s.checkRelatives i f
      (.accept .done [] (s.setEntry i (some { Entry.fresh p f with state := e.state }))) := by
  rw [changeEntryRequest, hv, parsed_some, checkEntry_own he hown, hidle, refuseIf_false,
    checkParts_own hm howner hanchor hf]

end

theorem planned_eq_false {e : Entry} (h : e.state = .idle ∨ e.state = .ended) : e.planned = false := by
  rcases h with h | h <;> simp [Entry.planned, h]

theorem planned_iff {e : Entry} : e.planned = true ↔ e.state = .waiting ∨ e.state = .running := by
  simp [Entry.planned]

/-- A relative breaks under a period that does not exceed its offset and its width (R106, R112). -/
theorem relativeBreaks_iff {i : EntryIx} {period : Nat} :
    s.relativeBreaks i period = true ↔ ∃ (j : EntryIx) (x : Entry) (rel : Int) (divider phase : Nat),
      s.entries[j] = some x ∧ x.fields.link = .relative i rel divider phase ∧
        (period * 1000 ≤ rel.natAbs ∨ ∃ w, x.fields.width = some w ∧ period * 1000 ≤ w) := by
  have one (x : Entry) : (x.follows i && x.breaks period) = true ↔ ∃ (rel : Int) (divider phase : Nat),
      x.fields.link = .relative i rel divider phase ∧
        (period * 1000 ≤ rel.natAbs ∨ ∃ w, x.fields.width = some w ∧ period * 1000 ≤ w) := by
    rw [Bool.and_eq_true, follows_iff]
    constructor
    · rintro ⟨⟨rel, divider, phase, hl⟩, hb⟩
      exact ⟨rel, divider, phase, hl, by simpa [Entry.breaks, hl, Option.any_eq_true] using hb⟩
    · rintro ⟨rel, divider, phase, hl, hb⟩
      exact ⟨⟨rel, divider, phase, hl⟩, by simpa [Entry.breaks, hl, Option.any_eq_true] using hb⟩
  unfold State.relativeBreaks
  rw [anyIndex_iff]
  refine exists_congr fun j => ?_
  split
  · next y hy =>
    rw [one y]
    simp only [hy, Option.some.injEq]
    constructor
    · rintro ⟨rel, divider, phase, h⟩
      exact ⟨y, rel, divider, phase, rfl, h⟩
    · rintro ⟨x, rel, divider, phase, rfl, h⟩
      exact ⟨rel, divider, phase, h⟩
  · next hy => simp [hy]

/-- A change passes when the entry has no relative, or stays an anchor whose period breaks none (R112). -/
theorem checkRelatives_pass {i : EntryIx} {f : EntryFields} {v : Verdict}
    (h : s.hasRelative i = false ∨ ∃ period offset start stop, f.link = .anchor period offset start stop ∧
      ∀ (j : EntryIx) (x : Entry) (rel : Int) (divider phase : Nat), s.entries[j] = some x →
        x.fields.link = .relative i rel divider phase → rel.natAbs < period * 1000 ∧
          ∀ w, x.fields.width = some w → w < period * 1000) : s.checkRelatives i f v = v := by
  unfold State.checkRelatives
  split
  · next hl =>
    rcases h with h | ⟨period, offset, start, stop, hf, -⟩
    · rw [h, refuseIf_false]
    · rw [hl] at hf
      cases hf
  · next period offset start stop hl =>
    have none_breaks : s.relativeBreaks i period = false := by
      rw [← Bool.not_eq_true, relativeBreaks_iff]
      rintro ⟨j, x, rel, divider, phase, hx, hxl, hbreaks⟩
      rcases h with h | ⟨_, _, _, _, hf, hkept⟩
      · have := hasRelative_eq_false.mp h j x hx
        rw [follows_iff.mpr ⟨rel, divider, phase, hxl⟩] at this
        cases this
      · cases hl.symm.trans hf
        obtain ⟨hrel, hwidth⟩ := hkept j x rel divider phase hx hxl
        rcases hbreaks with hb | ⟨w, hw, hb⟩
        · omega
        · have := hwidth w hw
          omega
    rw [none_breaks, refuseIf_false]

theorem checkRelatives_relative {i a : EntryIx} {f : EntryFields} {v : Verdict} {rel : Int} {divider phase : Nat}
    (h : s.hasRelative i = true) (hl : f.link = .relative a rel divider phase) :
    s.checkRelatives i f v = .refuse .inUse := by
  simp [State.checkRelatives, hl, h]

theorem checkRelatives_anchor {i : EntryIx} {f : EntryFields} {v : Verdict} {period offset : Nat}
    {start stop : Option Nat} (h : s.relativeBreaks i period = true) (hl : f.link = .anchor period offset start stop) :
    s.checkRelatives i f v = .refuse .badValue := by
  simp [State.checkRelatives, hl, h]

/-! ### ENTRY_START (R113) -/

theorem startState_eq (start : Option Nat) (sec : Nat) :
    startState start sec = if ∃ x, start = some x ∧ sec < x then .waiting else .running := by
  cases start with
  | none => simp [startState]
  | some x => simp [startState]

theorem startEntry_anchor {i : EntryIx} {e : Entry} {period offset : Nat} {start stop : Option Nat}
    (he : s.entries[i] = some e) (hown : e.owner = p) (hidle : e.state = .idle)
    (hl : e.fields.link = .anchor period offset start stop) (hstop : ∀ x, stop = some x → s.counter.sec < x) :
    startEntry p [BitVec.ofNat 8 i.val] s =
      .accept .done [] (s.setEntry i (some { e with state := startState start s.counter.sec })) := by
  have passed : stop.any (· ≤ s.counter.sec) = false := by
    cases stop with
    | none => rfl
    | some x => simpa using hstop x rfl
  simp [startEntry, parseByte_entry, checkEntry_own he hown, hidle, State.start, hl, passed]

theorem startEntry_relative {i a : EntryIx} {e anchor : Entry} {rel : Int} {divider phase : Nat}
    (he : s.entries[i] = some e) (hown : e.owner = p) (hidle : e.state = .idle)
    (hl : e.fields.link = .relative a rel divider phase) (ha : s.entries[a] = some anchor) :
    startEntry p [BitVec.ofNat 8 i.val] s = refuseIf (!anchor.planned) .wrongState
      (.accept .done [] (s.setEntry i (some { e with state := anchor.state }))) := by
  rw [startEntry, parseByte_entry, parsed_some, checkEntry_own he hown]
  simp only [hidle, State.start, hl, ha]
  simp

/-! ### ENTRY_STOP (R114) -/

theorem stopEntry_own {i : EntryIx} {e : Entry} (he : s.entries[i] = some e) (hown : e.owner = p) :
    stopEntry p [BitVec.ofNat 8 i.val] s = .accept .done [] (s.stop i e) := by
  rw [stopEntry, parseByte_entry, parsed_some, checkEntry_own he hown]

theorem stop_ports (i : EntryIx) (e : Entry) : (s.stop i e).ports = s.ports :=
  (show OnlyChanges [.entries] s (s.stop i e) by simp) .ports (by decide)

theorem stop_get {i : EntryIx} {e : Entry} (he : s.entries[i] = some e) :
    (s.stop i e).entries[i] = some { e with state := .idle } := by
  unfold State.stop
  split
  · next hp => rw [moveTrain_get, he, Option.map_some, inTrain_of_planned hp, if_pos (.inl rfl)]
  · next hp =>
    split
    · rw [State.tableSound.setEntry_get, if_pos rfl]
    · have idle : e.state = .idle := by
        cases hs : e.state <;> simp_all [Entry.planned]
      rw [he, ← idle]

theorem stop_get_other {i j : EntryIx} {e x : Entry} (hj : j ≠ i) (hx : s.entries[j] = some x) :
    (s.stop i e).entries[j] = some (if (e.state = .waiting ∨ e.state = .running) ∧ x.follows i = true ∧
      (x.state = .waiting ∨ x.state = .running) then { x with state := .idle } else x) := by
  simp only [← planned_iff]
  unfold State.stop
  split
  · next hp =>
    rw [moveTrain_get, hx, Option.map_some]
    cases hxp : x.planned with
    | true => simp [inTrain_of_planned hxp, hp, hj]
    | false => simp [inTrain_of_not_planned hxp]
  · next hp =>
    split
    · rw [State.tableSound.setEntry_get, if_neg hj, hx]
      simp [hp]
    · simp [-Fin.getElem_fin, hx, hp]

/-! ### ENTRY_FREE (R116) -/

theorem freeEntry_own {i : EntryIx} {e : Entry} (he : s.entries[i] = some e) (hown : e.owner = p)
    (hidle : e.state = .idle ∨ e.state = .ended) : freeEntry p [BitVec.ofNat 8 i.val] s =
      refuseIf (s.hasRelative i) .inUse (.accept .done [] ((s.withdraw fun n => n = i).setEntry i none)) := by
  rw [freeEntry, parseByte_entry, parsed_some, checkEntry_own he hown, planned_eq_false hidle, refuseIf_false]

theorem withdraw_ports (w : EntryIx → Bool) : (s.withdraw w).ports = s.ports :=
  (show OnlyChanges [.entries, .sched] s (s.withdraw w) by simp) .ports (by decide)

/-- A withdrawal changes nothing but the counts of the entries withdrawn, and their items. -/
theorem withdraw_get {w : EntryIx → Bool} {i : EntryIx} (hi : w i = false) :
    (s.withdraw w).entries[i] = s.entries[i] := by
  have counted (l : List HardItem) (hl : ∀ h ∈ l, h.entry ≠ i) (t : State) :
      (t.countWithdrawn l).entries[i] = t.entries[i] := by
    unfold State.countWithdrawn
    induction l generalizing t with
    | nil => rfl
    | cons h l ih =>
      have hne : i ≠ h.entry := (hl h List.mem_cons_self).symm
      rw [List.foldl_cons, ih (fun x hx => hl x (List.mem_cons_of_mem h hx))]
      unfold State.changeEntry
      split
      · rw [State.tableSound.setEntry_get, if_neg hne]
      · rfl
  refine counted _ (fun h hh hentry => ?_) s
  have := (List.mem_filter.mp hh).2
  rw [hentry, hi] at this
  cases this

@[simp] theorem withdraw_sched (w : EntryIx → Bool) :
    (s.withdraw w).sched = { s.sched with hardPlan := s.sched.hardPlan.filter fun h => !w h.entry } := rfl

theorem set_eq_of_forall {α : Type} {n : Nat} {v w : Vector α n} {i : Fin n} {x : α}
    (h : ∀ j : Fin n, j ≠ i → v[j] = w[j]) : v.set i x = w.set i x := by
  ext j hj
  by_cases hji : j = i.val
  · subst hji
    simp
  · rw [Vector.getElem_set_ne _ _ (Ne.symm hji), Vector.getElem_set_ne _ _ (Ne.symm hji)]
    exact h ⟨j, hj⟩ fun e => hji (congrArg Fin.val e)

/-- Settles O53: each request from the owner of the target and the entry passes its checks, and sets its entry. -/
theorem entryRequestsTakeEffect : Obligations.EntryRequestsTakeEffect := by
  unfold Obligations.EntryRequestsTakeEffect
  refine ⟨fun p s r q v kind o f h hv hm howner hanchor hf => ⟨_, rfl, fun hfull => ?_, fun i hi hbelow => ?_⟩,
    fun p s r q v i e kind o f h hv he hown hidle hm howner hanchor hf =>
      ⟨_, rfl, fun hkept => ?_, fun a rel divider phase hrel hl => ?_, fun period offset start stop hl hbreaks => ?_⟩,
    fun p s r q i e period offset start stop h hb he hown hidle hl hstop => ⟨_, rfl, ?_⟩,
    fun p s r q i a e anchor rel divider phase h hb he hown hidle hl ha =>
      ⟨_, rfl, fun hrun => ?_, fun hstopped => ?_⟩,
    fun p s r q i e h hb he hown => ⟨_, rfl, ?_⟩,
    fun p s r q i e h hb he hown hidle => ⟨_, rfl, fun hrel => ?_, fun hrel => ?_⟩⟩
  -- ENTRY_DEFINE
  · exact answered_of_refuse h
      (defineEntry_full (s := s.setPort p q) hv hm howner hanchor hf (lowestFree_eq_none hfull))
  · exact answered_of_setEntry h
      (defineEntry_free (s := s.setPort p q) hv hm howner hanchor hf (lowestFree_eq hi hbelow))
  -- ENTRY_CHANGE
  · refine answered_of_setEntry h ?_
    rw [changeEntryRequest_own (s := s.setPort p q) hv he hown (planned_eq_false hidle) hm howner hanchor hf,
      checkRelatives_pass (s := s.setPort p q) hkept]
    rfl
  · refine answered_of_refuse h ?_
    rw [changeEntryRequest_own (s := s.setPort p q) hv he hown (planned_eq_false hidle) hm howner hanchor hf,
      checkRelatives_relative (s := s.setPort p q) hrel hl]
  · refine answered_of_refuse h ?_
    rw [changeEntryRequest_own (s := s.setPort p q) hv he hown (planned_eq_false hidle) hm howner hanchor hf,
      checkRelatives_anchor (s := s.setPort p q) (relativeBreaks_iff.mpr hbreaks) hl]
  -- ENTRY_START
  · rw [← startState_eq]
    exact answered_of_setEntry h (hb ▸ startEntry_anchor (s := s.setPort p q) he hown hidle hl hstop)
  · refine answered_of_setEntry h ?_
    rw [hb, startEntry_relative (s := s.setPort p q) he hown hidle hl ha, planned_iff.mpr hrun]
    rfl
  · refine answered_of_refuse h ?_
    rw [hb, startEntry_relative (s := s.setPort p q) he hown hidle hl ha, planned_eq_false hstopped]
    rfl
  -- ENTRY_STOP
  · show s.answered (s.answer p 68 (stopEntry p)) p r q .done [] ∧ _
    rw [answer_accepted h (hb ▸ stopEntry_own (s := s.setPort p q) he hown)]
    exact ⟨answered_reply _ _ (stop_ports i e), by simp, stop_get (s := s.setPort p q) he,
      fun j x hj hx => stop_get_other (s := s.setPort p q) hj hx⟩
  -- ENTRY_FREE
  · refine answered_of_refuse h ?_
    have hinUse : (s.setPort p q).hasRelative i = true := hrel
    rw [hb, freeEntry_own (s := s.setPort p q) he hown hidle, hinUse, refuseIf_true]
  · have freed : freeEntry p r.body (s.setPort p q) =
        .accept .done [] (((s.setPort p q).withdraw fun n => n = i).setEntry i none) := by
      have hfree : (s.setPort p q).hasRelative i = false := hrel
      rw [hb, freeEntry_own (s := s.setPort p q) he hown hidle, hfree, refuseIf_false]
    show s.answered (s.answer p 69 (freeEntry p)) p r q .done [] ∧ _
    rw [answer_accepted h freed]
    refine ⟨answered_reply _ _ (withdraw_ports (s := s.setPort p q) fun n => n = i), by simp, ?_, fun x hx => ?_, ?_⟩
    · exact set_eq_of_forall fun j hj => withdraw_get (s := s.setPort p q) (by simpa using hj)
    · simpa using (List.mem_filter.mp hx).2
    · show ((s.setPort p q).withdraw fun n => n = i).sched = _
      rw [withdraw_sched]
      simp

end Sys2Proof.Machine
end

section
/-! OUTPUT_ASSIGN (O54): the owner and the compensation set, and the entries that a reclaim frees (R109, R110). -/

namespace Sys2Proof.Machine
open ReferenceInputs

variable {s : State} {p : Port} {r : Request} {q : PortRec} {o : Output} {owner : Option Port}

/-! ### The codes of the body -/

theorem output_ofCode_code (o : Output) : Output.ofCode o.code = some o := by
  have drops : ∀ d : DropIx, Output.ofCode (Output.drop d).code = some (.drop d) := by decide
  have pulses : ∀ x : Px, Output.ofCode (Output.px x).code = some (.px x) := by decide
  cases o with
  | drop d => exact drops d
  | px x => exact pulses x

theorem ownerOf_code (owner : Option Port) :
    ownerOf (match owner with | some x => (x.val : Int) | none => 4) = some owner := by
  cases owner with
  | none => rfl
  | some x =>
    have hx : ¬ (x.val : Int) = 4 := by omega
    simp only [ownerOf, if_neg hx, indexOf_val]
    rfl

theorem switchOfCode_ite (b : Bool) : switchOfCode (if b then 1 else 0) = some b := by cases b <;> rfl

/-- The oldest request goes out of its queue, and the port is as it was beside. -/
theorem oldest_online (h : (s.ports[p]).oldest = some (r, q)) : q.online = (s.ports[p]).online := by
  unfold PortRec.oldest at h
  split at h
  · cases h
  · cases h
    rfl
  · cases h
    rfl
  · split at h <;> cases h <;> rfl

/-- What a port has waiting says nothing of whether an owner is OFFLINE. -/
theorem ownerOffline_setPort (h : (s.ports[p]).oldest = some (r, q)) (o : Output) :
    (s.setPort p q).ownerOffline o = s.ownerOffline o := by
  have online (x : Port) : ((s.setPort p q).ports[x]).online = (s.ports[x]).online := by
    by_cases hx : x = p
    · subst hx
      simpa using oldest_online h
    · simp [Fin.val_inj, Ne.symm hx]
  have same : (s.setPort p q).outputOwner o = s.outputOwner o := rfl
  simp only [State.ownerOffline, same, online]

theorem ownerOffline_iff : s.ownerOffline o = true ↔ ∃ x, s.outputOwner o = some x ∧ (s.ports[x]).online = false := by
  unfold State.ownerOffline
  split
  · next x hx => simp [hx]
  · next hx => simp [hx]

/-! ### The verdict -/

/-- The checks of OUTPUT_ASSIGN from the holder come down to whether entries stand in its way (R109, R110). -/
theorem assignOutput_holder {v : AssignParts} {reclaim : Bool} (hv : parseOutputAssign r.body = some v)
    (hh : s.holder = some p) (ho : v.output = o.code)
    (howner : v.owner = (match owner with | some x => (x.val : Int) | none => 4))
    (hreclaim : v.reclaim = (if reclaim then 1 else 0)) (hc : badCable o v.compensation = false) :
    assignOutput p r.body s = refuseIf (s.takesAway o owner && !(reclaim && s.ownerOffline o)) .inUse
      (.accept .done (countBytes (if s.takesAway o owner then s.reclaimCount o else 0))
        (s.assign o owner v.compensation).syncAlarms) := by
  have hout : Output.ofCode v.output = some o := ho ▸ output_ofCode_code o
  have hown : ownerOf v.owner = some owner := howner ▸ ownerOf_code owner
  have hrec : switchOfCode v.reclaim = some reclaim := hreclaim ▸ switchOfCode_ite reclaim
  rw [assignOutput, hv, parsed_some, notHolder_of_holder hh, refuseIf_false]
  simp only [hout, hown, hrec, hc, refuseIf_false]

/-! ### What an assignment leaves -/

section
variable (s) (o) (owner)
variable (cable : Option Int)

/-- What the setting of an owner and a compensation leaves in every other field. -/
theorem setOwnerCable_only : OnlyChanges [.px, .drops] s ((s.setOwner o owner).setCable o cable) := by simp

theorem setOwnerCable_outputOwner (x : Output) :
    ((s.setOwner o owner).setCable o cable).outputOwner x = if x = o then owner else s.outputOwner x := by
  rw [owner_of_table (SameTable.refl _).setCable, outputOwner_setOwner]

end

/-- A compensation in range is set as it is (R109). -/
theorem setOwnerCable_compensation {x : Px} {c : Int} (hc : badCable (.px x) (some c) = false) :
    (((((s.setOwner (.px x) owner).setCable (.px x) (some c)).px[x]).compensation : Nat) : Int) = c := by
  have hrange : 0 ≤ c := by
    have : inRange 0 100000 c = true := by simpa [badCable, optInRange] using hc
    simp only [inRange, Bool.and_eq_true, decide_eq_true_eq] at this
    exact this.1
  simpa [State.setCable] using hrange

theorem assign_of_free {cable : Option Int} (h : s.takesAway o owner = false) :
    s.assign o owner cable = (s.setOwner o owner).setCable o cable := by simp [State.assign, h]

theorem assign_of_reclaim {cable : Option Int} (h : s.takesAway o owner = true) :
    s.assign o owner cable = ((s.freeReclaimed o).setOwner o owner).setCable o cable := by simp [State.assign, h]

/-- A reclaim leaves the entries that it does not free as they are. -/
theorem freeReclaimed_kept {i : EntryIx} (h : s.reclaimed o i = false) :
    (s.freeReclaimed o).entries[i] = s.entries[i] := by
  rw [freeReclaimed_get, h, withdraw_get h]
  rfl

theorem freeReclaimed_freed {i : EntryIx} (h : s.reclaimed o i = true) : (s.freeReclaimed o).entries[i] = none := by
  rw [freeReclaimed_get, if_pos h]

theorem freeReclaimed_hardPlan {x : HardItem} (h : x ∈ (s.freeReclaimed o).sched.hardPlan) :
    s.reclaimed o x.entry = false := by
  have : x ∈ s.sched.hardPlan.filter fun y => !s.reclaimed o y.entry := h
  simpa using (List.mem_filter.mp this).2

theorem assignOutput_only (b : List Byte) :
    (assignOutput p b s).leaves (OnlyChanges (touches (.outputAssign p)) s) := by
  refine .parsed fun v _ => .refuseIf fun _ => ?_
  split
  · exact .refuseIf fun _ => .refuseIf fun _ => .accept (by simp [touches])
  · exact .refuse

/-- What the reply and the hand-over of the alarm conditions leave of an accepted assignment. -/
structure Assigned (u t : State) : Prop where
  entries : t.entries = u.entries
  sched : t.sched = u.sched
  px : t.px = u.px
  owners : ∀ x, t.outputOwner x = u.outputOwner x

/-- An assignment that is accepted leaves its reply, and the emission as it makes it. -/
theorem answered_assign {u : State} {body : List Byte} (h : s.ready p 64 r q)
    (hf : assignOutput p r.body (s.setPort p q) = .accept .done body u.syncAlarms)
    (hports : u.ports = (s.setPort p q).ports) :
    s.answered (s.answer p 64 (assignOutput p)) p r q .done body ∧ Assigned u (s.answer p 64 (assignOutput p)) := by
  have ports : u.syncAlarms.ports = u.ports := (show OnlyChanges [.alarms, .views] u _ by simp) .ports (by decide)
  have after : OnlyChanges [.alarms, .views, .ports] u (u.syncAlarms.reply p r .done body) := by simp
  have same : SameTable u (u.syncAlarms.reply p r .done body) := table_frame (after.mono (by decide))
  rw [answer_accepted h hf]
  exact ⟨answered_reply _ _ (ports.trans hports),
    ⟨after .entries (by decide), after .sched (by decide), after .px (by decide), owner_of_table same⟩⟩

/-- An output that no entry targets, or that keeps its owner, is set at once (R109). -/
theorem assign_free {v : AssignParts} (h : s.ready p 64 r q) (hc : badCable o v.compensation = false)
    (hf : assignOutput p r.body (s.setPort p q) = .accept .done [0, 0, 0, 0]
      (((s.setPort p q).setOwner o owner).setCable o v.compensation).syncAlarms) :
    ∀ t, t = s.answer p 64 (assignOutput p) →
      s.answered t p r q .done [0, 0, 0, 0] ∧ t.outputOwner o = owner ∧ t.entries = s.entries ∧ t.sched = s.sched ∧
        (∀ x, o = .px x → ∀ c, v.compensation = some c → ((t.px[x]).compensation : Int) = c) ∧
        (∀ x : Output, x ≠ o → t.outputOwner x = s.outputOwner x) := by
  rintro t rfl
  have only := setOwnerCable_only (s.setPort p q) o owner v.compensation
  obtain ⟨hanswered, after⟩ := answered_assign h hf (only .ports (by decide))
  refine ⟨hanswered, ?_, after.entries.trans (only .entries (by decide)), after.sched.trans (only .sched (by decide)),
    fun x hx c hcomp => ?_, fun x hx => ?_⟩
  · rw [after.owners, setOwnerCable_outputOwner, if_pos rfl]
  · subst hx
    rw [hcomp] at hc after
    rw [after.px]
    exact setOwnerCable_compensation hc
  · rw [after.owners, setOwnerCable_outputOwner, if_neg hx]
    rfl

/-- A reclaim frees its entries, and then the owner is set (R110). -/
theorem assign_reclaimed {v : AssignParts} {body : List Byte} (h : s.ready p 64 r q)
    (hf : assignOutput p r.body (s.setPort p q) = .accept .done body
      ((((s.setPort p q).freeReclaimed o).setOwner o owner).setCable o v.compensation).syncAlarms) :
    ∀ t, t = s.answer p 64 (assignOutput p) →
      s.answered t p r q .done body ∧ t.outputOwner o = owner ∧
        (∀ i : EntryIx, s.reclaimed o i = true → t.entries[i] = none) ∧
        (∀ i : EntryIx, s.reclaimed o i = false → t.entries[i] = s.entries[i]) ∧
        ∀ h ∈ t.sched.hardPlan, s.reclaimed o h.entry = false := by
  rintro t rfl
  have only := setOwnerCable_only ((s.setPort p q).freeReclaimed o) o owner v.compensation
  have ports : ((s.setPort p q).freeReclaimed o).ports = (s.setPort p q).ports :=
    (show OnlyChanges [.entries, .sched] (s.setPort p q) _ by simp) .ports (by decide)
  obtain ⟨hanswered, after⟩ := answered_assign h hf ((only .ports (by decide)).trans ports)
  have entries := after.entries.trans (only .entries (by decide))
  have sched := after.sched.trans (only .sched (by decide))
  refine ⟨hanswered, by rw [after.owners, setOwnerCable_outputOwner, if_pos rfl], fun i hi => ?_, fun i hi => ?_,
    fun x hx => ?_⟩
  · rw [entries]
    exact freeReclaimed_freed (s := s.setPort p q) hi
  · rw [entries]
    exact freeReclaimed_kept (s := s.setPort p q) hi
  · rw [sched] at hx
    exact freeReclaimed_hardPlan (s := s.setPort p q) hx

/-- Settles O54: without entries in the way the owner and the compensation are set; with them the request is refused, or
a reclaim frees them first. -/
theorem outputAssignSetsOwner : Obligations.OutputAssignSetsOwner := by
  unfold Obligations.OutputAssignSetsOwner
  intro p s r q v o owner reclaim h hv hh ho howner hreclaim hc
  have verdict := assignOutput_holder (s := s.setPort p q) hv hh ho howner hreclaim hc
  have takes : (s.setPort p q).takesAway o owner = s.takesAway o owner := rfl
  have targeted (hne : s.outputOwner o ≠ owner)
      (h : ∃ (i : EntryIx) (e : Entry), s.entries[i] = some e ∧ e.fields.target = o) : s.takesAway o owner = true := by
    simpa [State.takesAway, hne] using targeted_iff.mpr h
  rw [takes, ownerOffline_setPort h.1] at verdict
  refine ⟨_, rfl, fun hfree => ?_, fun hne htargeted hkept => ?_, fun x hx hoffline hne hrec htargeted => ?_, ?_⟩
  · have free : s.takesAway o owner = false := takesAway_eq_false.mpr hfree
    have none_freed : countBytes 0 = [0, 0, 0, 0] := by decide
    rw [free, assign_of_free (s := s.setPort p q) free, Bool.false_and, refuseIf_false, if_neg Bool.false_ne_true,
      none_freed] at verdict
    exact assign_free h hc verdict _ rfl
  · have refused : (reclaim && s.ownerOffline o) = false := by
      rcases hkept with hrec | honline
      · rw [hrec, Bool.false_and]
      · rw [Bool.and_eq_false_iff, ← Bool.not_eq_true (s.ownerOffline o), ownerOffline_iff]
        refine .inr fun ⟨x, hx, hoff⟩ => ?_
        rw [honline x hx] at hoff
        cases hoff
    rw [targeted hne htargeted, refused] at verdict
    exact answered_of_refuse h verdict
  · rw [targeted hne htargeted, hrec, ownerOffline_iff.mpr ⟨x, hx, hoffline⟩,
      assign_of_reclaim (s := s.setPort p q) (targeted hne htargeted)] at verdict
    exact assign_reclaimed h verdict _ rfl
  · exact answer_only _ s p 64 _ (by simp [touches]) fun b u => assignOutput_only b

end Sys2Proof.Machine
end

section
/-! The budget of a window (O18): why what is gathered is suppressed, placed or skipped, and what a planning adds to
the plans (R119 to R122). -/

namespace Sys2Proof.Machine

variable {s : State}

/-! ### Suppression (R119) -/

theorem squelchOf_own {f : EntryFields} {x : Grade} (h : f.squelch = some x) : s.squelchOf f = x := by
  simp [State.squelchOf, h]

theorem squelchOf_drop {f : EntryFields} {d : DropIx} (h : f.squelch = none) (ht : f.target = .drop d) :
    s.squelchOf f = (s.profiles[(s.drops[d]).profile]).squelch := by
  simp [State.squelchOf, h, ht, State.profileOf]

theorem squelchOf_px {f : EntryFields} {x : Px} (h : f.squelch = none) (ht : f.target = .px x) :
    s.squelchOf f = .hold4 := by
  simp [State.squelchOf, h, ht]

theorem dropUnready_iff {o : Output} :
    s.dropUnready o = true ↔ ∃ d, o = .drop d ∧ (s.drops[d]).state ≠ .serving := by
  cases o <;> simp [State.dropUnready]

theorem inBlank_iff {due : Int} :
    s.inBlank due = true ↔ ∃ b, s.tb.blank = some b ∧ elapsed b.start (wrapInstant due) < b.length := by
  unfold State.inBlank
  split
  · next b hb => simp [hb]
  · next hb => simp [hb]

theorem turnBlocks_iff {o : Output} {transmit : Int} :
    s.turnBlocks o transmit = true ↔ ∃ d start message limit t1 maxRtt, o = .drop d ∧
      (s.drops[d]).turn = .out start message limit t1 maxRtt ∧
      transmit < s.counter.instant + signedElapsed s.counter.instant start +
        (s.profiles[(s.drops[d]).profile]).turnLimit * 1000000 := by
  unfold State.turnBlocks
  split
  · next d =>
    split
    · next start message limit t1 maxRtt hturn =>
      simp only [decide_eq_true_eq]
      simp [-Fin.getElem_fin, hturn, State.lift, State.profileOf]
    · next hturn => simp [-Fin.getElem_fin, hturn]
  · simp

/-- The six causes of R119. -/
theorem suppressed_iff {start : Int} {g : Gathered} : s.suppressed start g = true ↔
    s.tb.state = .warmup ∨ (∃ d, g.fields.target = .drop d ∧ (s.drops[d]).state ≠ .serving) ∨
      (s.squelchOf g.fields).code < s.tb.grade.code ∨
      (∃ b, s.tb.blank = some b ∧ elapsed b.start (wrapInstant g.due) < b.length) ∨
      (∃ d start message limit t1 maxRtt, g.fields.target = .drop d ∧
        (s.drops[d]).turn = .out start message limit t1 maxRtt ∧
        g.transmit < s.counter.instant + signedElapsed s.counter.instant start +
          (s.profiles[(s.drops[d]).profile]).turnLimit * 1000000) ∨
      g.transmit < start := by
  simp only [State.suppressed, Bool.or_eq_true, decide_eq_true_eq, dropUnready_iff, inBlank_iff, turnBlocks_iff,
    Grade.worseThan, or_assoc]

/-! ### One of those gathered (R120, R121) -/

theorem countSuppressed_eq :
    Entry.countSuppressed = fun e => { e with suppressed := min 4294967295 (e.suppressed + 1) } := by
  funext e
  simp [Entry.countSuppressed, countUp, Config.max32, Nat.min_comm]

theorem countSkipped_eq : Entry.countSkipped = fun e => { e with skipped := min 4294967295 (e.skipped + 1) } := by
  funext e
  simp [Entry.countSkipped, countUp, Config.max32, Nat.min_comm]

theorem fits_one_iff {b : Budget} {o : Output} :
    b.fits 1 o = true ↔ b.units < 24 ∧ ∀ d, o = .drop d → b.items[d] < 4 := by
  cases o with
  | drop d =>
    simp only [Budget.fits, Bool.and_eq_true, decide_eq_true_eq]
    simp [Config.windowBudget, Config.dropItems]
  | px x =>
    simp only [Budget.fits, Bool.and_eq_true, decide_eq_true_eq]
    simp [Config.windowBudget]

theorem spend_units (b : Budget) (units : Nat) (o : Output) : (b.spend units o).units = b.units + units := by
  cases o <;> rfl

theorem spend_items (b : Budget) (units : Nat) (o : Output) (d : DropIx) :
    (b.spend units o).items[d] = b.items[d] + if o = .drop d then 1 else 0 := by
  cases o with
  | px x => simp [Budget.spend]
  | drop j =>
    by_cases hj : j = d
    · subst hj
      simp [Budget.spend]
    · simp [Budget.spend, hj, Fin.val_inj]

section
variable {p : Planning} {g : Gathered}

/-- The item that a gathered one makes in the plan. -/
def Planning.itemOf (p : Planning) (g : Gathered) : HardItem :=
  { entry := g.entry, target := g.fields.target, due := wrapInstant g.due, transmit := wrapInstant g.transmit
    window := windowIndex p.start, squelch := p.s.squelchOf g.fields, width := g.fields.width.getD 0 }

theorem hard_of_suppressed (h : p.s.suppressed p.start g = true) :
    p.hard g = { p with s := p.s.changeEntry g.entry Entry.countSuppressed } := by
  rw [Planning.hard, if_pos h]

theorem hard_of_fits (h : p.s.suppressed p.start g = false) (hfits : p.budget.fits 1 g.fields.target = true) :
    p.hard g = { p with
      budget := p.budget.spend 1 g.fields.target
      s := p.s.setSched { p.s.sched with hardPlan := p.s.sched.hardPlan ++ [p.itemOf g] } } := by
  rw [Planning.hard, if_neg (by simp [h]), if_pos hfits]
  rfl

theorem hard_of_full (h : p.s.suppressed p.start g = false) (hfull : p.budget.fits 1 g.fields.target = false) :
    p.hard g = { p with
      s := (p.s.changeEntry g.entry Entry.countSkipped).setSched
        { p.s.sched with overrunHold := some (p.s.osc.now + Config.overrunHoldNs) } } := by
  rw [Planning.hard, if_neg (by simp [h]), if_neg (by simp [hfull])]

end

/-! ### What a planning adds -/

/-- The items that a planning has added to the plans so far, paid for from its budget. -/
structure Planning.Adds (s : State) (spent : Budget) (p : Planning) (hs : List HardItem) (ss : List SoftItem) :
    Prop where
  hardPlan : p.s.sched.hardPlan = s.sched.hardPlan ++ hs
  softPlan : p.s.sched.softPlan = s.sched.softPlan ++ ss
  units : p.budget.units = spent.units + hs.length + (ss.map SoftItem.units).sum
  items : ∀ d : DropIx, p.budget.items[d] = spent.items[d] + hardOf d hs + softOf d ss
  budget : p.budget.inRange

theorem hardOf_append (d : DropIx) (hs : List HardItem) (h : HardItem) :
    hardOf d (hs ++ [h]) = hardOf d hs + if h.target = .drop d then 1 else 0 := by
  unfold hardOf
  split <;> simp_all

theorem softOf_append (d : DropIx) (ss : List SoftItem) (x : SoftItem) :
    softOf d (ss ++ [x]) = softOf d ss + if x.drop = d then 1 else 0 := by
  unfold softOf
  split <;> simp_all

namespace Planning.Adds

variable {spent : Budget} {p : Planning} {hs : List HardItem} {ss : List SoftItem}

/-- A hard item placed is one more, of one unit. -/
theorem placeHard (h : p.Adds s spent hs ss) {g : Gathered} (hsup : p.s.suppressed p.start g = false)
    (hfits : p.budget.fits 1 g.fields.target = true) : (p.hard g).Adds s spent (hs ++ [p.itemOf g]) ss := by
  rw [hard_of_fits hsup hfits]
  refine ⟨?_, h.softPlan, ?_, fun d => ?_, h.budget.spend hfits⟩
  · simp [h.hardPlan]
  · simp only [spend_units, h.units, List.length_append, List.length_singleton]
    omega
  · simp only [spend_items, h.items, hardOf_append, Planning.itemOf]
    omega

/-- A soft item placed is one more, of its units. -/
theorem placeSoft (h : p.Adds s spent hs ss) {d : DropIx} {units : Nat} {k : SoftKind}
    (hfits : p.budget.fits units (.drop d) = true)
    (hunits : ∀ x : SoftItem, x.kind = k → x.units = units) : ∃ ss, (p.placeSoft d units k).Adds s spent hs ss := by
  refine ⟨ss ++ [{ drop := d, kind := k, transmit := wrapInstant (p.softAt d k.length)
                   window := windowIndex p.start }], h.hardPlan, ?_, ?_, fun j => ?_, h.budget.spend hfits⟩
  · simp [Planning.placeSoft, h.softPlan]
  · rw [List.map_append, List.map_singleton, List.sum_append, List.sum_singleton, hunits _ rfl]
    simp only [Planning.placeSoft, spend_units, h.units]
    omega
  · simp only [Planning.placeSoft, spend_items, h.items, softOf_append, Output.drop.injEq]
    omega

theorem placeAnnouncement (h : p.Adds s spent hs ss) {d : DropIx} {a : Announcement}
    (hfits : p.budget.fits a.units (.drop d) = true) : ∃ ss, (p.placeAnnouncement d a).Adds s spent hs ss := by
  obtain ⟨ss', placed⟩ := h.placeSoft (k := .announce a) hfits fun x hx => by simp [SoftItem.units, hx]
  exact ⟨ss', placed.hardPlan, placed.softPlan, placed.units, placed.items, placed.budget⟩

theorem urgent (h : p.Adds s spent hs ss) (d : DropIx) : ∃ ss, (p.urgent d).Adds s spent hs ss := by
  unfold Planning.urgent
  split
  · split
    · next hfits => exact h.placeAnnouncement (by rw [Planning.countsInRange.urgent_units]; exact hfits)
    · exact ⟨ss, h.hardPlan, h.softPlan, h.units, h.items, h.budget⟩
  · exact ⟨ss, h⟩

theorem trickle (h : p.Adds s spent hs ss) (d : DropIx) : ∃ ss, (p.trickle d).Adds s spent hs ss := by
  unfold Planning.trickle
  split
  · split
    · next hfits => exact h.placeAnnouncement hfits
    · exact ⟨ss, h⟩
  · exact ⟨ss, h⟩

/-- A PROBE or an OFFER is what falls due, and costs one unit (R120). -/
theorem exchangeDue_kind {d : DropIx} {k : SoftKind} (h : s.exchangeDue d = some k) : k = .probe ∨ k = .offer := by
  unfold State.exchangeDue at h
  dsimp only at h
  split at h
  · exact .inl (by simpa using (Option.ite_none_left_eq_some.mp h).2.symm)
  · split at h
    · exact .inr (by simpa using (Option.ite_none_left_eq_some.mp h).2.symm)
    · cases h

theorem exchange (h : p.Adds s spent hs ss) (d : DropIx) : ∃ ss, (p.exchange d).Adds s spent hs ss := by
  unfold Planning.exchange
  split
  · next k hk =>
    split
    · next hfits =>
      refine h.placeSoft (Bool.and_eq_true_iff.mp hfits).1 fun x hx => ?_
      rcases exchangeDue_kind hk with rfl | rfl <;> simp [SoftItem.units, hx]
    · exact ⟨ss, h⟩
  · exact ⟨ss, h⟩

/-- What each turn of a pass adds, the pass adds. -/
theorem pass (h : ∃ ss, p.Adds s spent hs ss) {f : Planning → DropIx → Planning}
    (hf : ∀ (q : Planning) (d : DropIx) ss, q.Adds s spent hs ss → ∃ ss, (f q d).Adds s spent hs ss) :
    ∃ ss, (p.pass f).Adds s spent hs ss :=
  List.foldlRecOn (motive := fun q => ∃ ss, q.Adds s spent hs ss) _ f h fun q ⟨ss, hq⟩ d _ => hf q d ss hq

end Planning.Adds

/-! ### The hard items of a planning (R117, R119) -/

/-- A hard item that the rules let a planning place: none of the causes that a later look can still see holds of it. -/
structure HardItem.Placeable (s : State) (h : HardItem) : Prop where
  state : s.tb.state ≠ .warmup
  grade : s.tb.grade.code ≤ h.squelch.code
  blank : ∀ b, s.tb.blank = some b → b.length ≤ elapsed b.start h.due
  serving : ∀ d : DropIx, h.target = .drop d → (s.drops[d]).state = .serving
  entry : ∃ e, s.entries[h.entry] = some e ∧ e.fields.target = h.target ∧ (e.state = .waiting ∨ e.state = .running) ∧
    h.squelch = s.squelchOf e.fields

/-- What is gathered is of an entry that is planned (R118). -/
theorem mem_gather {stop : Int} {g : Gathered} (h : g ∈ s.gather stop) :
    ∃ e, s.entries[g.entry] = some e ∧ e.planned = true ∧ g.fields = e.fields := by
  obtain ⟨i, -, hg⟩ := List.mem_flatMap.mp h
  unfold State.gatherEntry at hg
  split at hg
  · next e he =>
    split at hg
    · next hplanned =>
      obtain ⟨due, -, rfl⟩ := List.mem_map.mp hg
      exact ⟨e, he, hplanned, rfl⟩
    · cases hg
  · cases hg

theorem squelchOf_congr {t : State} (hdrops : t.drops = s.drops) (hprofiles : t.profiles = s.profiles)
    (f : EntryFields) : t.squelchOf f = s.squelchOf f := by
  simp only [State.squelchOf, State.profileOf, hdrops, hprofiles]

/-- What is not suppressed makes an item that may be placed. -/
theorem itemOf_placeable {p : Planning} {g : Gathered} (k : OnlyChanges [.entries, .sched] s p.s)
    (hg : ∃ e, s.entries[g.entry] = some e ∧ e.planned = true ∧ g.fields = e.fields)
    (h : p.s.suppressed p.start g = false) : (p.itemOf g).Placeable s := by
  obtain ⟨e, he, hplanned, hfields⟩ := hg
  have tb : p.s.tb = s.tb := k .tb (by decide)
  have drops : p.s.drops = s.drops := k .drops (by decide)
  have profiles : p.s.profiles = s.profiles := k .profiles (by decide)
  rw [← Bool.not_eq_true, suppressed_iff, tb] at h
  simp only [not_or, not_exists, not_and, not_lt, Decidable.not_not] at h
  obtain ⟨hstate, hserving, hgrade, hblank, -, -⟩ := h
  rw [drops] at hserving
  exact ⟨hstate, hgrade, hblank, hserving, e, he, by rw [← hfields]; rfl, planned_iff.mp hplanned,
    by rw [← squelchOf_congr drops profiles, ← hfields]; rfl⟩

/-- The hard pass adds items that may be placed, and no other. -/
theorem hardPass_adds {spent : Budget} (l : List Gathered)
    (hl : ∀ g ∈ l, ∃ e, s.entries[g.entry] = some e ∧ e.planned = true ∧ g.fields = e.fields) {p : Planning}
    {hs : List HardItem} (k : OnlyChanges [.entries, .sched] s p.s) (h : p.Adds s spent hs [])
    (hplaceable : ∀ x ∈ hs, x.Placeable s) :
    ∃ hs, (l.foldl Planning.hard p).Adds s spent hs [] ∧ ∀ x ∈ hs, x.Placeable s := by
  induction l generalizing p hs with
  | nil => exact ⟨hs, h, hplaceable⟩
  | cons g l ih =>
    have kept : OnlyChanges [.entries, .sched] s (p.hard g).s :=
      (Planning.hard_only _ s p g (by decide) (by decide)).mpr k
    have rest := fun x hx => hl x (List.mem_cons_of_mem g hx)
    rw [List.foldl_cons]
    cases hsup : p.s.suppressed p.start g with
    | true =>
      refine ih rest kept ?_ hplaceable
      have same : (p.s.changeEntry g.entry Entry.countSuppressed).sched = p.s.sched :=
        (show OnlyChanges [.entries] p.s _ by simp) .sched (by decide)
      rw [hard_of_suppressed hsup]
      exact ⟨by rw [same, h.hardPlan], by rw [same, h.softPlan], h.units, h.items, h.budget⟩
    | false =>
      cases hfits : p.budget.fits 1 g.fields.target with
      | true =>
        refine ih rest kept (h.placeHard hsup hfits) fun x hx => ?_
        rcases List.mem_append.mp hx with old | new
        · exact hplaceable x old
        · rw [List.mem_singleton.mp new]
          exact itemOf_placeable k (hl g List.mem_cons_self) hsup
      | false =>
        refine ih rest kept ?_ hplaceable
        rw [hard_of_full hsup hfits]
        exact ⟨h.hardPlan, h.softPlan, h.units, h.items, h.budget⟩

/-- A planning adds hard items that may be placed, and soft items, within its budget (R119 to R122). -/
theorem plan_adds (ahead : Nat) {spent : Budget} (hspent : spent.inRange) :
    ∃ hs ss, (s.plan ahead spent).Adds s spent hs ss ∧ ∀ x ∈ hs, x.Placeable s := by
  have begun : (s.beginPlanning (s.windowStart ahead) spent).Adds s spent [] [] :=
    ⟨(List.append_nil _).symm, (List.append_nil _).symm, by rfl, fun _ => by rfl, hspent⟩
  have frame : OnlyChanges [.entries, .sched] s (s.beginPlanning (s.windowStart ahead) spent).s := by
    simp [State.beginPlanning]
  obtain ⟨hs, hard, hplaceable⟩ :=
    hardPass_adds _ (fun g hg => mem_gather (stop := s.windowStart ahead + Config.psPerMs) hg) frame begun (by simp)
  have urgent := Planning.Adds.pass ⟨[], hard⟩ fun q d _ hq => hq.urgent d
  have trickle := Planning.Adds.pass urgent fun q d _ hq => hq.trickle d
  obtain ⟨ss, soft⟩ := Planning.Adds.pass trickle fun q d _ hq => hq.exchange d
  exact ⟨hs, ss, soft, hplaceable⟩

/-- Settles O18: the hard pass places what none of the causes suppresses while the budget lasts, and every pass pays for
what it adds. -/
theorem windowBudgetHolds : Obligations.WindowBudgetHolds := by
  unfold Obligations.WindowBudgetHolds
  refine ⟨fun s ahead spent hunits hitems => ?_, fun p g level hlevel => ?_⟩
  · obtain ⟨hs, ss, adds, hplaceable⟩ := plan_adds (s := s) ahead ⟨hunits, hitems⟩
    refine ⟨hs, ss, _, rfl, adds.hardPlan, adds.softPlan, adds.units, adds.budget.units,
      fun d => ⟨adds.items d, adds.budget.items d⟩, fun h hh => ?_⟩
    obtain ⟨hstate, hgrade, hblank, hserving, e, he, htarget, hplanned, hsquelch⟩ := hplaceable h hh
    refine ⟨hstate, hgrade, hblank, hserving, e, he, htarget, hplanned, ?_⟩
    rw [hsquelch, ← htarget]
    cases hsq : e.fields.squelch with
    | some x => exact squelchOf_own hsq
    | none =>
      cases ht : e.fields.target with
      | drop d => exact squelchOf_drop hsq ht
      | px x => exact squelchOf_px hsq ht
  · have hlevel : p.s.squelchOf g.fields = level := by
      subst hlevel
      cases hsq : g.fields.squelch with
      | some x => exact squelchOf_own hsq
      | none =>
        cases ht : g.fields.target with
        | drop d => exact squelchOf_drop hsq ht
        | px x => exact squelchOf_px hsq ht
    subst hlevel
    refine ⟨suppressed_iff, fun hsup => ?_, fun hsup hunits hitems => ?_, fun hsup hfull => ?_⟩
    · rw [hard_of_suppressed hsup, countSuppressed_eq]
    · rw [hard_of_fits hsup (fits_one_iff.mpr ⟨hunits, hitems⟩)]
      refine ⟨spend_units _ _ _, fun d hd => ?_, fun x hx => ?_, rfl⟩
      · simp [hd, Budget.spend]
      · simp [hx, Budget.spend]
    · have full : p.budget.fits 1 g.fields.target = false := by
        rw [← Bool.not_eq_true, fits_one_iff]
        rintro ⟨hunits, hitems⟩
        rcases hfull with hfull | ⟨d, hd, hfull⟩
        · omega
        · have := hitems d hd
          omega
      rw [hard_of_full hsup full, countSkipped_eq]
      rfl

end Sys2Proof.Machine
end

section
/-! A counter millisecond boundary (O17): where the counter is taken to, and what the planning of the next window leaves
of the horizons and the drop timers (R117, R118, R125, R136). -/

namespace Sys2Proof.Machine

variable {s t u : State}

/-! ### What a planning settles as it begins -/

/-- The three timers of a drop that count counter milliseconds. -/
def DropRec.timers (r : DropRec) : Option Nat × Option Nat × Option Nat := (r.annTimer, r.probeTimer, r.offerTimer)

theorem recordPlaced_timers (r : DropRec) (a : Announcement) : (r.recordPlaced a).timers = r.timers := by
  unfold DropRec.recordPlaced
  split <;> rfl

/-- Two states agree in what a planning settles before its first item, and in the drop timers. -/
structure State.PlansAs (s t : State) : Prop where
  dropHorizon : t.sched.dropHorizon = s.sched.dropHorizon
  pxHorizon : t.sched.pxHorizon = s.sched.pxHorizon
  gradeUsed : t.sched.gradeUsed = s.sched.gradeUsed
  timers : ∀ d : DropIx, (t.drops[d]).timers = (s.drops[d]).timers

namespace State.PlansAs

theorem changeEntry (h : s.PlansAs t) (i : EntryIx) (f : Entry → Entry) : s.PlansAs (t.changeEntry i f) := by
  have k : OnlyChanges [.entries] t (t.changeEntry i f) := by simp
  have sched : (t.changeEntry i f).sched = t.sched := k .sched (by decide)
  have drops : (t.changeEntry i f).drops = t.drops := k .drops (by decide)
  exact ⟨by rw [sched, h.dropHorizon], by rw [sched, h.pxHorizon], by rw [sched, h.gradeUsed],
    fun d => by rw [drops, h.timers]⟩

variable {p : Planning}

theorem hard (h : s.PlansAs p.s) (g : Gathered) : s.PlansAs (p.hard g).s := by
  unfold Planning.hard
  split
  · exact h.changeEntry _ _
  · split
    · exact ⟨h.dropHorizon, h.pxHorizon, h.gradeUsed, h.timers⟩
    · exact ⟨h.dropHorizon, h.pxHorizon, h.gradeUsed, (h.changeEntry g.entry Entry.countSkipped).timers⟩

theorem placeSoft (h : s.PlansAs p.s) (d : DropIx) (units : Nat) (k : SoftKind) :
    s.PlansAs (p.placeSoft d units k).s :=
  ⟨h.dropHorizon, h.pxHorizon, h.gradeUsed, h.timers⟩

theorem placeAnnouncement (h : s.PlansAs p.s) (d : DropIx) (a : Announcement) :
    s.PlansAs (p.placeAnnouncement d a).s := by
  have placed := h.placeSoft d a.units (.announce a)
  refine ⟨placed.dropHorizon, placed.pxHorizon, placed.gradeUsed, fun j => ?_⟩
  by_cases hj : j = d
  · subst hj
    rw [Planning.placeAnnouncement, State.setDrop_self, recordPlaced_timers, placed.timers]
  · rw [Planning.placeAnnouncement, State.setDrop_other _ _ _ _ hj, placed.timers]

theorem urgent (h : s.PlansAs p.s) (d : DropIx) : s.PlansAs (p.urgent d).s := by
  unfold Planning.urgent
  split
  · split
    · exact h.placeAnnouncement d _
    · exact h
  · exact h

theorem trickle (h : s.PlansAs p.s) (d : DropIx) : s.PlansAs (p.trickle d).s := by
  unfold Planning.trickle
  split
  · split
    · exact h.placeAnnouncement d _
    · exact h
  · exact h

theorem exchange (h : s.PlansAs p.s) (d : DropIx) : s.PlansAs (p.exchange d).s := by
  unfold Planning.exchange
  split
  · split
    · exact h.placeSoft d _ _
    · exact h
  · exact h

theorem foldl {α : Type} {f : Planning → α → Planning} (h : s.PlansAs p.s)
    (hf : ∀ (q : Planning) a, s.PlansAs q.s → s.PlansAs (f q a).s) (l : List α) : s.PlansAs (l.foldl f p).s :=
  List.foldlRecOn (motive := fun q => s.PlansAs q.s) l f h fun q hq a _ => hf q a hq

theorem pass {f : Planning → DropIx → Planning} (h : s.PlansAs p.s)
    (hf : ∀ (q : Planning) d, s.PlansAs q.s → s.PlansAs (f q d).s) : s.PlansAs (p.pass f).s := h.foldl hf _

end State.PlansAs

theorem plan_plansAs (s : State) (ahead : Nat) (spent : Budget) :
    (s.beginPlanning (s.windowStart ahead) spent).s.PlansAs (s.plan ahead spent).s := by
  have hard := State.PlansAs.foldl (f := Planning.hard) (p := s.beginPlanning (s.windowStart ahead) spent)
    ⟨rfl, rfl, rfl, fun _ => rfl⟩ (fun _ g h => h.hard g) (s.gather (s.windowStart ahead + Config.psPerMs))
  exact ((hard.pass fun _ d h => h.urgent d).pass fun _ d h => h.trickle d).pass fun _ d h => h.exchange d

/-! ### The planning of a boundary -/

theorem planNext_drops (s : State) : s.planNext.drops = (s.plan 1 Budget.fresh).s.drops := by
  rw [State.planNext, State.setSpent, State.setSched_drops]

theorem planNext_sched (s : State) : s.planNext.sched =
    { (s.plan 1 Budget.fresh).s.sched with
      unitsNow := s.sched.unitsNext, itemsNow := s.sched.itemsNext
      unitsNext := (s.plan 1 Budget.fresh).budget.units, itemsNext := (s.plan 1 Budget.fresh).budget.items } := by
  rw [State.planNext, State.setSpent, State.setSched_sched, Scheduler.spentNext]

theorem planNext_units (s : State) :
    s.planNext.sched.unitsNext ≤ 24 ∧ ∀ d : DropIx, s.planNext.sched.itemsNext[d] ≤ 4 := by
  obtain ⟨hs, ss, adds, -⟩ := plan_adds (s := s) 1 Budget.inRange.fresh
  simp only [planNext_sched]
  exact ⟨adds.budget.units, adds.budget.items⟩

theorem planNext_timers (s : State) (d : DropIx) : (s.planNext.drops[d]).timers = (s.drops[d]).timers := by
  rw [planNext_drops, (plan_plansAs s 1 Budget.fresh).timers d]
  rfl

theorem planNext_gradeUsed (s : State) : s.planNext.sched.gradeUsed = s.tb.grade := by
  simp only [planNext_sched, (plan_plansAs s 1 Budget.fresh).gradeUsed]
  rfl

theorem planNext_dropHorizon (s : State) (d : DropIx) :
    s.planNext.sched.dropHorizon[d] = s.horizonAfter (s.windowStart 1 + Config.psPerMs) (.drop d) := by
  rw [planNext_sched, (plan_plansAs s 1 Budget.fresh).dropHorizon]
  simp [State.beginPlanning, State.raiseHorizons]

theorem planNext_pxHorizon (s : State) (x : Px) :
    s.planNext.sched.pxHorizon[x] = s.horizonAfter (s.windowStart 1 + Config.psPerMs) (.px x) := by
  rw [planNext_sched, (plan_plansAs s 1 Budget.fresh).pxHorizon]
  simp [State.beginPlanning, State.raiseHorizons]

/-! ### The boundary reached -/

/-- The instant of the millisecond boundary taken: the oldest owed, or the next when none is. -/
def State.boundaryTaken (s : State) : Nat :=
  (((s.counter.instant / 1000000000 : Nat) + 1 - s.msOwed.boundaries : Int) * 1000000000 %
    (2 ^ 48 * 1000000000000)).toNat

theorem boundaryTaken_spec (s : State) :
    s.boundaryTaken < 2 ^ 48 * 1000000000000 ∧ s.boundaryTaken % 1000000000 = 0 := by
  unfold State.boundaryTaken
  omega

theorem oldestMillisecond_owed (h : s.msOwed.boundaries ≠ 0) : s.oldestMillisecond = s.boundaryTaken := by
  simp only [State.oldestMillisecond, State.boundaryTaken, wrapInstant, Config.psPerMs, Config.siteSpan,
    Config.siteSeconds, Config.psPerSecond]
  omega

theorem reachMillisecond_owed (h : s.msOwed.boundaries ≠ 0) : s.reachMillisecond = s := if_neg h

/-- With none owed, the counter runs to the next boundary, which is then the one owed. -/
theorem reachMillisecond_next (h : s.msOwed.boundaries = 0) (hf : s.tb.state ≠ .fault) (hc : s.counterInRange) :
    s.reachMillisecond.counter.instant = s.boundaryTaken ∧ s.reachMillisecond.counter.frac = 0 ∧
      s.reachMillisecond.msOwed = { s.msOwed with boundaries := 1 } := by
  have ms : s.counter.millisPassed (Config.psPerMs - s.counter.ps % Config.psPerMs) = 1 := by
    simp only [Reading.millisPassed, Config.psPerMs]
    omega
  rw [State.reachMillisecond, if_pos h]
  dsimp only
  rw [State.runCounter_running _ _ hf, ms]
  refine ⟨?_, rfl, by simp [MsOwed.owe, h]⟩
  show (Reading.at _ _).instant = _
  rw [ReferenceInputs.instant_at, State.boundaryTaken, h]
  have := hc.2.1
  simp only [Reading.instant, Config.psPerMs, Config.psPerSecond] at this ⊢
  omega

/-- The boundary taken is then the oldest owed. -/
theorem oldestMillisecond_reach (hf : s.tb.state ≠ .fault) (hc : s.counterInRange) :
    s.reachMillisecond.oldestMillisecond = s.boundaryTaken := by
  by_cases h : s.msOwed.boundaries = 0
  · obtain ⟨hinstant, -, howed⟩ := reachMillisecond_next h hf hc
    have := boundaryTaken_spec s
    simp only [State.oldestMillisecond, hinstant, howed, wrapInstant, Config.psPerMs, Config.siteSpan,
      Config.siteSeconds, Config.psPerSecond]
    omega
  · rw [reachMillisecond_owed h, oldestMillisecond_owed h]

/-! ### The boundary taken -/

/-- The state in which the oldest boundary is taken: the reading at it, one boundary fewer owed, and the timers counted
down. -/
def State.atOldest (s : State) : State :=
  ({ s with
    counter := Reading.at s.oldestMillisecond 0
    msOwed := { boundaries := s.msOwed.boundaries - 1, planned := s.msOwed.planned - 1 } }).tickDrops

theorem takeMillisecond_of_unplanned (h : s.msOwed.planned = 0) :
    s.takeMillisecond = { s.atOldest.planNext.syncAlarms with counter := s.counter } := by
  rw [State.takeMillisecond, if_pos h]
  rfl

theorem takeMillisecond_of_planned (h : s.msOwed.planned ≠ 0) :
    s.takeMillisecond = { s.atOldest.syncAlarms with counter := s.counter } := by
  rw [State.takeMillisecond, if_neg h]
  rfl

theorem atOldest_only (s : State) : OnlyChanges [.counter, .msOwed, .drops] s s.atOldest :=
  (State.tickDrops_only _ _ _ (by decide)).mpr fun f hf => by
    cases f <;> first | rfl | exact absurd (by decide) hf

theorem atOldest_counter (s : State) : s.atOldest.counter = Reading.at s.oldestMillisecond 0 := by
  simp only [State.atOldest, State.tickDrops]

theorem atOldest_px (s : State) : s.atOldest.px = s.px := atOldest_only s .px (by decide)

theorem atOldest_sched (s : State) : s.atOldest.sched = s.sched := atOldest_only s .sched (by decide)

theorem atOldest_timers (s : State) (d : DropIx) : (s.atOldest.drops[d]).timers =
    ((s.drops[d]).annTimer.map (· - 1), (s.drops[d]).probeTimer.map (· - 1), (s.drops[d]).offerTimer.map (· - 1)) := by
  simp only [State.atOldest, State.tickDrops, mapAll_get, DropRec.timers, tick]

theorem atOldest_delay (s : State) (d : DropIx) : (s.atOldest.drops[d]).delay = (s.drops[d]).delay := by
  simp only [State.atOldest, State.tickDrops, mapAll_get]

theorem atOldest_targetDelay (s : State) (o : Output) : s.atOldest.targetDelay o = s.targetDelay o := by
  cases o with
  | drop d => rw [State.targetDelay, atOldest_delay, State.targetDelay]
  | px x => rw [State.targetDelay, atOldest_px, State.targetDelay]

theorem atOldest_horizon (s : State) (o : Output) : s.atOldest.horizon o = s.horizon o := by
  cases o with
  | drop d => rw [State.horizon, atOldest_sched, State.horizon]
  | px x => rw [State.horizon, atOldest_sched, State.horizon]

theorem atOldest_instant (h : s.oldestMillisecond < 2 ^ 48 * 1000000000000) :
    s.atOldest.counter.instant = s.oldestMillisecond := by
  rw [atOldest_counter, ReferenceInputs.instant_at, Nat.mod_eq_of_lt h]

/-- The horizon that the planning at a boundary leaves: the end of the window after the one that begins, plus the delay,
or where it stood beyond that (R118). -/
theorem atOldest_horizonAfter {b : Nat} (hb : s.oldestMillisecond = b) (hlt : b < 2 ^ 48 * 1000000000000)
    (hwhole : b % 1000000000 = 0) (o : Output) :
    s.atOldest.horizonAfter (s.atOldest.windowStart 1 + Config.psPerMs) o =
      wrapInstant (max (b + signedElapsed b (s.horizon o)) ((b + 2000000000 : Nat) + s.targetDelay o)) := by
  subst hb
  have start : s.atOldest.windowStart 1 + Config.psPerMs = (s.oldestMillisecond + 2000000000 : Nat) := by
    simp only [State.windowStart, atOldest_instant hlt, Config.psPerMs]
    omega
  rw [State.horizonAfter, start, atOldest_targetDelay, State.lift, atOldest_instant hlt, atOldest_horizon]

/-- A boundary that is planned already leaves the state in which it is taken. -/
theorem takeMillisecond_planned_only (h : s.msOwed.planned ≠ 0) :
    OnlyChanges [.counter, .alarms, .views] s.atOldest s.takeMillisecond.syncAlarms := by
  rw [takeMillisecond_of_planned h, State.syncAlarms_only _ _ _ (by decide) (by decide),
    onlyChanges_counter _ _ _ _ (by decide)]
  simp

/-- Any other boundary leaves what the planning makes of that state. -/
theorem takeMillisecond_unplanned_only (h : s.msOwed.planned = 0) :
    OnlyChanges [.counter, .alarms, .views] s.atOldest.planNext s.takeMillisecond.syncAlarms := by
  rw [takeMillisecond_of_unplanned h, State.syncAlarms_only _ _ _ (by decide) (by decide),
    onlyChanges_counter _ _ _ _ (by decide)]
  simp

theorem takeMillisecond_counter (s : State) : s.takeMillisecond.syncAlarms.counter = s.counter := by
  rw [ReferenceInputs.syncAlarms_counter, State.takeMillisecond]

theorem atOldest_msOwed (s : State) :
    s.atOldest.msOwed = { boundaries := s.msOwed.boundaries - 1, planned := s.msOwed.planned - 1 } := by
  simp only [State.atOldest, State.tickDrops]

theorem takeMillisecond_msOwed (s : State) : s.takeMillisecond.syncAlarms.msOwed =
    { boundaries := s.msOwed.boundaries - 1, planned := s.msOwed.planned - 1 } := by
  by_cases h : s.msOwed.planned = 0
  · have planned : s.atOldest.planNext.msOwed = s.atOldest.msOwed :=
      (show OnlyChanges [.entries, .sched, .drops] s.atOldest _ by simp) .msOwed (by decide)
    have kept : _ = s.atOldest.planNext.msOwed := takeMillisecond_unplanned_only h .msOwed (by decide)
    rw [kept, planned, atOldest_msOwed]
  · have kept : _ = s.atOldest.msOwed := takeMillisecond_planned_only h .msOwed (by decide)
    rw [kept, atOldest_msOwed]

theorem takeMillisecond_timers (s : State) (d : DropIx) : (s.takeMillisecond.syncAlarms.drops[d]).timers =
    ((s.drops[d]).annTimer.map (· - 1), (s.drops[d]).probeTimer.map (· - 1), (s.drops[d]).offerTimer.map (· - 1)) := by
  by_cases h : s.msOwed.planned = 0
  · have kept : _ = s.atOldest.planNext.drops := takeMillisecond_unplanned_only h .drops (by decide)
    rw [kept, planNext_timers, atOldest_timers]
  · have kept : _ = s.atOldest.drops := takeMillisecond_planned_only h .drops (by decide)
    rw [kept, atOldest_timers]

/-- Reaching a boundary moves the counter and what it owes alone. -/
theorem reachMillisecond_frame (s : State) : OnlyChanges [.counter, .secondOwed, .msOwed] s s.reachMillisecond := by
  simp

/-- Reaching the next boundary owes it, which its taking pays off. -/
theorem reachMillisecond_msOwed (hf : s.tb.state ≠ .fault) (hc : s.counterInRange) :
    s.reachMillisecond.msOwed.boundaries - 1 = s.msOwed.boundaries - 1 ∧
      s.reachMillisecond.msOwed.planned = s.msOwed.planned := by
  by_cases h : s.msOwed.boundaries = 0
  · obtain ⟨-, -, howed⟩ := reachMillisecond_next h hf hc
    simp [howed, h]
  · rw [reachMillisecond_owed h]
    exact ⟨rfl, rfl⟩

theorem exec_counterMillisecondBoundary (hf : s.tb.state ≠ .fault) :
    exec .counterMillisecondBoundary s = .next s.reachMillisecond.takeMillisecond.syncAlarms := by
  simp only [exec, execCounterMillisecondBoundary, finish, State.millisecondBoundary, if_neg hf]

/-- Settles O17: the boundary is reached, the timers count down there, and the planning of the next window, unless it is
done already, leaves them. -/
theorem millisecondBoundaryPlansWindow : Obligations.MillisecondBoundaryPlansWindow := by
  unfold Obligations.MillisecondBoundaryPlansWindow
  intro s b hf hc hb
  replace hb : s.boundaryTaken = b := hb.symm
  obtain ⟨hlt, hwhole⟩ := boundaryTaken_spec s
  have oldest := oldestMillisecond_reach hf hc
  rw [hb] at hlt hwhole oldest
  obtain ⟨howed, hplanned⟩ := reachMillisecond_msOwed hf hc
  have reached := reachMillisecond_frame s
  have drops : s.reachMillisecond.drops = s.drops := reached .drops (by decide)
  have sched : s.reachMillisecond.sched = s.sched := reached .sched (by decide)
  have px : s.reachMillisecond.px = s.px := reached .px (by decide)
  refine ⟨_, exec_counterMillisecondBoundary hf, ?_, fun d => ?_, fun h => ?_, fun h => ?_, fun h => ?_, fun h => ?_,
    ?_⟩
  · rw [takeMillisecond_msOwed, howed, hplanned]
  · have timers := takeMillisecond_timers s.reachMillisecond d
    rw [drops] at timers
    simpa only [DropRec.timers, Prod.mk.injEq] using timers
  · obtain ⟨hinstant, hfrac, -⟩ := reachMillisecond_next h hf hc
    rw [takeMillisecond_counter, hinstant, hfrac]
    exact ⟨rfl, hb⟩
  · have secondOwed : s.reachMillisecond.takeMillisecond.syncAlarms.secondOwed = s.reachMillisecond.secondOwed :=
      (show OnlyChanges [.counter, .msOwed, .entries, .sched, .drops, .alarms, .views] s.reachMillisecond _ by simp)
        .secondOwed (by decide)
    rw [takeMillisecond_counter, secondOwed, reachMillisecond_owed h]
    exact ⟨rfl, rfl⟩
  · have kept : _ = s.reachMillisecond.atOldest.planNext.sched :=
      takeMillisecond_unplanned_only (hplanned.trans h) .sched (by decide)
    have before : s.reachMillisecond.atOldest.sched = s.sched := (atOldest_sched _).trans sched
    have tb : s.reachMillisecond.atOldest.tb = s.tb :=
      (atOldest_only _ .tb (by decide)).trans (reached .tb (by decide))
    obtain ⟨units, items⟩ := planNext_units s.reachMillisecond.atOldest
    rw [kept]
    refine ⟨?_, units, ?_, fun d => ⟨?_, items d, ?_⟩, fun x => ?_⟩
    · rw [planNext_sched, before]
    · rw [planNext_gradeUsed, tb]
    · rw [planNext_sched, before]
    · rw [planNext_dropHorizon, atOldest_horizonAfter oldest hlt hwhole, State.horizon, State.targetDelay, sched, drops]
    · rw [planNext_pxHorizon, atOldest_horizonAfter oldest hlt hwhole, State.horizon, State.targetDelay, sched, px]
      push_cast
      rfl
  · have planned : s.reachMillisecond.msOwed.planned ≠ 0 := by rwa [hplanned]
    have kept := takeMillisecond_planned_only planned
    have before := atOldest_only s.reachMillisecond
    exact ⟨((kept .sched (by decide)).trans (before .sched (by decide))).trans sched,
      ((kept .entries (by decide)).trans (before .entries (by decide))).trans (reached .entries (by decide))⟩
  · simp

end Sys2Proof.Machine
end

section
/-! The release of hard items, the pulse outputs, and the EMIT_OVERRUN hold (O35; R121, R123, R124). -/

namespace Sys2Proof.Machine

variable {s v : State}

/-! ### What the alarms are handed (R156, R157) -/

theorem setAlarm_condition (i j : AlarmIx) (x : AlarmRec) :
    ((s.setAlarm i x).alarms[j]).condition = if j = i then x.condition else (s.alarms[j]).condition := by
  by_cases hj : j = i
  · subst hj
    rw [State.setAlarm_self, if_pos rfl]
  · rw [State.setAlarm_other _ _ _ _ hj, if_neg hj]

theorem showTransitions_alarms (i : AlarmIx) (n : Notice) :
    (forEach 4 s fun p t => t.showTransition i n p).alarms = s.alarms :=
  forEach_keeps 4 s _ State.alarms fun p t => (show OnlyChanges [.views] t _ by simp) .alarms (by decide)

theorem raiseAlarm_condition (i j : AlarmIx) : ((s.raiseAlarm i).alarms[j]).condition = (s.alarms[j]).condition := by
  rw [State.raiseAlarm, showTransitions_alarms, setAlarm_condition]
  split
  · next hj => rw [hj]
  · rfl

theorem clearAlarm_condition (i j : AlarmIx) : ((s.clearAlarm i).alarms[j]).condition = (s.alarms[j]).condition := by
  rw [State.clearAlarm, showTransitions_alarms, setAlarm_condition]
  split
  · next hj => rw [hj]
  · rfl

theorem conditionAppears_condition (i j : AlarmIx) :
    ((s.conditionAppears i).alarms[j]).condition = if j = i then true else (s.alarms[j]).condition := by
  unfold State.conditionAppears
  split
  · split <;> simp only [raiseAlarm_condition, setAlarm_condition]
  all_goals rw [setAlarm_condition]

theorem conditionGoes_condition (i j : AlarmIx) :
    ((s.conditionGoes i).alarms[j]).condition = if j = i then false else (s.alarms[j]).condition := by
  unfold State.conditionGoes
  split
  case h_2 => split <;> simp only [clearAlarm_condition, setAlarm_condition]
  all_goals rw [setAlarm_condition]

/-- A record keeps the condition handed over, and no other record moves. -/
theorem setCondition_condition (i j : AlarmIx) (present : Bool) :
    ((s.setCondition i present).alarms[j]).condition = if j = i then present else (s.alarms[j]).condition := by
  unfold State.setCondition
  split
  · next same =>
    split
    · next hj => rw [hj, same]
    · rfl
  · split
    · next hp => rw [conditionAppears_condition, hp]
    · next hp => rw [conditionGoes_condition, Bool.eq_false_of_not_eq_true hp]

theorem foldl_setCondition (c : AlarmIx → Bool) (l : List AlarmIx) (j : AlarmIx) :
    ((l.foldl (fun t i => t.setCondition i (c i)) s).alarms[j]).condition =
      if j ∈ l then c j else (s.alarms[j]).condition := by
  induction l generalizing s with
  | nil => simp
  | cons i l ih =>
    rw [List.foldl_cons, ih, setCondition_condition]
    by_cases hl : j ∈ l
    · simp [hl]
    · by_cases hj : j = i
      · simp [hj]
      · simp [hl, hj]

/-- After the conditions are handed over, each record has its own (R156). -/
theorem syncAlarms_condition (j : AlarmIx) : (s.syncAlarms.alarms[j]).condition = s.conditionOf j :=
  (foldl_setCondition s.conditionOf _ j).trans (if_pos (List.mem_finRange j))

/-! ### One hard item (R123) -/

theorem changeEntry_get (i j : EntryIx) (f : Entry → Entry) :
    (s.changeEntry i f).entries[j] = if j = i then (s.entries[i]).map f else s.entries[j] := by
  unfold State.changeEntry
  split
  · next e he => rw [State.tableSound.setEntry_get, he, Option.map_some]
  · next he =>
    split
    · next hj => rw [hj, he, Option.map_none]
    · rfl

theorem countEmitted_eq : Entry.countEmitted = fun e => { e with emitted := min 4294967295 (e.emitted + 1) } := by
  funext e
  simp [Entry.countEmitted, countUp, Config.max32, Nat.min_comm]

theorem withheld_iff {h : HardItem} : s.withheld h = true ↔
    s.tb.state = .warmup ∨ s.tb.state = .fault ∨ h.squelch.code < s.tb.grade.code ∨
      ∃ d, h.target = .drop d ∧
        ((s.drops[d]).state ≠ .serving ∨ (s.drops[d]).turn ≠ .isIn ∨ (s.drops[d]).lineActive = true) := by
  unfold State.withheld
  cases h.target with
  | drop d =>
    simp [-Fin.getElem_fin, State.dropUnready, Grade.worseThan]
    tauto
  | px x =>
    simp [State.dropUnready, Grade.worseThan]
    tauto

theorem releaseItem_withheld {h : HardItem} (hw : s.withheld h = true) :
    s.releaseItem h = s.changeEntry h.entry Entry.countSuppressed := if_pos hw

theorem releaseItem_emitted {h : HardItem} (hw : s.withheld h = false) :
    s.releaseItem h = (s.emit h).changeEntry h.entry Entry.countEmitted := if_neg (by simp [hw])

theorem markMessage_eq (n : EntryIx) : markMessage n = withCheck [1, BitVec.ofNat 8 n.val] := rfl

/-- A line without a message, its turn in or within its limit, is left as it is. -/
theorem settleLine_quiet {d : DropIx} (hline : (s.drops[d]).line = none)
    (hturn : (s.drops[d]).turn = .isIn ∨ ∃ start w limit t1 maxRtt, (s.drops[d]).turn = .out start w limit t1 maxRtt ∧
      elapsed start s.counter.instant ≤ limit) : s.settleLine d = s := by
  unfold State.settleLine
  rw [hline]
  dsimp only
  rcases hturn with hin | ⟨start, w, limit, t1, maxRtt, hout, hlimit⟩
  · rw [hin]
  · rw [hout]
    exact if_neg (by omega)

/-! ### The first item of an entry -/

theorem takeFirst_append {α : Type} {p : α → Bool} {before after : List α} {a : α} (ha : p a = true)
    (hbefore : ∀ y ∈ before, p y = false) : takeFirst p (before ++ a :: after) = some (a, before ++ after) := by
  induction before with
  | nil => simp [takeFirst, ha]
  | cons y l ih =>
    rw [List.cons_append, takeFirst, hbefore y List.mem_cons_self,
      ih fun z hz => hbefore z (List.mem_cons_of_mem y hz)]
    rfl

/-- The state in which a hard item is released: the plan without it, at its transmit instant. -/
def State.atRelease (s : State) (h : HardItem) (rest : List HardItem) : State :=
  ((s.setSched { s.sched with hardPlan := rest }).reachInstant h.transmit).settleTarget h.target

theorem exec_hardInstanceRelease {n : EntryIx} {h : HardItem} {before after : List HardItem}
    (hplan : s.sched.hardPlan = before ++ h :: after) (hn : h.entry = n) (hbefore : ∀ y ∈ before, y.entry ≠ n) :
    exec (.hardInstanceRelease n) s = .next ((s.atRelease h (before ++ after)).releaseItem h).syncAlarms := by
  have first : takeFirst (fun h : HardItem => h.entry = n) s.sched.hardPlan = some (h, before ++ after) := by
    rw [hplan]
    exact takeFirst_append (by simpa using hn) (by simpa using hbefore)
  simp only [exec, execHardInstanceRelease, finish, State.releaseHard, first, State.atRelease]

section
variable (s : State) (h : HardItem) (rest : List HardItem)

theorem atRelease_only :
    OnlyChanges [.counter, .secondOwed, .msOwed, .sched, .drops, .views] s (s.atRelease h rest) := by
  simp [State.atRelease]

theorem atRelease_sched : (s.atRelease h rest).sched = { s.sched with hardPlan := rest } :=
  (show OnlyChanges [.counter, .secondOwed, .msOwed, .drops, .views]
    (s.setSched { s.sched with hardPlan := rest }) (s.atRelease h rest) by simp [State.atRelease]) .sched (by decide)

theorem atRelease_drops_px {x : Px} (hx : h.target = .px x) : (s.atRelease h rest).drops = s.drops := by
  rw [State.atRelease, hx]
  exact (show OnlyChanges [.counter, .secondOwed, .msOwed, .sched] s _ by simp [State.settleTarget]) .drops (by decide)

/-- A drop with no message on its line, its turn in or within its limit, is as it was. -/
theorem atRelease_drops_quiet (hquiet : ∀ d, h.target = .drop d → (s.drops[d]).line = none ∧
    ((s.drops[d]).turn = .isIn ∨ ∃ start w limit t1 maxRtt, (s.drops[d]).turn = .out start w limit t1 maxRtt ∧
      elapsed start (s.atRelease h rest).counter.instant ≤ limit)) : (s.atRelease h rest).drops = s.drops := by
  cases ht : h.target with
  | px x => exact atRelease_drops_px s h rest ht
  | drop d =>
    obtain ⟨hline, hturn⟩ := hquiet d ht
    have drops : ((s.setSched { s.sched with hardPlan := rest }).reachInstant h.transmit).drops = s.drops :=
      (show OnlyChanges [.counter, .secondOwed, .msOwed, .sched] s _ by simp) .drops (by decide)
    have counter : (s.atRelease h rest).counter =
        ((s.setSched { s.sched with hardPlan := rest }).reachInstant h.transmit).counter :=
      (show OnlyChanges [.drops, .views] _ (s.atRelease h rest) by simp [State.atRelease]) .counter (by decide)
    rw [counter] at hturn
    rw [State.atRelease, ht, State.settleTarget, settleLine_quiet (by rw [drops, hline]) (by rw [drops]; exact hturn),
      drops]

end

/-- Emitting moves the target alone, then the entry's count. -/
theorem releaseItem_drop {h : HardItem} {d : DropIx} (hd : h.target = .drop d) (hw : s.withheld h = false) :
    s.releaseItem h = (s.putOnLine d
      { kind := .mark, bytes := withCheck [1, BitVec.ofNat 8 h.entry.val], start := h.transmit, length := 40000
        limit := 0, maxRtt := 0 }).changeEntry h.entry Entry.countEmitted := by
  rw [releaseItem_emitted hw, State.emit, hd]
  rfl

theorem releaseItem_px {h : HardItem} {x : Px} (hx : h.target = .px x) (hw : s.withheld h = false) :
    s.releaseItem h =
      (s.setPx x ((s.px[x]).drive h.transmit h.width)).changeEntry h.entry Entry.countEmitted := by
  rw [releaseItem_emitted hw, State.emit, hx]

/-- The end of a PULSE is counted modulo the span of the counter. -/
theorem wrapInstant_nat (i : Nat) : wrapInstant i = i % (2 ^ 48 * 1000000000000) := by
  simp only [wrapInstant, Config.siteSpan, Config.siteSeconds, Config.psPerSecond]
  omega

theorem drive_of_idle {x : PulseOut} (hx : x.until_ = none) (transmit width : Nat) : x.drive transmit width =
    { x with until_ := some ((transmit + width * 1000) % (2 ^ 48 * 1000000000000)) } := by
  simp only [PulseOut.drive, hx, ← wrapInstant_nat]
  push_cast
  rfl

theorem drive_of_active {x : PulseOut} {old stop : Nat} (hx : x.until_ = some old) {transmit width : Nat}
    (hstop : stop = (transmit + width * 1000) % (2 ^ 48 * 1000000000000)) : x.drive transmit width =
      { x with until_ := some (if 0 < signedElapsed old stop then stop else old) } := by
  subst hstop
  simp only [PulseOut.drive, hx, ← wrapInstant_nat]
  push_cast
  rfl

/-- What a release leaves of the entries, the drops and the pulse outputs. -/
theorem release_leaves {n : EntryIx} {x : Entry} {f : Entry → Entry} {u : State} (hx : u.entries[n] = some x) :
    (u.changeEntry n f).syncAlarms.entries[n] = some (f x) ∧ (u.changeEntry n f).syncAlarms.drops = u.drops ∧
      (u.changeEntry n f).syncAlarms.px = u.px := by
  have kept : OnlyChanges [.alarms, .views] (u.changeEntry n f) (u.changeEntry n f).syncAlarms := by simp
  have frame : OnlyChanges [.entries, .alarms, .views] u (u.changeEntry n f).syncAlarms := by simp
  have entries : (u.changeEntry n f).syncAlarms.entries = (u.changeEntry n f).entries := kept .entries (by decide)
  refine ⟨?_, frame .drops (by decide), frame .px (by decide)⟩
  rw [entries, changeEntry_get, if_pos rfl, hx, Option.map_some]

/-- No release moves an entry other than the item's. -/
theorem releaseItem_other {h : HardItem} {m : EntryIx} (hm : m ≠ h.entry) :
    (s.releaseItem h).entries[m] = s.entries[m] := by
  cases hw : s.withheld h with
  | true => rw [releaseItem_withheld hw, changeEntry_get, if_neg hm]
  | false =>
    have emitted : (s.emit h).entries = s.entries := (show OnlyChanges [.drops, .px] s _ by simp) .entries (by decide)
    rw [releaseItem_emitted hw, changeEntry_get, if_neg hm, emitted]

/-- Settles O35: the item released is the first of its entry, and each effect of its release is that of one operation
of the state. -/
theorem hardItemsAndPulsesAreReleased : Obligations.HardItemsAndPulsesAreReleased := by
  unfold Obligations.HardItemsAndPulsesAreReleased
  refine ⟨?_, fun x s u hu => ?_, fun s d hd => ?_⟩
  · rintro n s v x before after h hplan rfl hbefore hx hv
    replace hv : v = s.atRelease h (before ++ after) := hv
    have frame : OnlyChanges _ s v := hv ▸ atRelease_only s h (before ++ after)
    have entries : v.entries = s.entries := frame .entries (by decide)
    have tb : v.tb = s.tb := frame .tb (by decide)
    have px : v.px = s.px := frame .px (by decide)
    have sched : v.sched = _ := hv ▸ atRelease_sched s h (before ++ after)
    have present : v.entries[h.entry] = some x := by rw [entries, hx]
    have kept : OnlyChanges [.entries, .px, .drops, .alarms, .views] v (v.releaseItem h).syncAlarms := by simp
    refine ⟨_, hv ▸ exec_hardInstanceRelease hplan rfl hbefore, ?_, fun m hm => ?_, fun hquiet => ?_, fun hw => ?_,
      fun d hwarm hfault hgrade hd hserving hturn hactive => ?_, fun p stop hwarm hfault hgrade hp hstop => ?_, ?_⟩
    · exact (kept .sched (by decide)).trans sched
    · have same : (v.releaseItem h).syncAlarms.entries = (v.releaseItem h).entries :=
        ReferenceInputs.syncAlarms_frame _ .entries (by decide)
      rw [same, releaseItem_other hm, entries]
    · subst hv
      exact atRelease_drops_quiet s h _ hquiet
    · rw [← tb] at hw
      rw [releaseItem_withheld (withheld_iff.mpr hw)]
      obtain ⟨hentry, hdrops, hpx⟩ := release_leaves (f := Entry.countSuppressed) present
      exact ⟨by rw [hentry, countSuppressed_eq], hdrops, hpx.trans px⟩
    · have hw : v.withheld h = false := by
        rw [← Bool.not_eq_true, withheld_iff, tb, hd]
        simp [-Fin.getElem_fin, hwarm, hfault, hgrade, hserving, hturn, hactive]
      rw [releaseItem_drop hd hw]
      obtain ⟨hentry, hdrops, hpx⟩ := release_leaves (f := Entry.countEmitted) (u := v.putOnLine d _) present
      exact ⟨by rw [hentry, countEmitted_eq], hpx.trans px, hdrops⟩
    · have hw : v.withheld h = false := by
        rw [← Bool.not_eq_true, withheld_iff, tb, hp]
        simp [hwarm, hfault, hgrade]
      rw [releaseItem_px hp hw]
      obtain ⟨hentry, hdrops, hpx⟩ := release_leaves (f := Entry.countEmitted) (u := v.setPx p _) present
      have drops : v.drops = s.drops := hv ▸ atRelease_drops_px s h _ hp
      refine ⟨by rw [hentry, countEmitted_eq], hdrops.trans drops, fun hidle => ?_, fun old hold => ?_⟩
      · rw [hpx, State.setPx_px, px, drive_of_idle hidle, hstop]
      · rw [hpx, State.setPx_px, px, drive_of_active hold hstop]
    · exact (frame.mono (by simp [touches, Field.running])).trans (kept.mono (by simp [touches, Field.running]))
  · have ran : (s.reachInstant u).px = s.px :=
      (show OnlyChanges [.counter, .secondOwed, .msOwed] s _ by simp) .px (by decide)
    refine ⟨_, rfl, ?_, by simp [Field.running]⟩
    simp only [State.endPulse, hu, State.setPx_px, ran]
  · have ended : exec .emitOverrunHoldExpiry s =
        .next ((s.reachMonitor d).setSched { s.sched with overrunHold := none }).syncAlarms := by
      simp only [exec, execEmitOverrunHoldExpiry, hd, finish]
    have kept := ReferenceInputs.syncAlarms_frame ((s.reachMonitor d).setSched { s.sched with overrunHold := none })
    refine ⟨_, ended, kept .sched (by decide), ?_, ?_, by simp⟩
    · rw [ReferenceInputs.syncAlarms_osc, State.setSched_osc, State.reachMonitor_now]
    · rw [syncAlarms_condition]
      rfl

end Sys2Proof.Machine
end
